-- ==== Sys2Proof/Word.lean ====
section
/-! DEFINITION. The word types of the Vrelium V4 and their plainest arithmetic (00_scope.md R3, R4, R8). -/

namespace Sys2Proof

/-- One byte of memory; memory is byte-addressed and little-endian (R4). -/
abbrev Byte := BitVec 8
/-- One lane's vector register (R8). -/
abbrev Word := BitVec 32
/-- A uniform register, a register pair, an address (R4, R8). -/
abbrev DWord := BitVec 64
/-- A mask of group lanes, bit l for lane l (R32). -/
abbrev LaneMask := BitVec 64

/-- The bits [hi:lo] of a number, both ends included (R3). -/
def bits (hi lo x : Nat) : Nat := x / 2 ^ lo % 2 ^ (hi + 1 - lo)

/-- The lanes of a mask, ascending. -/
def lanes (m : LaneMask) : List Nat := (List.range 64).filter fun l => m.getLsbD l

/-- The mask of one lane. -/
def laneBit (l : Nat) : LaneMask := BitVec.ofNat 64 (2 ^ l)

/-- The mask that holds the lanes below `w`. -/
def lanesBelow (w : Nat) : LaneMask := BitVec.ofNat 64 (2 ^ w - 1)

end Sys2Proof
end

