-- ==== Sys2Proof/Syntax.lean ====
section
/-! DEFINITION. The syntax of the machine: one constructor per row of spec/opcode_table.json, the lane
instructions of 19_formats.md (R190 to R207) first and, beside them, the steps of the other agents. -/

namespace Sys2Proof

/-- The guard of an instruction (R192): predicate number (15 for always) and negation. -/
structure Guard where
  g : BitVec 4
  neg : Bool
deriving DecidableEq, Repr

/-- The unconditional guard. -/
def Guard.always : Guard := { g := 15, neg := false }

/-- A source operand by its kind (R195): vector register, uniform register, the literal, small immediate.
An unused operand is `v 0`, field 0 of kind 0. -/
inductive Src where
  | v (n : BitVec 8)
  | g (n : BitVec 8)
  | lit (x : DWord)
  | imm (x : BitVec 8)
deriving DecidableEq, Repr

/-- A destination (R194): DK and D. -/
structure Dst where
  uni : Bool
  n : BitVec 8
deriving DecidableEq, Repr

/-- The type codes 0 to 13 (R198). -/
inductive Ty where
  | s8 | s16 | s32 | s64 | n8 | n16 | n32 | n64 | b32 | f32 | f16 | bf16 | e4m3 | e5m2
deriving DecidableEq, Repr

/-- What every extended instruction holds in word 0 and word 1 (R194). -/
structure Ext where
  g : Guard
  sub : BitVec 6
  la : BitVec 4
  d : Dst
  a : Src
  b : Src
  c : Src
deriving DecidableEq, Repr

/-- Format XA (R197). -/
structure XA extends Ext where
  pd : BitVec 4
  q : BitVec 8
  t : Ty
deriving DecidableEq, Repr

/-- Format XM (R199). -/
structure XM extends Ext where
  disp : BitVec 16
  ranged : Bool
  sl : BitVec 3
  o : BitVec 2
  s : BitVec 4
  v : BitVec 2
  t : Ty
deriving DecidableEq, Repr

/-- The target of a direct transfer (R200): an offset in words, or an absolute literal. -/
inductive Target where
  | rel (off : BitVec 24)
  | abs (a : DWord)
deriving DecidableEq, Repr

/-- Format XC (R200). -/
structure XC extends Ext where
  prio : BitVec 8
  target : Target
deriving DecidableEq, Repr

/-- Format XS (R200). -/
structure XS extends Ext where
  i32 : BitVec 32
deriving DecidableEq, Repr

/-- Format P (R193). -/
structure PForm where
  g : Guard
  nb : Bool
  na : Bool
  pb : BitVec 4
  pa : BitVec 4
  pd : BitVec 4
deriving DecidableEq, Repr

/-- A unit that the foreman counts events against or takes out of service (R354 to R357). -/
inductive Part where
  | column (n : Nat)
  | slice (n : Nat)
  | bank (n : Nat)
  | eraseBlock (stack n : Nat)
  | memoryStack (n : Nat)
  | flashStack (n : Nat)
deriving DecidableEq, Repr

/-- How a peer is reached (R346): by which of the eight ports, and whether its congestion control is by receiver credit
rather than signalled by the network. -/
structure PeerRoute where
  port : Nat
  credit : Bool
deriving DecidableEq, Repr

/-- A packet that arrives from a peer (R346, R349): message number, window, the message's offset and length, mode
(2 for RUDI), its ordered flow with its sequence number there, where its bytes begin in the message, the bytes, whether
it passes authentication, whether it was trimmed. -/
structure Arrival where
  peer : Nat
  message : Nat
  window : Nat
  offset : Nat
  length : Nat
  mode : Nat
  flow : Option (Nat × Nat)
  first : Nat
  bytes : List Byte
  authentic : Bool
  trimmed : Bool
deriving DecidableEq, Repr

/-- One step of the part (spec/opcode_table.json). The steps that only the outside world begins come last. -/
inductive Instr where
  /-- NOP (R231). -/
  | nop (g : Guard)
  /-- BRA (R232). -/
  | bra (x : XC)
  /-- BRX (R232). -/
  | brx (x : XC)
  /-- CALL (R232). -/
  | call (x : XC)
  /-- CALLX (R232). -/
  | callx (x : XC)
  /-- RET (R232). -/
  | ret (g : Guard) (prio : BitVec 8)
  /-- JOIN (R43). -/
  | join (x : XC)
  /-- EXIT (R31). -/
  | exit (g : Guard)
  /-- TRAP (R334). -/
  | trap (g : Guard) (n : BitVec 16)
  /-- TRET (R335). -/
  | tret (g : Guard)
  /-- TRET_SKIP (R335). -/
  | tretSkip (g : Guard)
  /-- YIELD (R328). -/
  | yield (g : Guard)
  /-- BAR (R234). -/
  | bar (x : XS)
  /-- REP (R205). -/
  | rep (steps : BitVec 4) (count : BitVec 6)
  /-- BNZ (R232). -/
  | bnz (x : XC)
  /-- BZ (R232). -/
  | bz (x : XC)
  /-- PAND (R235). -/
  | pand (p : PForm)
  /-- POR (R235). -/
  | por (p : PForm)
  /-- PXOR (R235). -/
  | pxor (p : PForm)
  /-- PNOT (R235). -/
  | pnot (p : PForm)
  /-- PMOV (R235). -/
  | pmov (p : PForm)
  /-- PSET (R236). -/
  | pset (x : XA)
  /-- PGET (R236). -/
  | pget (x : XA)
  /-- VOTE (R237). -/
  | vote (x : XA)
  /-- REDX (R255). -/
  | redx (x : XA)
  /-- SCAN (R256). -/
  | scan (x : XA)
  /-- PERM (R257). -/
  | perm (x : XA)
  /-- PUSH (R257). -/
  | push (x : XA)
  /-- COMPRESS (R259). -/
  | compress (x : XA)
  /-- RDLANE (R257). -/
  | rdlane (x : XA)
  /-- WRLANE (R258). -/
  | wrlane (x : XA)
  /-- LROT (R257). -/
  | lrot (x : XA)
  /-- ADD (R238). -/
  | add (x : XA)
  /-- SUB (R238). -/
  | sub (x : XA)
  /-- MUL (R238). -/
  | mul (x : XA)
  /-- MULHI (R238). -/
  | mulhi (x : XA)
  /-- MAD (R238). -/
  | mad (x : XA)
  /-- MADW (R238). -/
  | madw (x : XA)
  /-- DIV (R238). -/
  | div (x : XA)
  /-- REM (R238). -/
  | rem (x : XA)
  /-- MIN (R238). -/
  | min (x : XA)
  /-- MAX (R238). -/
  | max (x : XA)
  /-- ABS (R238). -/
  | abs (x : XA)
  /-- NEG (R238). -/
  | neg (x : XA)
  /-- CLAMP (R238). -/
  | clamp (x : XA)
  /-- SAD (R238). -/
  | sad (x : XA)
  /-- LEA (R240). -/
  | lea (x : XA)
  /-- CMP (R239). -/
  | cmp (x : XA)
  /-- AND (R241). -/
  | and (x : XA)
  /-- OR (R241). -/
  | or (x : XA)
  /-- XOR (R241). -/
  | xor (x : XA)
  /-- NOT (R241). -/
  | not (x : XA)
  /-- ANDN (R241). -/
  | andn (x : XA)
  /-- SHL (R241). -/
  | shl (x : XA)
  /-- SHR (R241). -/
  | shr (x : XA)
  /-- ROTL (R241). -/
  | rotl (x : XA)
  /-- POPC (R241). -/
  | popc (x : XA)
  /-- CLZ (R241). -/
  | clz (x : XA)
  /-- CTZ (R241). -/
  | ctz (x : XA)
  /-- BFX (R242). -/
  | bfx (x : XA)
  /-- BFI (R242). -/
  | bfi (x : XA)
  /-- BREV (R241). -/
  | brev (x : XA)
  /-- SEL (R241). -/
  | sel (x : XA)
  /-- MOV (R243). -/
  | mov (g : Guard) (wide : Bool) (d a : BitVec 8)
  /-- MOV_LITERAL (R243). -/
  | movLiteral (g : Guard) (wide : Bool) (d : BitVec 8) (lit : DWord)
  /-- UADD (R244). -/
  | uadd (x : XA)
  /-- USUB (R244). -/
  | usub (x : XA)
  /-- UMUL (R244). -/
  | umul (x : XA)
  /-- UMAD (R244). -/
  | umad (x : XA)
  /-- UDIV (R244). -/
  | udiv (x : XA)
  /-- UREM (R244). -/
  | urem (x : XA)
  /-- UMIN (R244). -/
  | umin (x : XA)
  /-- UMAX (R244). -/
  | umax (x : XA)
  /-- UAND (R244). -/
  | uand (x : XA)
  /-- UOR (R244). -/
  | uor (x : XA)
  /-- UXOR (R244). -/
  | uxor (x : XA)
  /-- USHL (R244). -/
  | ushl (x : XA)
  /-- USHR (R244). -/
  | ushr (x : XA)
  /-- UCMP (R244). -/
  | ucmp (x : XA)
  /-- USEL (R244). -/
  | usel (x : XA)
  /-- UMOV (R244). -/
  | umov (g : Guard) (d a : BitVec 8)
  /-- UMOV_LITERAL (R244). -/
  | umovLiteral (g : Guard) (d : BitVec 8) (lit : DWord)
  /-- UCVT (R244). -/
  | ucvt (x : XA)
  /-- UPOPC (R244). -/
  | upopc (x : XA)
  /-- UCLZ (R244). -/
  | uclz (x : XA)
  /-- UBFX (R244). -/
  | ubfx (x : XA)
  /-- FADD (R245). -/
  | fadd (x : XA)
  /-- FSUB (R245). -/
  | fsub (x : XA)
  /-- FMUL (R245). -/
  | fmul (x : XA)
  /-- FMA (R245). -/
  | fma (x : XA)
  /-- FMIN (R245). -/
  | fmin (x : XA)
  /-- FMAX (R245). -/
  | fmax (x : XA)
  /-- FABS (R245). -/
  | fabs (x : XA)
  /-- FNEG (R245). -/
  | fneg (x : XA)
  /-- FCMP (R246). -/
  | fcmp (x : XA)
  /-- FDIV (R245). -/
  | fdiv (x : XA)
  /-- FSQRT (R245). -/
  | fsqrt (x : XA)
  /-- FRCP (R245). -/
  | frcp (x : XA)
  /-- FRSQ (R245). -/
  | frsq (x : XA)
  /-- FRND (R246). -/
  | frnd (x : XA)
  /-- FCLASS (R246). -/
  | fclass (x : XA)
  /-- FSGN (R246). -/
  | fsgn (x : XA)
  /-- FEXP2 (R247). -/
  | fexp2 (x : XA)
  /-- FLOG2 (R247). -/
  | flog2 (x : XA)
  /-- FSIN (R247). -/
  | fsin (x : XA)
  /-- FCOS (R247). -/
  | fcos (x : XA)
  /-- FTANH (R247). -/
  | ftanh (x : XA)
  /-- FSIG (R247). -/
  | fsig (x : XA)
  /-- FSILU (R247). -/
  | fsilu (x : XA)
  /-- FGELU (R247). -/
  | fgelu (x : XA)
  /-- CVT (R249). -/
  | cvt (x : XA)
  /-- CVTSC (R250). -/
  | cvtsc (x : XA)
  /-- PACK (R251). -/
  | pack (x : XA)
  /-- UNPACK (R251). -/
  | unpack (x : XA)
  /-- BPERM (R251). -/
  | bperm (x : XA)
  /-- TERN (R251). -/
  | tern (x : XA)
  /-- FDOT2 (R252). -/
  | fdot2 (x : XA)
  /-- FDOT4 (R252). -/
  | fdot4 (x : XA)
  /-- HADD (R253). -/
  | hadd (x : XA)
  /-- HSUB (R253). -/
  | hsub (x : XA)
  /-- HMUL (R253). -/
  | hmul (x : XA)
  /-- HFMA (R253). -/
  | hfma (x : XA)
  /-- HMIN (R253). -/
  | hmin (x : XA)
  /-- HMAX (R253). -/
  | hmax (x : XA)
  /-- HABS (R253). -/
  | habs (x : XA)
  /-- HNEG (R253). -/
  | hneg (x : XA)
  /-- HCMP (R253). -/
  | hcmp (x : XA)
  /-- HCVT (R253). -/
  | hcvt (x : XA)
  /-- HEXP2 (R253). -/
  | hexp2 (x : XA)
  /-- HRCP (R253). -/
  | hrcp (x : XA)
  /-- UFADD (R248). -/
  | ufadd (x : XA)
  /-- UFMUL (R248). -/
  | ufmul (x : XA)
  /-- UFMA (R248). -/
  | ufma (x : XA)
  /-- UFMIN (R248). -/
  | ufmin (x : XA)
  /-- UFMAX (R248). -/
  | ufmax (x : XA)
  /-- UFCMP (R248). -/
  | ufcmp (x : XA)
  /-- UFCVT (R248). -/
  | ufcvt (x : XA)
  /-- LD_G (R260). -/
  | ldG (x : XM)
  /-- LD_S (R260). -/
  | ldS (x : XM)
  /-- LD_C (R260). -/
  | ldC (x : XM)
  /-- LD_F (R260). -/
  | ldF (x : XM)
  /-- LD_P (R260). -/
  | ldP (x : XM)
  /-- ST_G (R260). -/
  | stG (x : XM)
  /-- ST_S (R260). -/
  | stS (x : XM)
  /-- ST_C (R260). -/
  | stC (x : XM)
  /-- ST_F (R260). -/
  | stF (x : XM)
  /-- ST_P (R260). -/
  | stP (x : XM)
  /-- ATOM (R268). -/
  | atom (x : XM)
  /-- CAS (R268). -/
  | cas (x : XM)
  /-- ARED (R268). -/
  | ared (x : XM)
  /-- LDU (R265). -/
  | ldu (x : XM)
  /-- STU (R265). -/
  | stu (x : XM)
  /-- PRF (R266). -/
  | prf (x : XM)
  /-- UATOM (R271). -/
  | uatom (x : XM)
  /-- UCAS (R271). -/
  | ucas (x : XM)
  /-- REL (R115). -/
  | rel (x : XM)
  /-- ACQ (R116). -/
  | acq (x : XM)
  /-- FENCE (R120). -/
  | fence (x : XM)
  /-- CLEAN (R132). -/
  | clean (x : XM)
  /-- INVAL (R132). -/
  | inval (x : XM)
  /-- CINV (R132). -/
  | cinv (x : XM)
  /-- QFENCE (R131). -/
  | qfence (x : XS)
  /-- NFENCE (R285). -/
  | nfence (g : Guard)
  /-- XLINV (R332). -/
  | xlinv (x : XM)
  /-- ICINV (R333). -/
  | icinv (x : XS)
  /-- MCALL (R279). -/
  | mcall (x : XS)
  /-- DOT (R141). -/
  | dot (bank : Nat)
  /-- AXPY (R141). -/
  | axpy (bank : Nat)
  /-- ADDV (R141). -/
  | addv (bank : Nat)
  /-- SCALE (R141). -/
  | scale (bank : Nat)
  /-- FILL (R141). -/
  | fill (bank : Nat)
  /-- RED (R141). -/
  | red (bank : Nat)
  /-- CMPSCAN (R141). -/
  | cmpscan (bank : Nat)
  /-- VADD (R141). -/
  | vadd (bank : Nat)
  /-- WALK (R147). -/
  | walk (stack : Nat)
  /-- ASSAY (R153). -/
  | assay (stack : Nat)
  /-- MCALL_REPLY (R137). -/
  | mcallReply (ticket : Nat)
  /-- NADD (R284). -/
  | nadd (x : XM)
  /-- NADD_PERFORM (R150). -/
  | naddPerform (stack : Nat)
  /-- WINIT (R292). -/
  | winit (x : XS)
  /-- WPUSH (R293). -/
  | wpush (x : XS)
  /-- WREAD (R294). -/
  | wread (x : XS)
  /-- WLEN (R295). -/
  | wlen (x : XS)
  /-- WFREE (R296). -/
  | wfree (x : XS)
  /-- WINIT_AT_HOME (R291). -/
  | winitAtHome (core : Nat)
  /-- WPUSH_AT_HOME (R186). -/
  | wpushAtHome (core : Nat)
  /-- WREAD_AT_HOME (R189). -/
  | wreadAtHome (core : Nat)
  /-- WLEN_AT_HOME (R295). -/
  | wlenAtHome (core : Nat)
  /-- WFREE_AT_HOME (R296). -/
  | wfreeAtHome (core : Nat)
  /-- FINSTALL (R298). -/
  | finstall (x : XS)
  /-- FLASH_INSTALL (R178). -/
  | flashInstall (stack : Nat) (failing : List Nat)
  /-- INSTALL_PERMIT_TIMEOUT (R178). -/
  | installPermitTimeout (stack : Nat)
  /-- FSTAT (R299). -/
  | fstat (x : XS)
  /-- GANG (R304). -/
  | gang (x : XS)
  /-- SEGTAB (R305). -/
  | segtab (x : XS)
  /-- SEGTAB_APPLY (R162). -/
  | segtabApply (core : Nat)
  /-- WLOAD (R306). -/
  | wload (x : XS)
  /-- WLOAD_LATCH (R157). -/
  | wloadLatch (core : Nat)
  /-- MMA (R309). -/
  | mma (x : XS)
  /-- MMA_OPERATION (R160). -/
  | mmaOperation (core : Nat)
  /-- ACCRD (R310). -/
  | accrd (x : XS)
  /-- ACCWR (R310). -/
  | accwr (x : XS)
  /-- ACCZ (R310). -/
  | accz (x : XS)
  /-- ACCRD_PERFORM (R310). -/
  | accrdPerform (core : Nat)
  /-- ACCWR_PERFORM (R310). -/
  | accwrPerform (core : Nat)
  /-- ACCZ_PERFORM (R310). -/
  | acczPerform (core : Nat)
  /-- EPLD (R313). -/
  | epld (x : XS)
  /-- EPLD_APPLY (R313). -/
  | epldApply (core : Nat)
  /-- PERMIT (R316). -/
  | permit (g : Guard)
  /-- PERMIT_REL (R316). -/
  | permitRel (g : Guard)
  /-- PERMIT_GRANT (R167). -/
  | permitGrant (core : Nat)
  /-- CPGO (R317). -/
  | cpgo (x : XS)
  /-- COPY_RECORD (R170). -/
  | copyRecord (core : Nat) (channel : Nat)
  /-- CODEBOOK_SETUP (R318). -/
  | codebookSetup (core : Nat) (channel : Nat)
  /-- HWAIT (R319). -/
  | hwait (x : XS)
  /-- HREL (R319). -/
  | hrel (x : XS)
  /-- HSTAT (R319). -/
  | hstat (x : XS)
  /-- LAUNCH (R325). -/
  | launch (x : XS)
  /-- WAITDEP (R326). -/
  | waitdep (g : Guard)
  /-- TRIGGER (R327). -/
  | trigger (g : Guard)
  /-- SETWAYS (R331). -/
  | setways (x : XS)
  /-- CCWAIT (R338). -/
  | ccwait (x : XS)
  /-- CCWAIT_TIMEOUT (R338). -/
  | ccwaitTimeout (group : Nat) (lane : Nat)
  /-- CCREAD (R337). -/
  | ccread (x : XS)
  /-- SREG (R329). -/
  | sreg (x : XS)
  /-- SSET (R330). -/
  | sset (x : XS)
  /-- ENTRY_RAISED (R40). -/
  | entryRaised (group : Nat) (lane : Nat)
  /-- ICACHE_LINE_ARRIVAL (R39). -/
  | icacheLineArrival (core : Nat) (line : Nat)
  /-- REJOIN_STUCK (R45). -/
  | rejoinStuck (group : Nat)
  /-- CLUSTER_PLACEMENT (R57). -/
  | clusterPlacement (corner : Nat)
  /-- LAUNCH_RAISED (R56). -/
  | launchRaised (queue : Nat)
  /-- QUANTUM_END (R61). -/
  | quantumEnd (cluster : Nat)
  /-- WAITDEP_EVICTION (R60). -/
  | waitdepEviction (cluster : Nat)
  /-- CLUSTER_RESUME (R62). -/
  | clusterResume (corner : Nat)
  /-- SLICE_REMAP (R26). -/
  | sliceRemap (slice : Nat)
  /-- SEND_DESCRIPTOR (R347). -/
  | sendDescriptor (queue : Nat)
  /-- LASTING_FAULTY (R356). -/
  | lastingFaulty (unit : Part)
  /-- SENSOR_FAILED (R359). -/
  | sensorFailed (column : Nat)
  /-- SWALLOW_LEVEL_APPLY (R360). -/
  | swallowLevelApply (column : Nat)
  /-- COLUMN_OVERHEAT (R360). -/
  | columnOverheat (column : Nat)
  /-- POWER_RAISE_END (R360). -/
  | powerRaiseEnd
  /-- LINK_RETRAIN (R343). -/
  | linkRetrain (succeeds : Bool)
  /-- REFRESH (R145). -/
  | refresh (bank : Nat)
  /-- TRANSLATION_WALK (R109). -/
  | translationWalk (core : Nat) (space : Nat) (page : Nat)
  /-- XLATE_RETRY (R108). -/
  | xlateRetry (ticket : Nat)
  /-- XLATE_FAIL (R108). -/
  | xlateFail (ticket : Nat)
  /-- LAUNCH_MESSAGE (R51). -/
  | launchMessage (bytes : List Byte)
  /-- CANCEL_MESSAGE (R54). -/
  | cancelMessage (bytes : List Byte)
  /-- REGISTER_ADDRESS_SPACE (R105). -/
  | registerAddressSpace (space : Nat) (root : DWord)
  /-- RELEASE_ADDRESS_SPACE (R105). -/
  | releaseAddressSpace (space : Nat)
  /-- SET_QUANTUM (R61). -/
  | setQuantum (queue : Nat) (micros : Nat)
  /-- SET_SAVE_POOL (R65). -/
  | setSavePool (base : Nat) (size : Nat)
  /-- SET_INTERLEAVE_MODES (R22). -/
  | setInterleaveModes (modes : List Bool)
  /-- SET_STAGING_REGION (R174). -/
  | setStagingRegion (gib : Nat)
  /-- LOCK_EXTENTS (R179). -/
  | lockExtents (first : Nat) (count : Nat)
  /-- UNLOCK_EXTENTS (R179). -/
  | unlockExtents (first : Nat) (count : Nat)
  /-- FLASH_STATUS_READ (R183). -/
  | flashStatusRead (stack : Nat)
  /-- ENROL_OWNER_KEY (R215). -/
  | enrolOwnerKey (key : List Byte) (signer : List Byte) (sigR : Nat) (sigS : Nat)
  /-- ADMIT_CODE_OBJECT (R216). -/
  | admitCodeObject (file : List Byte) (space : Nat) (loads : List Nat)
  /-- UNLOAD_CODE_OBJECT (R217). -/
  | unloadCodeObject (object : Nat)
  /-- READ_ATTESTATION (R217). -/
  | readAttestation (object : Nat)
  /-- READ_END_OF_LIFE (R358). -/
  | readEndOfLife (unit : Part)
  /-- CLEAR_OUT_OF_SERVICE_FLAG (R354). -/
  | clearOutOfServiceFlag (value : Nat)
  /-- HOST_WRITE (R344). -/
  | hostWrite (address : Nat) (bytes : List Byte)
  /-- HOST_READ (R344). -/
  | hostRead (address : Nat) (count : Nat)
  /-- REPLAY_REQUEST (R343). -/
  | replayRequest (flit : List Byte)
  /-- CONFIGURE_PEER_TABLE (R346). -/
  | configurePeerTable (peer : Nat) (key : List Byte) (route : PeerRoute) (objects : List Nat)
  /-- REGISTER_SEND_QUEUE (R347). -/
  | registerSendQueue (bytes : List Byte)
  /-- REGISTER_RECEIVE_WINDOW (R349). -/
  | registerReceiveWindow (bytes : List Byte)
  /-- PACKET_ACKNOWLEDGED (R351). -/
  | packetAcknowledged (packet : Nat) (nanos : Nat) (marked : Bool)
  /-- PACKET_TRIMMED (R346). -/
  | packetTrimmed (packet : Nat)
  /-- RETRY_LIMIT (R348). -/
  | retryLimit (peer : Nat)
  /-- RECEIVE_PACKET (R349). -/
  | receivePacket (packet : Arrival)
  /-- RESET (R354): the units that fail, each with the stage that it fails (R355). -/
  | reset (failing : List (Nat × Part))
  /-- CORRECTABLE_EVENT (R356). -/
  | correctableEvent (unit : Part)
  /-- DRIFT_REPORT (R358). -/
  | driftReport (column : Nat) (drift : Nat)
  /-- SENSOR_READING (R359). -/
  | sensorReading (column : Nat) (reading : Int)
  /-- POWER_OVER_LIMIT (R360). -/
  | powerOverLimit (watts : Nat)
  /-- REPLAY (R343). -/
  | replay (first : Nat)
  /-- RETRANSMISSION (R348). -/
  | retransmission (packet : Nat)
  /-- REFUSED_BY_PEER (R348). -/
  | refusedByPeer (packet : Nat)
  /-- WALL_CLOCK (R183). -/
  | wallClock (seconds : Nat)
deriving DecidableEq, Repr

end Sys2Proof
end

