-- ==== Sys2Proof/WellFormed.lean ====
section
/-! DEFINITION. What makes an operand field well formed (19_formats.md R192, R195, R196, R201): the checks of
step 5 of R208 that need nothing but the instruction. Which operand an instruction takes is in Decode.lean. -/

namespace Sys2Proof

/-- The code of a type (R198). -/
def Ty.code : Ty → Nat
  | .s8 => 0 | .s16 => 1 | .s32 => 2 | .s64 => 3 | .n8 => 4 | .n16 => 5 | .n32 => 6 | .n64 => 7
  | .b32 => 8 | .f32 => 9 | .f16 => 10 | .bf16 => 11 | .e4m3 => 12 | .e5m2 => 13

/-- The type a code names; 14 and 15 are reserved (R198). -/
def Ty.ofCode (k : Nat) : Option Ty :=
  match k with
  | 0 => some .s8 | 1 => some .s16 | 2 => some .s32 | 3 => some .s64
  | 4 => some .n8 | 5 => some .n16 | 6 => some .n32 | 7 => some .n64
  | 8 => some .b32 | 9 => some .f32 | 10 => some .f16 | 11 => some .bf16
  | 12 => some .e4m3 | 13 => some .e5m2
  | _ => none

/-- The width of a type in bits. -/
def Ty.bits : Ty → Nat
  | .s8 | .n8 | .e4m3 | .e5m2 => 8
  | .s16 | .n16 | .f16 | .bf16 => 16
  | .s32 | .n32 | .b32 | .f32 => 32
  | .s64 | .n64 => 64

/-- Whether a type is a floating format (R71). -/
def Ty.floating : Ty → Bool
  | .f32 | .f16 | .bf16 | .e4m3 | .e5m2 => true
  | _ => false

/-- Whether a type is a signed integer. -/
def Ty.signed : Ty → Bool
  | .s8 | .s16 | .s32 | .s64 => true
  | _ => false

/-- How an instruction uses an operand field: the kinds it accepts (bit k for kind k of R195; no bit: the field
is unused), how many bits a literal feeds, and the registers a vector and a uniform operand take. -/
structure Opd where
  kinds : BitVec 4
  width : Nat := 64
  span : Nat := 1
  uspan : Nat := 1
deriving DecidableEq, Repr

/-- An unused field. -/
def Opd.unused : Opd := { kinds := 0 }

/-- A guard is not reserved (R192). -/
def Guard.ok (g : Guard) : Bool := g.g.toNat < 12 || (g.g == 15 && !g.neg)

/-- A source meets its use (R195, R196): an unused one is field 0 of kind 0. -/
def Opd.okSrc (o : Opd) (s : Src) : Bool :=
  if o.kinds = 0 then s = .v 0 else
  match s with
  | .v n => o.kinds.getLsbD 0 && n.toNat % o.span == 0
  | .g n => o.kinds.getLsbD 1 && decide (n.toNat < 64) && n.toNat % o.uspan == 0
  | .lit x => o.kinds.getLsbD 2 && decide (x.toNat < 2 ^ o.width)
  | .imm _ => o.kinds.getLsbD 3

/-- A destination meets its use (R195). -/
def Opd.okDst (o : Opd) (d : Dst) : Bool :=
  if o.kinds = 0 then d = { uni := false, n := 0 } else
  if d.uni then o.kinds.getLsbD 1 && decide (d.n.toNat < 64) && d.n.toNat % o.uspan == 0
  else o.kinds.getLsbD 0 && d.n.toNat % o.span == 0

/-- The vector register that a source names, with its last one, lies below the declared count (R195). -/
def Opd.srcFits (o : Opd) (count : Nat) : Src → Bool
  | .v n => o.kinds = 0 || decide (n.toNat + o.span ≤ count)
  | _ => true

/-- The same for a destination. -/
def Opd.dstFits (o : Opd) (count : Nat) (d : Dst) : Bool :=
  o.kinds = 0 || d.uni || decide (d.n.toNat + o.span ≤ count)

/-- Whether a source is the literal. -/
def Src.isLit : Src → Bool
  | .lit _ => true
  | _ => false

/-- How many sources are the literal; more than one is illegal (R196). -/
def Ext.literals (e : Ext) : Nat := e.a.isLit.toNat + e.b.isLit.toNat + e.c.isLit.toNat

/-- What an instruction does with its operand fields, which SUB values and whether lookahead it accepts, and
whether its further fields are as its entry gives. -/
structure Shape where
  d : Opd := .unused
  a : Opd := .unused
  b : Opd := .unused
  c : Opd := .unused
  sub : Nat := 1
  la : Bool := false
  ok : Bool := true
deriving DecidableEq, Repr

/-- The operand fields of an instruction are as its shape gives (step 5 of R208). -/
def Shape.meets (s : Shape) (e : Ext) : Bool :=
  e.g.ok && decide (e.sub.toNat < s.sub) && (s.la || e.la == 0) && decide (e.literals ≤ 1) &&
    s.d.okDst e.d && s.a.okSrc e.a && s.b.okSrc e.b && s.c.okSrc e.c && s.ok

/-- The vector registers of an instruction lie below the launch's declared count (R29, R195). -/
def Shape.fits (s : Shape) (count : Nat) (e : Ext) : Bool :=
  s.d.dstFits count e.d && s.a.srcFits count e.a && s.b.srcFits count e.b && s.c.srcFits count e.c

end Sys2Proof
end

