-- ==== Sys2Proof/Decode.lean ====
section
/-! DEFINITION. Decoding an instruction from its words (19_formats.md R190 to R208), total on any bits and
rejecting by name, and the encoder beside it. -/

namespace Sys2Proof

/-! ### Operand uses (R195, R196, R227) -/

/-- Registers a value of a type takes: a 64-bit type is an even-odd pair (R69, R227). -/
def Ty.span (t : Ty) : Nat := if t.bits = 64 then 2 else 1

/-- The kinds of a source of a type: every kind, without the small immediate for one 8-bit float (R195, R227). -/
def Opd.typed (t : Ty) : Opd :=
  { kinds := if t = .e4m3 || t = .e5m2 then 7 else 15, width := t.bits, span := t.span }

/-- A typed source of kinds 1 to 3. -/
def Opd.uni (t : Ty) : Opd := { Opd.typed t with kinds := (Opd.typed t).kinds &&& 14 }

/-- A vector destination of a type. -/
def Opd.dst (t : Ty) : Opd := { kinds := 1, span := t.span }

/-- A uniform register: a member or rejoin mask, or a uniform named by a field (R254, R277). -/
def Opd.mask : Opd := { kinds := 2 }

/-- A value of kind 1 to 3 read as `.n64` (R302). -/
def Opd.scalar : Opd := { kinds := 14 }

/-- An address base of kinds 0 to 2: 64 bits for global memory, 32 for the other spaces (R260). -/
def Opd.address (global : Bool) : Opd :=
  { kinds := 7, width := if global then 64 else 32, span := if global then 2 else 1 }

/-- The uniform variant of a shape (R228). -/
def Shape.uniform (s : Shape) : Shape :=
  { s with d := if s.d.kinds = 0 then s.d else { kinds := 2 }, a := { s.a with kinds := s.a.kinds &&& 14 },
           b := { s.b with kinds := s.b.kinds &&& 14 }, c := { s.c with kinds := s.c.kinds &&& 14 } }

/-- The same shape for a long-latency instruction (R202). -/
def Shape.long (s : Shape) : Shape := { s with la := true }

/-- The packed-half variant: 32-bit operands, no small immediate (R253). -/
def Shape.halves (s : Shape) : Shape :=
  let half (o : Opd) : Opd := if o.kinds = 0 then o else { kinds := 7, width := 32 }
  { s with d := { kinds := 1 }, a := half s.a, b := half s.b, c := half s.c }

/-- Whether a source is a vector register. -/
def Src.isVec : Src → Bool
  | .v _ => true
  | _ => false

/-! ### The type sets of the reference entries -/

/-- The integer types (R238). -/
def tyI : List Ty := [.s8, .s16, .s32, .s64, .n8, .n16, .n32, .n64]
/-- The signed types (R238). -/
def tyS : List Ty := [.s8, .s16, .s32, .s64]
/-- The 32- and 64-bit integer types (R238, R242). -/
def tyX : List Ty := [.s32, .s64, .n32, .n64]
/-- The 8-, 16- and 32-bit integer types (R238). -/
def tyNarrow : List Ty := [.s8, .s16, .s32, .n8, .n16, .n32]
/-- B of R241. -/
def tyB : List Ty := [.b32, .n64]
/-- S of R241. -/
def tyShift : List Ty := [.b32, .s32, .n32, .s64, .n64]
/-- The floating arithmetic types (R245). -/
def tyF : List Ty := [.f32, .f16, .bf16]
/-- The packed-half types (R253). -/
def tyH : List Ty := [.f16, .bf16]
/-- The types of `redx` and `scan` with an arithmetic operator (R255). -/
def tyRed : List Ty := tyI ++ tyF
/-- The types of `pack` and `unpack` (R251). -/
def tyPack : List Ty := [.s16, .n16, .f16, .bf16, .s8, .n8, .e4m3, .e5m2]
/-- The types of the bitwise atomics and of `cas` (R268). -/
def tyAtomBits : List Ty := [.b32, .s32, .n32, .s64, .n64]
/-- The types of the arithmetic atomics (R268). -/
def tyAtomArith : List Ty := [.s32, .n32, .s64, .n64, .f32]
/-- The types of a conversion: every type but `.b32` (R249). -/
def tyConvert : List Ty := tyI ++ [.f32, .f16, .bf16, .e4m3, .e5m2]

/-! ### Shapes by format -/

/-- Type, Q and PD of an XA instruction (R197, R198, R229). -/
def XA.plain (x : XA) (types : List Ty) (qMask : BitVec 8) (writesPred : Bool := false) : Bool :=
  types.contains x.t && x.q &&& ~~~qMask == 0 && (if writesPred then decide (x.pd.toNat < 12) else x.pd == 15)

/-- Q[3:0] names p0 to p11, or 15 (R237, R241, R259). -/
def XA.okPred (x : XA) : Bool := decide ((x.q &&& 15).toNat < 12) || x.q &&& 15 == 15

/-- The source type of a conversion, Q[3:0]; a reserved code reads as `.b32`, which no conversion accepts (R249). -/
def XA.fromTy (x : XA) : Ty := (Ty.ofCode (x.q &&& 15).toNat).getD .b32

/-- One, two or three sources of type T and a destination of type T. -/
def XA.one (x : XA) (types : List Ty) (qMask : BitVec 8) (writesPred : Bool := false) : Shape :=
  { d := .dst x.t, a := .typed x.t, ok := x.plain types qMask writesPred }

@[inherit_doc XA.one]
def XA.two (x : XA) (types : List Ty) (qMask : BitVec 8) (writesPred : Bool := false) : Shape :=
  { d := .dst x.t, a := .typed x.t, b := .typed x.t, ok := x.plain types qMask writesPred }

@[inherit_doc XA.one]
def XA.three (x : XA) (types : List Ty) (qMask : BitVec 8) : Shape :=
  { d := .dst x.t, a := .typed x.t, b := .typed x.t, c := .typed x.t, ok := x.plain types qMask }

/-- `cvt` (R249): `.rz` only from floating to integer, `.inf` only to `.e5m2`. -/
def XA.convert (x : XA) : Shape :=
  { d := .dst x.t, a := .typed x.fromTy,
    ok := x.plain tyConvert 0x3F && tyConvert.contains x.fromTy &&
      (x.q &&& 16 == 0 || (x.fromTy.floating && !x.t.floating)) && (x.q &&& 32 == 0 || x.t == .e5m2) }

/-- The unit operand of a memory scope (R199, R262): `.bnk`, `.chn` and `.stk` take one. -/
def XM.unit (x : XM) : Opd := if 6 ≤ x.s.toNat ∧ x.s.toNat ≤ 8 then .scalar else .unused

/-- Registers of an access of V's count of elements (R199, R261). -/
def XM.span (x : XM) : Nat := 2 ^ x.v.toNat * x.t.span

/-- What loads and stores share (R199, R261, R262). -/
def XM.okAccess (x : XM) (maxScope order : Nat) (priv : Bool) : Bool :=
  x.sl == 0 && !x.ranged && decide (x.v.toNat < 3) && decide (2 ^ x.v.toNat * x.t.bits ≤ 128) &&
    decide (x.s.toNat ≤ maxScope) && (x.o == 0 || (decide (x.o.toNat = order) && x.s != 0)) &&
    (!priv || (x.v == 0 && decide (32 ≤ x.t.bits)))

/-- A load (R260 to R262). -/
def XM.load (x : XM) (global : Bool) (maxScope : Nat) (priv : Bool := false) : Shape :=
  { d := { kinds := 1, span := x.span }, a := .address global, c := x.unit, la := true,
    ok := x.okAccess maxScope 1 priv }

/-- A store: b of kinds 1 to 3 only for one element (R260 to R262). -/
def XM.store (x : XM) (global : Bool) (maxScope : Nat) (priv : Bool := false) : Shape :=
  { a := .address global, c := x.unit, ok := x.okAccess maxScope 2 priv,
    b := { Opd.typed x.t with span := x.span, kinds := if x.v = 0 then (Opd.typed x.t).kinds else 1 } }

/-- Fields that every atomic shares (R267, R268). -/
def XM.okAtomic (x : XM) (maxScope : Nat) : Bool :=
  x.v == 0 && !x.ranged && decide (x.sl.toNat < 4) && decide (x.o.toNat < 3) && decide (x.s.toNat ≤ maxScope) &&
    !(x.sl == 3 && x.t.bits == 64)

/-- `atom`, `ared` and `uatom` (R267, R268). -/
def XM.atomic (x : XM) (subs : Nat) : Shape :=
  { d := .dst x.t, a := .address (x.sl == 0), b := .typed x.t, c := x.unit, sub := subs, la := true,
    ok := x.okAtomic 9 && (if x.sub.toNat < 3 then tyAtomArith else if x.sub = 6 then .f32 :: tyAtomBits
      else tyAtomBits).contains x.t }

/-- `cas` and `ucas` (R267, R268). -/
def XM.compareSwap (x : XM) : Shape :=
  { d := .dst x.t, a := .address (x.sl == 0), b := .typed x.t, c := .typed x.t, la := true,
    ok := x.okAtomic 5 && tyAtomBits.contains x.t }

/-- `rel`, `acq` and `fence` (R272); a literal as unit sets the literal bit, as R196 says (DEDUCED, log 46). -/
def XM.order (x : XM) : Shape :=
  { a := if x.ranged then .mask else .unused, b := if x.ranged then .mask else .unused, c := x.unit,
    ok := decide (1 ≤ x.s.toNat) && decide (x.s.toNat ≤ 9) && x.o == 0 && x.sl == 0 && x.v == 0 && x.t == .s8 &&
      x.disp == 0 }

/-- `clean`, `inval` and `cinv` (R274). -/
def XM.maintain (x : XM) : Shape :=
  { a := if x.ranged then .mask else .address true, b := if x.ranged then .mask else .unused,
    ok := decide (1 ≤ x.sl.toNat) && decide (x.sl.toNat ≤ 4) && x.o == 0 && x.s == 0 && x.v == 0 && x.t == .s8 &&
      (!x.ranged || x.disp == 0) }

/-- `xlinv` (R332). -/
def XM.dropTranslations (x : XM) : Shape :=
  { a := if x.sub = 1 then .unused else if x.ranged then .mask else .address true,
    b := if x.sub = 0 && x.ranged then .mask else .unused, sub := 2,
    ok := (x.s == 0 || x.s == 4) && x.o == 0 && x.sl == 0 && x.v == 0 && x.t == .s8 &&
      ((x.sub == 0 && !x.ranged) || x.disp == 0) && (x.sub == 0 || !x.ranged) }

/-- A direct target: an absolute one lies below 2^48 and is a multiple of 4 (R200). -/
def XC.okTarget (x : XC) : Bool :=
  match x.target with
  | .rel _ => true
  | .abs a => decide (a.toNat < 2 ^ 48) && decide (a.toNat % 4 = 0)

/-- I32 holds nothing at or above bit k. -/
def XS.below (x : XS) (k : Nat) : Bool := decide (x.i32.toNat < 2 ^ k)

/-- Registers of a window value: a pair for `.pair` (R289). -/
def XS.windowSpan (x : XS) : Nat := if bits 1 0 x.i32.toNat = 3 then 2 else 1

/-- The value operand of `wpush` (R289). -/
def XS.windowValue (x : XS) : Opd :=
  match bits 1 0 x.i32.toNat with
  | 2 => { kinds := 15, width := 16 }
  | 3 => { kinds := 7, width := 64, span := 2 }
  | _ => { kinds := 15, width := 32 }

/-- Registers of an accumulator access (R310). -/
def XS.accSpan (x : XS) : Nat := 2 ^ (x.i32.toNat % 4)

/-- The source codes of `sreg` (R329). -/
def sregCodes : List Nat := [0, 1, 2, 3, 4, 5, 6, 7, 8, 9, 10, 11, 12, 13, 14, 15, 16, 32, 33]
/-- `$lane` and `$prio` are per lane (R329). -/
def sregPerLane (k : Nat) : Bool := k == 0 || k == 8
/-- The 64-bit sources of `sreg` (R329). -/
def sregWide (k : Nat) : Bool := [10, 11, 12, 16, 32, 33].contains k

/-! ### The instructions -/

/-- The operand fields of an instruction, formats M and the extended ones alike (R193, R194). -/
def Instr.ext : Instr → Option Ext
  | .mov g _ d a => some { g := g, sub := 0, la := 0, d := { uni := false, n := d }, a := .v a, b := .v 0, c := .v 0 }
  | .movLiteral g _ d lit =>
    some { g := g, sub := 0, la := 0, d := { uni := false, n := d }, a := .lit lit, b := .v 0, c := .v 0 }
  | .umov g d a => some { g := g, sub := 0, la := 0, d := { uni := true, n := d }, a := .g a, b := .v 0, c := .v 0 }
  | .umovLiteral g d lit =>
    some { g := g, sub := 0, la := 0, d := { uni := true, n := d }, a := .lit lit, b := .v 0, c := .v 0 }
  | .pset x | .pget x | .vote x | .redx x | .scan x | .perm x | .push x | .compress x => some x.toExt
  | .rdlane x | .wrlane x | .lrot x | .add x | .sub x | .mul x | .mulhi x | .mad x => some x.toExt
  | .madw x | .div x | .rem x | .min x | .max x | .abs x | .neg x | .clamp x => some x.toExt
  | .sad x | .lea x | .cmp x | .and x | .or x | .xor x | .not x | .andn x => some x.toExt
  | .shl x | .shr x | .rotl x | .popc x | .clz x | .ctz x | .bfx x | .bfi x => some x.toExt
  | .brev x | .sel x | .uadd x | .usub x | .umul x | .umad x | .udiv x | .urem x => some x.toExt
  | .umin x | .umax x | .uand x | .uor x | .uxor x | .ushl x | .ushr x | .ucmp x => some x.toExt
  | .usel x | .ucvt x | .upopc x | .uclz x | .ubfx x | .fadd x | .fsub x | .fmul x => some x.toExt
  | .fma x | .fmin x | .fmax x | .fabs x | .fneg x | .fcmp x | .fdiv x | .fsqrt x => some x.toExt
  | .frcp x | .frsq x | .frnd x | .fclass x | .fsgn x | .fexp2 x | .flog2 x | .fsin x => some x.toExt
  | .fcos x | .ftanh x | .fsig x | .fsilu x | .fgelu x | .cvt x | .cvtsc x | .pack x => some x.toExt
  | .unpack x | .bperm x | .tern x | .fdot2 x | .fdot4 x | .hadd x | .hsub x | .hmul x => some x.toExt
  | .hfma x | .hmin x | .hmax x | .habs x | .hneg x | .hcmp x | .hcvt x | .hexp2 x => some x.toExt
  | .hrcp x | .ufadd x | .ufmul x | .ufma x | .ufmin x | .ufmax x | .ufcmp x | .ufcvt x => some x.toExt
  | .ldG x | .ldS x | .ldC x | .ldF x | .ldP x | .stG x | .stS x | .stC x => some x.toExt
  | .stF x | .stP x | .atom x | .cas x | .ared x | .ldu x | .stu x | .prf x => some x.toExt
  | .uatom x | .ucas x | .rel x | .acq x | .fence x | .clean x | .inval x | .cinv x => some x.toExt
  | .xlinv x | .nadd x | .bra x | .brx x | .call x | .callx x | .join x | .bnz x => some x.toExt
  | .bz x | .bar x | .qfence x | .icinv x | .mcall x | .winit x | .wpush x | .wread x => some x.toExt
  | .wlen x | .wfree x | .finstall x | .fstat x | .gang x | .segtab x | .wload x | .mma x => some x.toExt
  | .accrd x | .accwr x | .accz x | .epld x | .cpgo x | .hwait x | .hrel x | .hstat x => some x.toExt
  | .launch x | .setways x | .ccwait x | .ccread x | .sreg x | .sset x => some x.toExt
  | _ => none

/-- What each instruction does with its operand fields, from its entry in the reference chapters
(21, 23, 25, 27, 29) and R193 for format M. -/
def Instr.shape : Instr → Shape
  | .mov _ wide _ _ => { d := .dst (if wide then .n64 else .b32), a := { Opd.dst (if wide then .n64 else .b32) with kinds := 1 } }
  | .movLiteral _ wide _ _ => { d := .dst (if wide then .n64 else .b32), a := { kinds := 4, width := if wide then 64 else 32 } }
  | .umov _ _ _ => { d := { kinds := 2 }, a := { kinds := 2 } }
  | .umovLiteral _ _ _ => { d := { kinds := 2 }, a := { kinds := 4 } }
  | .pset x => { d := .unused, a := { kinds := 15, width := if x.a.isVec then 32 else 64 }, ok := x.plain [.b32] 0 true }
  | .pget x => { d := { kinds := 3 }, ok := x.plain [.b32] 0x1F && decide ((x.q &&& 15).toNat < 12) }
  | .vote x =>
    { d := if x.sub = 3 then { kinds := 2 } else .unused, c := .mask, sub := 4,
      ok := x.plain [.b32] 0x1F (x.sub != 3) && x.okPred }
  | .redx x =>
    { d := .dst x.t, a := .typed x.t, c := .mask, sub := 6, la := true,
      ok := x.plain (if x.sub.toNat < 3 then tyRed else tyB) 3 }
  | .scan x =>
    { d := .dst x.t, a := .typed x.t, c := .mask, sub := 6, la := true,
      ok := x.plain (if x.sub.toNat < 3 then tyRed else tyB) 1 }
  | .perm x | .push x => { d := .dst x.t, a := .typed x.t, b := .typed x.t, c := .mask, la := true, ok := x.plain tyB 0 }
  | .compress x => { d := .dst x.t, a := .typed x.t, b := .mask, c := .mask, la := true, ok := x.plain tyB 0x1F && x.okPred }
  | .rdlane x => { d := { kinds := 2 }, a := .typed x.t, b := .uni x.t, c := .mask, ok := x.plain tyB 0 }
  | .wrlane x => { d := .dst x.t, a := .uni x.t, b := .uni x.t, ok := x.plain tyB 0 }
  | .lrot x => { d := .dst x.t, a := .typed x.t, b := .uni x.t, c := .mask, ok := x.plain tyB 0 }
  | .add x | .sub x => x.two tyI 1
  | .mul x | .min x | .max x => x.two tyI 0
  | .mulhi x => x.two tyX 0
  | .mad x => x.three tyI 1
  | .madw x => { d := .dst .n64, a := .typed x.t, b := .typed x.t, c := .typed .n64, ok := x.plain [.s32, .n32] 0 }
  | .div x | .rem x => (x.two tyX 0).long
  | .abs x => x.one tyS 0
  | .neg x => x.one tyI 0
  | .clamp x => x.three tyI 0
  | .sad x => x.three tyNarrow 0
  | .lea x => { d := .dst .n64, a := .typed .n64, b := .typed .n32, ok := x.plain [.n64] 15 }
  | .cmp x => { x.two tyI 0 true with d := .unused, sub := 6 }
  | .and x | .or x | .xor x | .andn x => x.two tyB 0
  | .not x | .brev x => x.one tyB 0
  | .shl x | .shr x | .rotl x => { x.two tyShift 0 with b := .typed .n32 }
  | .popc x | .clz x | .ctz x => { x.one tyB 0 with d := .dst .n32 }
  | .bfx x => { x.two tyX 0 with b := .typed .b32 }
  | .bfi x => { x.three tyB 0 with c := .typed .b32 }
  | .sel x => { x.two tyB 0x1F with ok := x.plain tyB 0x1F && x.okPred }
  | .uadd x | .usub x => (x.two tyI 1).uniform
  | .umul x | .umin x | .umax x => (x.two tyI 0).uniform
  | .umad x => (x.three tyI 1).uniform
  | .udiv x | .urem x => (x.two tyX 0).uniform.long
  | .uand x | .uor x | .uxor x => (x.two tyB 0).uniform
  | .ushl x | .ushr x => ({ x.two tyShift 0 with b := .typed .n32 } : Shape).uniform
  | .ucmp x => ({ x.two tyI 0 with sub := 6 } : Shape).uniform
  | .usel x => (x.three [.n64] 0).uniform
  | .ucvt x => { x.convert.uniform with ok := x.convert.ok && !x.t.floating && !x.fromTy.floating }
  | .upopc x | .uclz x => (x.one tyB 0).uniform
  | .ubfx x => ({ x.two tyX 0 with b := .typed .b32 } : Shape).uniform
  | .fadd x | .fsub x | .fmul x | .fmin x | .fmax x => x.two tyF 0
  | .fma x => x.three tyF 0
  | .fabs x | .fneg x => x.one tyF 0
  | .fcmp x => { x.two tyF 0 true with d := .unused, sub := 6 }
  | .fdiv x => (x.two tyF 0).long
  | .fsqrt x | .frcp x | .frsq x => (x.one tyF 0).long
  | .frnd x => { x.one tyF 0 with sub := 5 }
  | .fclass x => { x.one tyF 0xFF true with d := .unused, sub := 2 }
  | .fsgn x => { x.two tyF 0 with sub := 3 }
  | .fexp2 x | .flog2 x | .fsin x | .fcos x | .ftanh x | .fsig x | .fsilu x | .fgelu x => (x.one [.f32] 0).long
  | .cvt x => x.convert
  | .cvtsc x =>
    { d := .dst x.t, a := .typed .f32, b := .typed .f32,
      ok := x.plain [.e4m3, .e5m2] 0x2F && x.q &&& 15 == 9 && (x.t == .e5m2 || x.q &&& 32 == 0) }
  | .pack x => { x.two tyPack 1 with ok := x.plain tyPack (if x.t.bits = 8 then 1 else 0) }
  | .unpack x => { d := .dst x.t, a := .typed .b32, ok := x.plain tyPack (if x.t.bits = 8 then 3 else 1) }
  | .bperm x => x.three [.b32] 0
  | .tern x => x.three [.b32] 0xFF
  | .fdot2 x => { d := .dst .f32, a := .typed .b32, b := .typed .b32, c := .typed .f32, ok := x.plain [.f16, .bf16] 0 }
  | .fdot4 x =>
    { d := .dst .f32, a := .typed .b32, b := .typed .b32, c := .typed .f32,
      ok := x.plain [.e4m3, .e5m2] 15 && (x.fromTy == .e4m3 || x.fromTy == .e5m2) }
  | .hadd x | .hsub x | .hmul x | .hmin x | .hmax x | .hcvt x => (x.two tyH 0).halves
  | .hfma x => (x.three tyH 0).halves
  | .habs x | .hneg x => (x.one tyH 0).halves
  | .hcmp x => ({ x.two tyH 0 with sub := 6 } : Shape).halves
  | .hexp2 x | .hrcp x => (x.one tyH 0).halves.long
  | .ufadd x | .ufmul x | .ufmin x | .ufmax x => (x.two tyF 0).uniform
  | .ufma x => (x.three tyF 0).uniform
  | .ufcmp x => ({ x.two tyF 0 with sub := 6 } : Shape).uniform
  | .ufcvt x => { x.convert.uniform with ok := x.convert.ok && (x.t.floating || x.fromTy.floating) }
  | .ldG x => x.load true 9
  | .ldS x | .ldC x | .ldF x => x.load false 3
  | .ldP x => x.load false 0 true
  | .stG x => x.store true 9
  | .stS x | .stC x | .stF x => x.store false 3
  | .stP x => x.store false 0 true
  | .atom x => x.atomic 7
  | .cas x => x.compareSwap
  | .ared x => { x.atomic 6 with d := .unused, la := false }
  | .ldu x => { x.load true 9 with d := { kinds := 2 }, a := { kinds := 6 }, ok := (x.load true 9).ok && x.v == 0 }
  | .stu x => { x.store true 9 with a := { kinds := 6 }, b := .uni x.t, ok := (x.store true 9).ok && x.v == 0 }
  | .prf x =>
    { a := .address (x.sl == 0),
      ok := (x.sl == 0 || x.sl == 3) && x.t == .s8 && x.v == 0 && x.o == 0 && x.s == 0 && !x.ranged }
  | .uatom x => { (x.atomic 7).uniform with ok := (x.atomic 7).ok && x.sl == 0 }
  | .ucas x => { x.compareSwap.uniform with ok := x.compareSwap.ok && x.sl == 0 }
  | .rel x | .acq x => x.order
  | .fence x => { x.order with ok := x.order.ok && !x.ranged }
  | .clean x | .inval x | .cinv x => x.maintain
  | .xlinv x => x.dropTranslations
  | .nadd x =>
    { a := .address true, b := .typed .f32,
      ok := x.t == .f32 && !x.ranged && x.sl == 0 && x.o == 0 && x.s == 0 && x.v == 0 }
  | .bra x | .call x => { ok := x.okTarget }
  | .brx x | .callx x => { a := { kinds := 1, span := 2 }, ok := x.target == .rel 0 }
  | .join x => { a := .mask, ok := x.okTarget }
  | .bnz x | .bz x => { a := { kinds := 3, span := if x.sub = 0 then 1 else 2 }, sub := 2, ok := x.okTarget }
  | .bar x => { a := if x.i32.getLsbD 4 then .mask else .unused, ok := x.below 6 }
  | .qfence x => { ok := x.below 7 && x.i32 != 0 }
  | .icinv x =>
    { a := if x.i32.getLsbD 0 then .unused else { kinds := 6 },
      b := if x.i32.getLsbD 0 then .unused else { kinds := 6 }, ok := x.below 2 }
  | .mcall _ => { d := { kinds := 1 }, a := { kinds := 1, span := 8 }, b := .mask, c := .mask }
  | .winit x => { a := { kinds := 6 }, b := { kinds := 6 }, ok := x.below 0 }
  | .wpush x =>
    { d := if x.i32.getLsbD 2 then { kinds := 1, span := x.windowSpan } else .unused, a := { kinds := 6 },
      b := x.windowValue, la := true, ok := x.below 3 }
  | .wread x => { d := { kinds := 3, span := x.windowSpan }, a := { kinds := 6 }, la := true, ok := x.below 2 }
  | .wlen x => { a := { kinds := 6 }, b := .scalar, ok := x.below 0 }
  | .wfree x => { a := { kinds := 6 }, ok := x.below 0 }
  | .finstall x => { a := { kinds := 6 }, b := { kinds := 6 }, c := { kinds := 6 }, ok := x.below 0 }
  | .fstat x => { d := { kinds := 2, uspan := 4 }, a := .scalar, la := true, ok := x.below 0 }
  | .gang x | .epld x | .hrel x | .setways x => { a := .scalar, ok := x.below 0 }
  | .segtab x | .accz x => { a := .scalar, b := .scalar, ok := x.below 0 }
  | .wload x => { a := .scalar, ok := x.below 6 && decide (10 ≤ bits 5 2 x.i32.toNat) && decide (bits 5 2 x.i32.toNat ≤ 13) }
  | .mma x =>
    { a := { kinds := 2, uspan := 4 },
      ok := x.below 9 && decide ((bits 1 0 x.i32.toNat < 2) = (bits 3 2 x.i32.toNat < 2)) }
  | .accrd x => { d := { kinds := 1, span := x.accSpan }, a := .scalar, la := true, ok := decide (x.i32.toNat < 3) }
  | .accwr x =>
    { a := .scalar, b := { kinds := if x.i32.toNat = 0 then 15 else 1, width := 32, span := x.accSpan },
      ok := decide (x.i32.toNat < 3) }
  | .cpgo x => { a := { kinds := 6 }, ok := x.below 2 }
  | .hwait x => { a := .scalar, ok := x.below 4 && x.i32 != 0 }
  | .hstat x => { d := { kinds := 3 }, a := .scalar, la := true, ok := x.below 0 }
  | .launch x => { d := { kinds := 2 }, a := { kinds := 2, uspan := 16 }, ok := x.below 0 }
  | .ccwait x =>
    { d := { kinds := 2 }, a := { kinds := 6 }, b := .scalar,
      c := if x.i32.getLsbD 1 then .scalar else .unused, ok := x.below 2 }
  | .ccread x => { d := { kinds := 3, span := 2 }, a := { kinds := 6 }, la := true, ok := x.below 1 }
  | .sreg x =>
    { d := { kinds := if sregPerLane x.i32.toNat then 1 else 3, span := if sregWide x.i32.toNat then 2 else 1 },
      ok := sregCodes.contains x.i32.toNat }
  | .sset x => { a := .scalar, ok := x.i32 == 9 }
  | _ => {}

/-- Format P: every predicate is p0 to p11, and an instruction that reads only PA holds zero in PB and NB
(R193, R235). -/
def PForm.ok (p : PForm) (readsB : Bool) : Bool :=
  p.g.ok && decide (p.pd.toNat < 12) && decide (p.pa.toNat < 12) && decide (p.pb.toNat < 12) &&
    (readsB || (p.pb == 0 && !p.nb))

/-- Steps 3 to 5 of R208, but for the vector registers' limit (`Instr.fits`) and the instruction after `rep`.
A step of another agent is no instruction of the stream. -/
def Instr.wellFormed (i : Instr) : Bool :=
  match i with
  | .nop g | .ret g _ | .exit g | .trap g _ | .tret g | .tretSkip g | .yield g | .nfence g | .permit g
  | .permitRel g | .waitdep g | .trigger g => g.ok
  | .pand p | .por p | .pxor p => p.ok true
  | .pnot p | .pmov p => p.ok false
  | .rep _ _ => true
  | i => match i.ext with
    | some e => i.shape.meets e
    | none => false

/-- The vector registers that the instruction names lie below the declared count (R195). -/
def Instr.fits (count : Nat) (i : Instr) : Bool :=
  match i.ext with
  | some e => i.shape.fits count e
  | none => true

/-! ### Formats -/

/-- A format with its fields (R193 to R200). -/
inductive Form where
  | n (g : Guard) (f : BitVec 17)
  | p (p : PForm)
  | q (steps : BitVec 4) (count : BitVec 6)
  | m (g : Guard) (wide : Bool) (d a : BitVec 8) (lit : Option DWord)
  | xa (x : XA)
  | xm (x : XM)
  | xc (x : XC)
  | xs (x : XS)
deriving DecidableEq, Repr

/-- The instruction of an opcode of format XA (R206). -/
def buildXA (op : Nat) (x : XA) : Option Instr :=
  match op with
  | 0x15 => some (.pset x)
  | 0x16 => some (.pget x)
  | 0x17 => some (.vote x)
  | 0x18 => some (.redx x)
  | 0x19 => some (.scan x)
  | 0x1A => some (.perm x)
  | 0x1B => some (.push x)
  | 0x1C => some (.compress x)
  | 0x1D => some (.rdlane x)
  | 0x1E => some (.wrlane x)
  | 0x1F => some (.lrot x)
  | 0x20 => some (.add x)
  | 0x21 => some (.sub x)
  | 0x22 => some (.mul x)
  | 0x23 => some (.mulhi x)
  | 0x24 => some (.mad x)
  | 0x25 => some (.madw x)
  | 0x26 => some (.div x)
  | 0x27 => some (.rem x)
  | 0x28 => some (.min x)
  | 0x29 => some (.max x)
  | 0x2A => some (.abs x)
  | 0x2B => some (.neg x)
  | 0x2C => some (.clamp x)
  | 0x2D => some (.sad x)
  | 0x2E => some (.lea x)
  | 0x2F => some (.cmp x)
  | 0x30 => some (.and x)
  | 0x31 => some (.or x)
  | 0x32 => some (.xor x)
  | 0x33 => some (.not x)
  | 0x34 => some (.andn x)
  | 0x35 => some (.shl x)
  | 0x36 => some (.shr x)
  | 0x37 => some (.rotl x)
  | 0x38 => some (.popc x)
  | 0x39 => some (.clz x)
  | 0x3A => some (.ctz x)
  | 0x3B => some (.bfx x)
  | 0x3C => some (.bfi x)
  | 0x3D => some (.brev x)
  | 0x3E => some (.sel x)
  | 0x40 => some (.uadd x)
  | 0x41 => some (.usub x)
  | 0x42 => some (.umul x)
  | 0x43 => some (.umad x)
  | 0x44 => some (.udiv x)
  | 0x45 => some (.urem x)
  | 0x46 => some (.umin x)
  | 0x47 => some (.umax x)
  | 0x48 => some (.uand x)
  | 0x49 => some (.uor x)
  | 0x4A => some (.uxor x)
  | 0x4B => some (.ushl x)
  | 0x4C => some (.ushr x)
  | 0x4D => some (.ucmp x)
  | 0x4E => some (.usel x)
  | 0xBC => some (.ucvt x)
  | 0xBD => some (.upopc x)
  | 0xBE => some (.uclz x)
  | 0xBF => some (.ubfx x)
  | 0x50 => some (.fadd x)
  | 0x51 => some (.fsub x)
  | 0x52 => some (.fmul x)
  | 0x53 => some (.fma x)
  | 0x54 => some (.fmin x)
  | 0x55 => some (.fmax x)
  | 0x56 => some (.fabs x)
  | 0x57 => some (.fneg x)
  | 0x58 => some (.fcmp x)
  | 0x59 => some (.fdiv x)
  | 0x5A => some (.fsqrt x)
  | 0x5B => some (.frcp x)
  | 0x5C => some (.frsq x)
  | 0x5D => some (.frnd x)
  | 0x5E => some (.fclass x)
  | 0x5F => some (.fsgn x)
  | 0x60 => some (.fexp2 x)
  | 0x61 => some (.flog2 x)
  | 0x62 => some (.fsin x)
  | 0x63 => some (.fcos x)
  | 0x64 => some (.ftanh x)
  | 0x65 => some (.fsig x)
  | 0x66 => some (.fsilu x)
  | 0x67 => some (.fgelu x)
  | 0x68 => some (.cvt x)
  | 0x69 => some (.cvtsc x)
  | 0x6A => some (.pack x)
  | 0x6B => some (.unpack x)
  | 0x6C => some (.bperm x)
  | 0x6D => some (.tern x)
  | 0x6E => some (.fdot2 x)
  | 0x6F => some (.fdot4 x)
  | 0x70 => some (.hadd x)
  | 0x71 => some (.hsub x)
  | 0x72 => some (.hmul x)
  | 0x73 => some (.hfma x)
  | 0x74 => some (.hmin x)
  | 0x75 => some (.hmax x)
  | 0x76 => some (.habs x)
  | 0x77 => some (.hneg x)
  | 0x78 => some (.hcmp x)
  | 0x79 => some (.hcvt x)
  | 0x7A => some (.hexp2 x)
  | 0x7B => some (.hrcp x)
  | 0xC0 => some (.ufadd x)
  | 0xC1 => some (.ufmul x)
  | 0xC2 => some (.ufma x)
  | 0xC3 => some (.ufmin x)
  | 0xC4 => some (.ufmax x)
  | 0xC5 => some (.ufcmp x)
  | 0xC6 => some (.ufcvt x)
  | _ => none

/-- The instruction of an opcode of format XM (R206). -/
def buildXM (op : Nat) (x : XM) : Option Instr :=
  match op with
  | 0x80 => some (.ldG x)
  | 0x81 => some (.ldS x)
  | 0x82 => some (.ldC x)
  | 0x83 => some (.ldF x)
  | 0x84 => some (.ldP x)
  | 0x85 => some (.stG x)
  | 0x86 => some (.stS x)
  | 0x87 => some (.stC x)
  | 0x88 => some (.stF x)
  | 0x89 => some (.stP x)
  | 0x8A => some (.atom x)
  | 0x8B => some (.cas x)
  | 0x8C => some (.ared x)
  | 0x8D => some (.ldu x)
  | 0x8E => some (.stu x)
  | 0x8F => some (.prf x)
  | 0x9C => some (.uatom x)
  | 0x9D => some (.ucas x)
  | 0x90 => some (.rel x)
  | 0x91 => some (.acq x)
  | 0x92 => some (.fence x)
  | 0x93 => some (.clean x)
  | 0x94 => some (.inval x)
  | 0x95 => some (.cinv x)
  | 0x98 => some (.xlinv x)
  | 0x9B => some (.nadd x)
  | _ => none

/-- The instruction of an opcode of format XC (R206). -/
def buildXC (op : Nat) (x : XC) : Option Instr :=
  match op with
  | 0x02 => some (.bra x)
  | 0x03 => some (.brx x)
  | 0x04 => some (.call x)
  | 0x05 => some (.callx x)
  | 0x07 => some (.join x)
  | 0x0E => some (.bnz x)
  | 0x0F => some (.bz x)
  | _ => none

/-- The instruction of an opcode of format XS (R206). -/
def buildXS (op : Nat) (x : XS) : Option Instr :=
  match op with
  | 0x0C => some (.bar x)
  | 0x96 => some (.qfence x)
  | 0x99 => some (.icinv x)
  | 0x9A => some (.mcall x)
  | 0xA0 => some (.winit x)
  | 0xA1 => some (.wpush x)
  | 0xA2 => some (.wread x)
  | 0xA3 => some (.wlen x)
  | 0xA4 => some (.wfree x)
  | 0xA5 => some (.finstall x)
  | 0xA6 => some (.fstat x)
  | 0xA7 => some (.gang x)
  | 0xA8 => some (.segtab x)
  | 0xA9 => some (.wload x)
  | 0xAA => some (.mma x)
  | 0xAB => some (.accrd x)
  | 0xAC => some (.accwr x)
  | 0xAD => some (.accz x)
  | 0xAE => some (.epld x)
  | 0xB0 => some (.cpgo x)
  | 0xB1 => some (.hwait x)
  | 0xB2 => some (.hrel x)
  | 0xB3 => some (.hstat x)
  | 0xB4 => some (.launch x)
  | 0xB7 => some (.setways x)
  | 0xB8 => some (.ccwait x)
  | 0xB9 => some (.ccread x)
  | 0xBA => some (.sreg x)
  | 0xBB => some (.sset x)
  | _ => none

/-- The instruction of an opcode of format P (R206). -/
def buildP (op : Nat) (x : PForm) : Option Instr :=
  match op with
  | 0x10 => some (.pand x)
  | 0x11 => some (.por x)
  | 0x12 => some (.pxor x)
  | 0x13 => some (.pnot x)
  | 0x14 => some (.pmov x)
  | _ => none

/-- The instruction of an opcode of format N; bits of F that it does not define are zero (R193, R231, R285, R316, R323). -/
def buildN (op : Nat) (g : Guard) (f : BitVec 17) : Option Instr :=
  match op with
  | 0x01 => if f = 0 then some (.nop g) else none
  | 0x08 => if f = 0 then some (.exit g) else none
  | 0x0B => if f = 0 then some (.yield g) else none
  | 0x97 => if f = 0 then some (.nfence g) else none
  | 0xB5 => if f = 0 then some (.waitdep g) else none
  | 0xB6 => if f = 0 then some (.trigger g) else none
  | 0x06 => if f.toNat < 256 then some (.ret g (f.setWidth 8)) else none
  | 0x09 => if f.toNat < 65536 then some (.trap g (f.setWidth 16)) else none
  | 0x0A => if f = 0 then some (.tret g) else if f = 1 then some (.tretSkip g) else none
  | 0xAF => if f = 0 then some (.permit g) else if f = 1 then some (.permitRel g) else none
  | _ => none

/-- The instruction of an opcode of format M (R193, R243). -/
def buildM (op : Nat) (g : Guard) (wide : Bool) (d a : BitVec 8) (lit : Option DWord) : Option Instr :=
  match op, lit with
  | 0x3F, none => some (.mov g wide d a)
  | 0x3F, some l => if a = 0 then some (.movLiteral g wide d l) else none
  | 0x4F, none => if wide then none else some (.umov g d a)
  | 0x4F, some l => if a = 0 && !wide then some (.umovLiteral g d l) else none
  | _, _ => none

/-- The instruction of an opcode and a form (R206). -/
def build (op : Nat) : Form → Option Instr
  | .n g f => buildN op g f
  | .p p => buildP op p
  | .q steps count => if op = 0x0D then some (.rep steps count) else none
  | .m g wide d a lit => buildM op g wide d a lit
  | .xa x => buildXA op x
  | .xm x => buildXM op x
  | .xc x => buildXC op x
  | .xs x => buildXS op x

/-- The opcode of an instruction and its form; the steps of the other agents have none (R206). -/
def Instr.form : Instr → Option (Nat × Form)
  | .nop g => some (0x01, .n g 0)
  | .exit g => some (0x08, .n g 0)
  | .yield g => some (0x0B, .n g 0)
  | .nfence g => some (0x97, .n g 0)
  | .waitdep g => some (0xB5, .n g 0)
  | .trigger g => some (0xB6, .n g 0)
  | .ret g p => some (0x06, .n g (p.setWidth 17))
  | .trap g n => some (0x09, .n g (n.setWidth 17))
  | .tret g => some (0x0A, .n g 0)
  | .tretSkip g => some (0x0A, .n g 1)
  | .permit g => some (0xAF, .n g 0)
  | .permitRel g => some (0xAF, .n g 1)
  | .rep steps count => some (0x0D, .q steps count)
  | .mov g w d a => some (0x3F, .m g w d a none)
  | .movLiteral g w d lit => some (0x3F, .m g w d 0 (some lit))
  | .umov g d a => some (0x4F, .m g false d a none)
  | .umovLiteral g d lit => some (0x4F, .m g false d 0 (some lit))
  | .pand x => some (0x10, .p x)
  | .por x => some (0x11, .p x)
  | .pxor x => some (0x12, .p x)
  | .pnot x => some (0x13, .p x)
  | .pmov x => some (0x14, .p x)
  | .pset x => some (0x15, .xa x)
  | .pget x => some (0x16, .xa x)
  | .vote x => some (0x17, .xa x)
  | .redx x => some (0x18, .xa x)
  | .scan x => some (0x19, .xa x)
  | .perm x => some (0x1A, .xa x)
  | .push x => some (0x1B, .xa x)
  | .compress x => some (0x1C, .xa x)
  | .rdlane x => some (0x1D, .xa x)
  | .wrlane x => some (0x1E, .xa x)
  | .lrot x => some (0x1F, .xa x)
  | .add x => some (0x20, .xa x)
  | .sub x => some (0x21, .xa x)
  | .mul x => some (0x22, .xa x)
  | .mulhi x => some (0x23, .xa x)
  | .mad x => some (0x24, .xa x)
  | .madw x => some (0x25, .xa x)
  | .div x => some (0x26, .xa x)
  | .rem x => some (0x27, .xa x)
  | .min x => some (0x28, .xa x)
  | .max x => some (0x29, .xa x)
  | .abs x => some (0x2A, .xa x)
  | .neg x => some (0x2B, .xa x)
  | .clamp x => some (0x2C, .xa x)
  | .sad x => some (0x2D, .xa x)
  | .lea x => some (0x2E, .xa x)
  | .cmp x => some (0x2F, .xa x)
  | .and x => some (0x30, .xa x)
  | .or x => some (0x31, .xa x)
  | .xor x => some (0x32, .xa x)
  | .not x => some (0x33, .xa x)
  | .andn x => some (0x34, .xa x)
  | .shl x => some (0x35, .xa x)
  | .shr x => some (0x36, .xa x)
  | .rotl x => some (0x37, .xa x)
  | .popc x => some (0x38, .xa x)
  | .clz x => some (0x39, .xa x)
  | .ctz x => some (0x3A, .xa x)
  | .bfx x => some (0x3B, .xa x)
  | .bfi x => some (0x3C, .xa x)
  | .brev x => some (0x3D, .xa x)
  | .sel x => some (0x3E, .xa x)
  | .uadd x => some (0x40, .xa x)
  | .usub x => some (0x41, .xa x)
  | .umul x => some (0x42, .xa x)
  | .umad x => some (0x43, .xa x)
  | .udiv x => some (0x44, .xa x)
  | .urem x => some (0x45, .xa x)
  | .umin x => some (0x46, .xa x)
  | .umax x => some (0x47, .xa x)
  | .uand x => some (0x48, .xa x)
  | .uor x => some (0x49, .xa x)
  | .uxor x => some (0x4A, .xa x)
  | .ushl x => some (0x4B, .xa x)
  | .ushr x => some (0x4C, .xa x)
  | .ucmp x => some (0x4D, .xa x)
  | .usel x => some (0x4E, .xa x)
  | .ucvt x => some (0xBC, .xa x)
  | .upopc x => some (0xBD, .xa x)
  | .uclz x => some (0xBE, .xa x)
  | .ubfx x => some (0xBF, .xa x)
  | .fadd x => some (0x50, .xa x)
  | .fsub x => some (0x51, .xa x)
  | .fmul x => some (0x52, .xa x)
  | .fma x => some (0x53, .xa x)
  | .fmin x => some (0x54, .xa x)
  | .fmax x => some (0x55, .xa x)
  | .fabs x => some (0x56, .xa x)
  | .fneg x => some (0x57, .xa x)
  | .fcmp x => some (0x58, .xa x)
  | .fdiv x => some (0x59, .xa x)
  | .fsqrt x => some (0x5A, .xa x)
  | .frcp x => some (0x5B, .xa x)
  | .frsq x => some (0x5C, .xa x)
  | .frnd x => some (0x5D, .xa x)
  | .fclass x => some (0x5E, .xa x)
  | .fsgn x => some (0x5F, .xa x)
  | .fexp2 x => some (0x60, .xa x)
  | .flog2 x => some (0x61, .xa x)
  | .fsin x => some (0x62, .xa x)
  | .fcos x => some (0x63, .xa x)
  | .ftanh x => some (0x64, .xa x)
  | .fsig x => some (0x65, .xa x)
  | .fsilu x => some (0x66, .xa x)
  | .fgelu x => some (0x67, .xa x)
  | .cvt x => some (0x68, .xa x)
  | .cvtsc x => some (0x69, .xa x)
  | .pack x => some (0x6A, .xa x)
  | .unpack x => some (0x6B, .xa x)
  | .bperm x => some (0x6C, .xa x)
  | .tern x => some (0x6D, .xa x)
  | .fdot2 x => some (0x6E, .xa x)
  | .fdot4 x => some (0x6F, .xa x)
  | .hadd x => some (0x70, .xa x)
  | .hsub x => some (0x71, .xa x)
  | .hmul x => some (0x72, .xa x)
  | .hfma x => some (0x73, .xa x)
  | .hmin x => some (0x74, .xa x)
  | .hmax x => some (0x75, .xa x)
  | .habs x => some (0x76, .xa x)
  | .hneg x => some (0x77, .xa x)
  | .hcmp x => some (0x78, .xa x)
  | .hcvt x => some (0x79, .xa x)
  | .hexp2 x => some (0x7A, .xa x)
  | .hrcp x => some (0x7B, .xa x)
  | .ufadd x => some (0xC0, .xa x)
  | .ufmul x => some (0xC1, .xa x)
  | .ufma x => some (0xC2, .xa x)
  | .ufmin x => some (0xC3, .xa x)
  | .ufmax x => some (0xC4, .xa x)
  | .ufcmp x => some (0xC5, .xa x)
  | .ufcvt x => some (0xC6, .xa x)
  | .ldG x => some (0x80, .xm x)
  | .ldS x => some (0x81, .xm x)
  | .ldC x => some (0x82, .xm x)
  | .ldF x => some (0x83, .xm x)
  | .ldP x => some (0x84, .xm x)
  | .stG x => some (0x85, .xm x)
  | .stS x => some (0x86, .xm x)
  | .stC x => some (0x87, .xm x)
  | .stF x => some (0x88, .xm x)
  | .stP x => some (0x89, .xm x)
  | .atom x => some (0x8A, .xm x)
  | .cas x => some (0x8B, .xm x)
  | .ared x => some (0x8C, .xm x)
  | .ldu x => some (0x8D, .xm x)
  | .stu x => some (0x8E, .xm x)
  | .prf x => some (0x8F, .xm x)
  | .uatom x => some (0x9C, .xm x)
  | .ucas x => some (0x9D, .xm x)
  | .rel x => some (0x90, .xm x)
  | .acq x => some (0x91, .xm x)
  | .fence x => some (0x92, .xm x)
  | .clean x => some (0x93, .xm x)
  | .inval x => some (0x94, .xm x)
  | .cinv x => some (0x95, .xm x)
  | .xlinv x => some (0x98, .xm x)
  | .nadd x => some (0x9B, .xm x)
  | .bra x => some (0x02, .xc x)
  | .brx x => some (0x03, .xc x)
  | .call x => some (0x04, .xc x)
  | .callx x => some (0x05, .xc x)
  | .join x => some (0x07, .xc x)
  | .bnz x => some (0x0E, .xc x)
  | .bz x => some (0x0F, .xc x)
  | .bar x => some (0x0C, .xs x)
  | .qfence x => some (0x96, .xs x)
  | .icinv x => some (0x99, .xs x)
  | .mcall x => some (0x9A, .xs x)
  | .winit x => some (0xA0, .xs x)
  | .wpush x => some (0xA1, .xs x)
  | .wread x => some (0xA2, .xs x)
  | .wlen x => some (0xA3, .xs x)
  | .wfree x => some (0xA4, .xs x)
  | .finstall x => some (0xA5, .xs x)
  | .fstat x => some (0xA6, .xs x)
  | .gang x => some (0xA7, .xs x)
  | .segtab x => some (0xA8, .xs x)
  | .wload x => some (0xA9, .xs x)
  | .mma x => some (0xAA, .xs x)
  | .accrd x => some (0xAB, .xs x)
  | .accwr x => some (0xAC, .xs x)
  | .accz x => some (0xAD, .xs x)
  | .epld x => some (0xAE, .xs x)
  | .cpgo x => some (0xB0, .xs x)
  | .hwait x => some (0xB1, .xs x)
  | .hrel x => some (0xB2, .xs x)
  | .hstat x => some (0xB3, .xs x)
  | .launch x => some (0xB4, .xs x)
  | .setways x => some (0xB7, .xs x)
  | .ccwait x => some (0xB8, .xs x)
  | .ccread x => some (0xB9, .xs x)
  | .sreg x => some (0xBA, .xs x)
  | .sset x => some (0xBB, .xs x)
  | _ => none

/-! ### Words -/

/-- The values of consecutive fields of the given widths, the lowest first. -/
def unpack : List Nat → Nat → List Nat
  | [], _ => []
  | k :: ks, w => w % 2 ^ k :: unpack ks (w / 2 ^ k)

/-- The number that holds consecutive fields (width, value), the lowest first. -/
def pack : List (Nat × Nat) → Nat
  | [] => 0
  | (k, v) :: r => v % 2 ^ k + 2 ^ k * pack r

/-- The formats of R207. -/
inductive Fmt where
  | n | p | q | m | xa | xm | xc | xs
deriving DecidableEq, Repr

/-- The format of an opcode; none where the code is unassigned (R206, R207). -/
def formatOf (op : Nat) : Option Fmt :=
  if op = 0x00 ∨ (0x7C ≤ op ∧ op ≤ 0x7F) ∨ op = 0x9E ∨ op = 0x9F ∨ 0xC7 ≤ op then none
  else if op = 0x0D then some .q
  else if op = 0x01 ∨ op = 0x06 ∨ (0x08 ≤ op ∧ op ≤ 0x0B) ∨ op = 0x97 ∨ op = 0xAF ∨ op = 0xB5 ∨ op = 0xB6 then some .n
  else if 0x10 ≤ op ∧ op ≤ 0x14 then some .p
  else if op = 0x3F ∨ op = 0x4F then some .m
  else if op = 0x0C then some .xs
  else if op < 0x10 then some .xc
  else if op < 0x80 then some .xa
  else if op ≤ 0x95 ∨ op = 0x98 ∨ (0x9B ≤ op ∧ op ≤ 0x9D) then some .xm
  else if op ≤ 0xBB then some .xs
  else some .xa

/-- The field widths of word 0 and word 1 of an extended instruction (R191, R194). -/
def extLayout : List Nat := [2, 8, 4, 1, 8, 8, 1, 8, 8, 2, 2, 2, 4, 6]

/-- Words of an instruction by its length bits (R190). -/
def wordsOf (l : Nat) : Nat :=
  match l with
  | 0 => 1
  | 1 => 3
  | 2 => 3
  | _ => 5

/-- A source by kind and field (R195). -/
def readSrc (kind field : Nat) (lit : Option DWord) : Option Src :=
  match kind with
  | 0 => some (.v (BitVec.ofNat 8 field))
  | 1 => some (.g (BitVec.ofNat 8 field))
  | 2 => if field = 0 then lit.map .lit else none
  | _ => some (.imm (BitVec.ofNat 8 field))

/-- A guard from its two fields (R191). -/
def readGuard (g n : Nat) : Guard := { g := BitVec.ofNat 4 g, neg := n == 1 }

/-- The 64-bit literal after the first `low` bits, where the length field announces one (R190). -/
def readLit (l low w : Nat) : Option DWord :=
  if l % 4 / 2 = 1 then some (BitVec.ofNat 64 (w / 2 ^ low)) else none

/-- The fields of words 0 and 1 of an extended instruction; the literal bit is set exactly when one operand is
the literal, `target` says that the literal is the target's (R194, R196, R200). -/
def readExt (w : Nat) (target : Bool) : Option Ext :=
  match unpack extLayout w with
  | [l, _, g, n, d, a, dk, b, c, ka, kb, kc, la, sub] =>
    let lit := if target then none else readLit l 96 w
    match readSrc ka a lit, readSrc kb b lit, readSrc kc c lit with
    | some a, some b, some c =>
      let e : Ext := { g := readGuard g n, sub := BitVec.ofNat 6 sub, la := BitVec.ofNat 4 la,
                       d := { uni := dk == 1, n := BitVec.ofNat 8 d }, a := a, b := b, c := c }
      if l % 2 = 1 ∧ e.literals = (if lit.isSome then 1 else 0) then some e else none
    | _, _, _ => none
  | _ => none

/-- The form that the bits of an instruction hold (R193 to R200); none where reserved bits are not zero or the
length bits do not agree with the format. -/
def readForm (f : Fmt) (w : Nat) : Option Form :=
  match f with
  | .n => match unpack [2, 8, 4, 1, 17] w with
    | [l, _, g, n, v] => if l = 0 then some (.n (readGuard g n) (BitVec.ofNat 17 v)) else none
    | _ => none
  | .p => match unpack [2, 8, 4, 1, 4, 4, 4, 1, 1, 3] w with
    | [l, _, g, n, pd, pa, pb, na, nb, z] =>
      if l = 0 ∧ z = 0 then
        some (.p { g := readGuard g n, nb := nb == 1, na := na == 1, pb := BitVec.ofNat 4 pb,
                   pa := BitVec.ofNat 4 pa, pd := BitVec.ofNat 4 pd })
      else none
    | _ => none
  | .q => match unpack [2, 8, 4, 1, 6, 4, 7] w with
    | [l, _, g, n, count, steps, z] =>
      if l = 0 ∧ z = 0 ∧ g = 15 ∧ n = 0 then some (.q (BitVec.ofNat 4 steps) (BitVec.ofNat 6 count)) else none
    | _ => none
  | .m => match unpack [2, 8, 4, 1, 8, 8, 1] w with
    | [l, _, g, n, d, a, wide] =>
      if l % 2 = 0 then
        some (.m (readGuard g n) (wide == 1) (BitVec.ofNat 8 d) (BitVec.ofNat 8 a) (readLit l 32 w))
      else none
    | _ => none
  | .xa => match readExt w false, unpack [4, 8, 4, 16] (w / 2 ^ 64) with
    | some e, [t, q, pd, z] =>
      match Ty.ofCode t with
      | some t => if z = 0 then some (.xa { e with pd := BitVec.ofNat 4 pd, q := BitVec.ofNat 8 q, t := t }) else none
      | none => none
    | _, _ => none
  | .xm => match readExt w false, unpack [4, 2, 4, 2, 3, 1, 16] (w / 2 ^ 64) with
    | some e, [t, v, s, o, sl, rg, disp] =>
      match Ty.ofCode t with
      | some t =>
        some (.xm { e with disp := BitVec.ofNat 16 disp, ranged := rg == 1, sl := BitVec.ofNat 3 sl,
                           o := BitVec.ofNat 2 o, s := BitVec.ofNat 4 s, v := BitVec.ofNat 2 v, t := t })
      | none => none
    | _, _ => none
  | .xc => match readExt w true, unpack [24, 8] (w / 2 ^ 64) with
    | some e, [off, prio] =>
      match readLit (w % 4) 96 w with
      | none => some (.xc { e with prio := BitVec.ofNat 8 prio, target := .rel (BitVec.ofNat 24 off) })
      | some a => if off = 0 then some (.xc { e with prio := BitVec.ofNat 8 prio, target := .abs a }) else none
    | _, _ => none
  | .xs => match readExt w false with
    | some e => some (.xs { e with i32 := BitVec.ofNat 32 (w / 2 ^ 64) })
    | none => none

/-- What decoding answers: an instruction with its length in words, or the trap of R208. -/
inductive Decoded where
  | ok (i : Instr) (words : Nat)
  | illegalOp
  | illegalField
deriving DecidableEq, Repr

/-- Decoding the bits of an instruction, bit 0 the lowest of word 0; bits above its length are not read (R208). -/
def decodeBits (w : Nat) : Decoded :=
  match formatOf (w / 4 % 256) with
  | none => .illegalOp
  | some f =>
    match (readForm f w).bind (build (w / 4 % 256)) with
    | some i => if i.wellFormed then .ok i (wordsOf (w % 4)) else .illegalField
    | none => .illegalField

/-- The number that bytes hold, little-endian (R4). -/
def leNat : List Byte → Nat
  | [] => 0
  | b :: r => b.toNat + 256 * leNat r

/-- The n bytes of a number, little-endian (R4). -/
def leBytes : Nat → Nat → List Byte
  | 0, _ => []
  | n + 1, x => BitVec.ofNat 8 x :: leBytes n (x / 256)

/-- Decoding an instruction as it lies in memory (R190). -/
def decodeBytes (bs : List Byte) : Decoded := decodeBits (leNat bs)

/-- The instruction that the decoder reads from the words of a row of spec/opcode_table.json: `nbits` bits `w`,
zero above. -/
def decodeTableWord (nbits w : Nat) : Option Instr :=
  match decodeBytes (leBytes 20 (w % 2 ^ nbits)) with
  | .ok i _ => some i
  | _ => none

/-! ### Encoding, from the same tables -/

/-- Kind and field of a source (R195). -/
def Src.fields : Src → Nat × Nat
  | .v n => (0, n.toNat)
  | .g n => (1, n.toNat)
  | .lit _ => (2, 0)
  | .imm x => (3, x.toNat)

/-- The literal of a source. -/
def Src.lit? : Src → Option DWord
  | .lit x => some x
  | _ => none

/-- The literal of an instruction's operands (R196). -/
def Ext.lit? (e : Ext) : Option DWord := e.a.lit?.or (e.b.lit?.or e.c.lit?)

/-- The fields of words 0 and 1 of an extended instruction (R191, R194). -/
def Ext.pack (op : Nat) (lit : Bool) (e : Ext) : List (Nat × Nat) :=
  [(2, if lit then 3 else 1), (8, op), (4, e.g.g.toNat), (1, e.g.neg.toNat), (8, e.d.n.toNat), (8, e.a.fields.2),
   (1, e.d.uni.toNat), (8, e.b.fields.2), (8, e.c.fields.2), (2, e.a.fields.1), (2, e.b.fields.1),
   (2, e.c.fields.1), (4, e.la.toNat), (6, e.sub.toNat)]

/-- The literal field, where there is one (R190). -/
def packLit (lit : Option DWord) : List (Nat × Nat) :=
  match lit with
  | some x => [(64, x.toNat)]
  | none => []

/-- The fields of a form, the lowest first. -/
def Form.pack (op : Nat) : Form → List (Nat × Nat)
  | .n g f => [(2, 0), (8, op), (4, g.g.toNat), (1, g.neg.toNat), (17, f.toNat)]
  | .p x => [(2, 0), (8, op), (4, x.g.g.toNat), (1, x.g.neg.toNat), (4, x.pd.toNat), (4, x.pa.toNat), (4, x.pb.toNat),
             (1, x.na.toNat), (1, x.nb.toNat), (3, 0)]
  | .q steps count => [(2, 0), (8, op), (4, 15), (1, 0), (6, count.toNat), (4, steps.toNat), (7, 0)]
  | .m g wide d a lit =>
    [(2, if lit.isSome then 2 else 0), (8, op), (4, g.g.toNat), (1, g.neg.toNat), (8, d.toNat), (8, a.toNat),
     (1, wide.toNat)] ++ packLit lit
  | .xa x => x.toExt.pack op x.lit?.isSome ++ [(4, x.t.code), (8, x.q.toNat), (4, x.pd.toNat), (16, 0)] ++ packLit x.lit?
  | .xm x =>
    x.toExt.pack op x.lit?.isSome ++
      [(4, x.t.code), (2, x.v.toNat), (4, x.s.toNat), (2, x.o.toNat), (3, x.sl.toNat), (1, x.ranged.toNat),
       (16, x.disp.toNat)] ++ packLit x.lit?
  | .xc x =>
    match x.target with
    | .rel off => x.toExt.pack op false ++ [(24, off.toNat), (8, x.prio.toNat)]
    | .abs a => x.toExt.pack op true ++ [(24, 0), (8, x.prio.toNat), (64, a.toNat)]
  | .xs x => x.toExt.pack op x.lit?.isSome ++ [(32, x.i32.toNat)] ++ packLit x.lit?

/-- The bits of an instruction of the stream; none for a step of another agent. -/
def encode (i : Instr) : Option Nat := i.form.map fun p => pack (p.2.pack p.1)

end Sys2Proof
end

