-- ==== Sys2Proof/Config.lean ====
section
/-! DEFINITION. What the manual leaves to the implementation or leaves open: free values, each an opaque
constant without a body, so that no proof can see its value (notes/assumptions 4, 6, 10 to 14, 22, 73, 88). -/

namespace Sys2Proof.Config

/-- The value a register holds when its group is placed, by the group's ticket and the register's index;
the manual gives none (log 4). -/
opaque launchReg : Nat → Nat → DWord

/-- A choice among alternatives that the manual allows and does not order, by a counter of State (log 10):
which empty way is filled (30, lend), which translation-cache entry is dropped (R109). -/
opaque pick : Nat → Nat

/-- The phase of a bank's refresh, in cycles of the arithmetic clock (R145 leaves it to the device; log 73). -/
opaque refreshPhase : Nat → Nat

/-- The candidate result of a special function, by its code and its input (R247 gives an error bound and no bits; log 11). -/
opaque special : Nat → Word → Word

/-- The request that a flit from the host carries, by its channel, kind and payload (R342 says that each channel defines
its kinds and gives no table of them; log 22). -/
opaque flitRequest : Nat → Nat → List Byte → Option Instr

/-- Whether a retrain of the link that becomes due in a cycle succeeds (R343 gives no condition; log 22). -/
opaque retrain : Nat → Bool

/-- A byte of the staging region as the host reads it, by cycle and physical address (R175 does not say where staging pages
lie in the region; log 88). -/
opaque stagingByte : Nat → Nat → Byte

/-- The device's attestation signature of a digest (R217 names a device key and gives no value; log 12). -/
opaque attest : BitVec 384 → BitVec 384 × BitVec 384

/-- The vendor root key as the coordinates of its curve point (R215 names it and gives no value; log 6). -/
opaque vendorKey : BitVec 384 × BitVec 384

/-- The predicted end of life, in seconds since 1970, by unit, wall clock and reports (R358 gives no formula; log 13). -/
opaque endOfLife : Nat → Nat → List Nat → DWord

/-- The body lengths of the sections of a context save area, by section type and team ticket
(R66 says that section bodies are the device's own; log 14). -/
opaque sectionLength : Nat → Nat → Nat

/-- The bytes of the section bodies, by save area ticket and offset (R66; log 14). -/
opaque sectionByte : Nat → Nat → Byte

/-- The bytes that the section bodies of a maximal team save take (R65 gives no number; log 14). -/
opaque maximalBodies : Nat

/-- The bytes of a maximal team save, which the smallest save pool is counted by: header, directory of nine entries,
bodies (R65, R66). -/
def maximalSave : Nat := 64 + 16 * 9 + maximalBodies

end Sys2Proof.Config
end

