-- ==== Sys2Proof/Machine/State.lean ====
section
/-! DEFINITION. The state of the Vrelium V4 as plain data, with State.reset. A sparse table lists its entries by
rising key; what an unlisted key reads as is said at each field. -/

namespace Sys2Proof.Machine

/-- A sparse table: rising keys, one entry a key. -/
abbrev Store (α : Type) := List (Nat × α)

/-- Bytes by address: rising addresses and no zero byte, since an unlisted address reads as 0 (R354; log 2). -/
abbrev Memory := List Host.Cell

/-- Why the machine stops. -/
inductive Fault where
  /-- `exec` was called for a lane instruction while no entry was issuing; `step` never does so (safe). -/
  | noIssuingEntry
deriving DecidableEq, Repr

/-- Why an instruction has no meaning here. -/
inductive Refusal where
  /-- An instruction without a meaning in the model, by its mnemonic (safe); no arm of `exec` answers it now. -/
  | notModelled (mnemonic : String)
deriving DecidableEq, Repr

/-! ### Caches -/

/-- A cache line (R88, R112): `full` says that every byte is valid, otherwise only the bytes written are (R116). -/
structure Line where
  full : Bool
  dirty : BitVec 128
  stable : Bool
  stamp : BitVec 32
  data : List Byte
deriving DecidableEq, Repr

/-- A superblock: PA / 512, its way, and its valid lines by index (R88). -/
structure Super where
  tag : Nat
  way : Nat
  lines : Store Line
deriving DecidableEq, Repr

/-- A way of a set that holds a superblock of a window object (R90). -/
structure Pin where
  set : Nat
  way : Nat
  object : Nat
deriving DecidableEq, Repr

/-- A level-2 slice: superblocks, most recently used first, pinned ways, ways in use as cache, floor scratchpad
(R88, R90, R100). -/
structure Slice where
  supers : List Super
  pins : List Pin
  ways : Nat
  floor : Memory
deriving DecidableEq, Repr

/-- A leaf held by a translation cache (R109): address space, first virtual address, log2 of the page size, entry. -/
structure Tlb where
  space : Nat
  base : Nat
  size : Nat
  entry : Nat
deriving DecidableEq, Repr

/-- An instruction-cache line: address space, virtual address / 128, bytes (R39, R333). -/
structure ILine where
  space : Nat
  line : Nat
  data : List Byte
deriving DecidableEq, Repr

/-! ### Groups -/

/-- The lanes that issued an operation, as a later trap names them. -/
structure Issuer where
  group : Nat
  team : Nat
  pc : DWord
  port : Nat
  mask : LaneMask
  space : Nat
  grid : Nat
deriving DecidableEq, Repr

/-- A registered `ccwait` (R338): its watch at the home atomic unit, limit in ticks with the tick of issue, destination,
`.sys`, whether its limit has passed. -/
structure CounterWait where
  ticket : Nat
  limit : Option (Nat × Nat)
  d : Nat
  sys : Bool
  mask : LaneMask
  expired : Bool
deriving DecidableEq, Repr

/-- What the home atomic unit keeps of a registered `ccwait` (R338): counter, bound, the value last compared, and
whether a value has reached the bound or the limit has passed; it compares nothing more then. -/
structure Watch where
  ticket : Nat
  pa : Nat
  bound : DWord
  last : DWord
  met : Bool
deriving DecidableEq, Repr

/-- Why an entry does not issue although it stands at its next instruction (R34, R36). -/
inductive Hold where
  /-- Ready as far as the frontier knows. -/
  | free
  /-- At a `bar` (R234): index, mask, `.lax`. -/
  | bar (index : Nat) (mask : Option DWord) (lax : Bool)
  /-- At an `hwait` (R319): handle, states, whether it has been in one of them. -/
  | handle (h : Nat) (states : BitVec 4) (met : Bool)
  /-- At a `qfence` or a `setways`: tickets of queued operations (R131, R331). -/
  | queues (tickets : List Nat)
  /-- At an `nfence`: tickets of return-free adds (R151). -/
  | adds (tickets : List Nat)
  /-- At a `waitdep` (R326). -/
  | waitdep
  /-- At a `ccwait` (R338). -/
  | counter (w : CounterWait)
  /-- Arrived at the rendezvous latch (R161). -/
  | latch
  /-- At a window instruction, until message `ticket` is answered (R291). -/
  | window (ticket : Nat)
  /-- At an `mcall` that waits for permit `ticket` (R139). -/
  | permit (ticket : Nat)
  /-- Parked on translation of an address, record `ticket`, with the lanes whose access missed there and the port
  (R108). -/
  | xlate (ticket : Nat) (va : DWord) (lanes : LaneMask) (port : Nat)
  /-- The host has failed that translation, and the trap has not been taken yet (R108). -/
  | denied (va : DWord) (lanes : LaneMask) (port : Nat)
  /-- At a `finstall`, until flash stack `f` has room for an install (R298). -/
  | stack (f : Nat)
  /-- At a `setways` (R331): new count, its own ticket, tickets it waits for. -/
  | ways (count own : Nat) (tickets : List Nat)
  /-- At a `launch` while its queue is full (R325): the message as read at issue, the destination register. -/
  | launch (message : List Byte) (d : Nat)
deriving DecidableEq, Repr

/-- A frontier entry (R34): priority, program counter, lanes; why it is held, its pass count, the order in which it
was raised, whether it repeats (R205), where it continues after its next instruction when that is one a trap
return issues again, and how many of that one's followers have issued (R203), and the words of the instruction it is
held at. -/
structure Entry where
  prio : BitVec 8
  pc : DWord
  mask : LaneMask
  hold : Hold
  passes : Nat
  raised : Option Nat
  repeating : Bool
  after : Option DWord
  done : Nat
  len : Nat
deriving DecidableEq, Repr

/-- A lane parked at a rejoin address (R43), with the address of the instruction that parked it (R45). -/
structure Parked where
  lane : Nat
  rejoin : DWord
  prio : BitVec 8
  mask : LaneMask
  origin : DWord
deriving DecidableEq, Repr

/-- A lane in the waiting pool (R44): the call it waits for, its rejoin address, priority and mask. -/
structure Pooled where
  lane : Nat
  ticket : Nat
  rejoin : DWord
  prio : BitVec 8
  mask : LaneMask
  origin : DWord
deriving DecidableEq, Repr

/-- A member-mask wait (R46): the instruction, the address of its successor, whether it repeats (R205), its mask, the
lanes that arrived, those of them whose guard was true, the priority, and by lane what it read when it arrived: a, b and
the predicate that Q names (R258). -/
structure MemberWait where
  pc : DWord
  next : DWord
  instr : Instr
  repeating : Bool
  mask : LaneMask
  arrived : LaneMask
  active : LaneMask
  prio : BitVec 8
  seen : Store (Nat × Nat × Bool)
deriving DecidableEq, Repr

/-- A frontier with its parked lanes, waiting pool and member-mask waits (R34, R43 to R46). -/
structure Front where
  entries : List Entry
  parked : List Parked
  pool : List Pooled
  waits : List MemberWait
deriving DecidableEq, Repr

/-- How a trap return treats the faulting instruction (R335). -/
inductive Resume where
  /-- The entry holding `mask` at `pc` issues that instruction again, or with the skip form continues at `next`
  (already the (f + 1)-th instruction after it). -/
  | entry (mask : LaneMask) (pc next : DWord)
  /-- `REJOIN_STUCK` (R45). -/
  | stuck
  /-- `MEMBER_MASK` raised by a later arrival of an entry with these lanes at the member-mask wait at this address, with
  the address of the following instruction (R46). -/
  | member (mask : LaneMask) (pc next : DWord)
  /-- The saved frontier is restored unchanged: `ECC_FATAL` at a reply, an engine's fault (R335). -/
  | unchanged
deriving DecidableEq, Repr

/-- The trap state (R47, R203, R205): saved frontier, `$rep`, f, and what trap return does. -/
structure TrapState where
  front : Front
  rep : BitVec 16
  followers : Nat
  resume : Resume
deriving DecidableEq, Repr

/-- A long-latency instruction in flight with its lookahead window (R202): how many followers may still issue, how
many have, the registers it writes (uniform flag, first, count). -/
structure Flight where
  ticket : Nat
  pc : DWord
  next : DWord
  mask : LaneMask
  left : Nat
  issued : Nat
  writes : List (Bool × Nat × Nat)
deriving DecidableEq, Repr

/-- A group (R27, R31, R32): where it was placed, its registers, its frontier and its trap state. A vector register
is keyed lane * 256 + number. An unlisted register reads as the launch left it (log 4), and as 0 where the group is the
first to use its part of the register files since bring-up, `fresh` (R354). -/
structure Group where
  team : Nat
  cluster : Nat
  grid : Nat
  index : Nat
  width : Nat
  count : Nat
  base : Nat
  core : Nat
  space : Nat
  gridId : BitVec 32
  clus : BitVec 32
  teamIndex : Nat
  plimit : BitVec 32
  pbase : DWord
  args : DWord
  trapEntry : Option DWord
  resident : Bool
  vregs : Store Word
  uregs : Store DWord
  preds : Store LaneMask
  live : LaneMask
  front : Front
  trap : Option TrapState
  returns : Store (List DWord)
  spilled : Store Nat
  rep : BitVec 16
  tmask : DWord
  tcause : DWord
  taddr : DWord
  gang : BitVec 32
  triggered : Bool
  raises : Nat
  flights : List Flight
  fresh : Bool
deriving DecidableEq, Repr

/-! ### Work waiting for the engines -/

/-- One epilogue slot (R311): base, row stride, scale base. -/
structure EpiSlot where
  base : DWord
  stride : Word
  scale : DWord
deriving DecidableEq, Repr

/-- The epilogue program (R311). -/
structure Epilogue where
  words : List Word
  consts : List Word
  slots : List EpiSlot
deriving DecidableEq, Repr

/-- An epilogue row held at a store whose translation the host has to answer (R315): the micro-ops from that store on,
the row's elements, its scale and its quantised bytes. -/
structure EpiHeld where
  rest : List Word
  w : List Word
  q : Word
  y : List Byte
deriving DecidableEq, Repr

/-- A matrix operation (R307): its I32 field, its four parameter registers, whether its handle is taken and whether it
has started, the segment and K block that run next (R62), whether its blocks are done, the epilogue row that comes next,
and that row where it is held (R315). -/
structure MmaOp where
  flags : BitVec 32
  params : List DWord
  claimed : Bool
  started : Bool
  segment : Nat
  block : Nat
  drain : Bool
  row : Nat
  held : Option EpiHeld
deriving DecidableEq, Repr

/-- What queue 4 holds (R129, R303). -/
inductive Work4 where
  | segtab (table : List (Nat × Nat))
  | wload (fmt : Nat) (half buffer tile : Nat)
  | mma (op : MmaOp)
  | accrd (row col n d : Nat)
  | accwr (cells : List (Nat × Word))
  | accz (row n : Nat)
  | epld (program : Epilogue)
deriving DecidableEq, Repr

/-- An operation of queue 4: its ticket, team and issuers, the work, and a translation that the host has to answer
(R315). -/
structure Op4 where
  ticket : Nat
  team : Nat
  issuers : List Issuer
  work : Work4
  parked : Option (Nat × DWord)
deriving DecidableEq, Repr

/-- A memory-side call of one lane (R279): the caller, the command word, physical operands, X's virtual address,
scalar, destination register, the permit it holds, and the cursor, the count and the descriptor as read with which a
stopped walk or pass goes on (R67). -/
structure Call where
  ticket : Nat
  core : Nat
  issuer : Issuer
  lane : Nat
  command : DWord
  x : Nat
  y : Nat
  z : Option Nat
  vx : DWord
  a : Word
  d : Nat
  permit : Option Nat
  start : Nat
  tally : Nat
  kept : List Word
deriving DecidableEq, Repr

/-- A reply on its way (R137): its call, the value, and the offset from X of a read that met an uncorrectable error
(R144). -/
structure Reply where
  call : Call
  value : Word
  ecc : Option Nat
deriving DecidableEq, Repr

/-- An executor, walker or assay engine (R138, R142, R145): its queue, the command in progress as row step or
cursor, partials, first match, count, until which cycle refresh holds the bank, and how many ordinary accesses the bank
has served since the last step boundary (R146). An assay pass holds its descriptor in `partials` and the changed blocks
of the extent that is being installed in `first`. -/
structure Engine where
  queue : List Call
  running : Bool
  step : Nat
  partials : List Word
  first : Option Nat
  tally : Nat
  refreshUntil : Nat
  served : Nat
deriving DecidableEq, Repr

/-- A return-free add of one lane on its way (R150): its issuer with that lane, its virtual and its physical address. -/
structure Add where
  ticket : Nat
  core : Nat
  issuer : Issuer
  va : DWord
  pa : Nat
  value : Word
deriving DecidableEq, Repr

/-- What a window message asks for (R289). -/
inductive WinWork where
  | init (config : DWord)
  | push (ty : Nat) (ret : Option Nat) (values : List (Nat × DWord))
  | read (ty : Nat) (uni : Bool) (d : Nat)
  | len (w : Nat)
  | free
deriving DecidableEq, Repr

/-- A window message in queue 6 (R291). -/
structure WinMsg where
  ticket : Nat
  issuer : Issuer
  va : DWord
  pa : Nat
  work : WinWork
deriving DecidableEq, Repr

/-- A window object (R184 to R186): front stack and back stack with their newest entry first. -/
structure Window where
  capacity : Nat
  width : Nat
  ty : Nat
  op : Nat
  front : List DWord
  fold : Option DWord
  back : List DWord
  space : Nat
  foreman : Bool
deriving DecidableEq, Repr

/-- A power permit (R167, R168): its ticket in request order, the group's explicit permit or an implicit one,
whether granted, whether the group still holds it, the operations that use it. -/
structure Permit where
  ticket : Nat
  group : Option Nat
  explicit : Bool
  granted : Bool
  held : Bool
  users : List Nat
deriving DecidableEq, Repr

/-- A chain head of a copy channel (R169): its next record, and the teams whose share a save left filling (R63). -/
structure Head where
  ticket : Nat
  issuer : Issuer
  record : DWord
  shares : Option (List Nat)
deriving DecidableEq, Repr

/-- A copy record in progress (R170): its address, its physical address, its bytes, the teams whose share is still
filling, and for a multicast the source once it is read. -/
structure Running where
  record : DWord
  pa : Nat
  bytes : List Byte
  shares : List Nat
  data : Option (List Byte)
deriving DecidableEq, Repr

/-- A copy channel: heads, the record in progress, and a translation that the host has to answer (R108). -/
structure Channel where
  heads : List Head
  running : Option Running
  parked : Option (Nat × DWord)
deriving DecidableEq, Repr

/-- A range-scoreboard entry (R96): team, byte range, whether written, the channel's record. -/
structure Range where
  team : Nat
  lo : Nat
  hi : Nat
  writes : Bool
  ticket : Nat
deriving DecidableEq, Repr

/-- The codebook (R172): entries and the grid, cluster and team that loaded it. -/
structure Codebook where
  bytes : List Byte
  grid : Nat
  cluster : Nat
  team : Nat
deriving DecidableEq, Repr

/-- A latched half-tile (R157): format code, bytes by offset, scale. -/
structure Half where
  fmt : Nat
  data : Memory
  scale : Word
deriving DecidableEq, Repr

/-- The rendezvous latch (R161): gang mask, instruction, parameters, arrivals. -/
structure Latch where
  gang : BitVec 32
  instr : Instr
  params : List DWord
  arrived : List Issuer
deriving DecidableEq, Repr

/-- The matrix state of a core (R155, R163, R164, R303): accumulators by row * 128 + column (unlisted +0), half-tiles
by 2 * buffer + half (unlisted: zeros, E4M3, 1.0), tables and programs as performed and as issued, formats as issued. -/
structure Matrix where
  acc : Store Word
  halves : Store Half
  table : List (Nat × Nat)
  issueTable : List (Nat × Nat)
  epilogue : Option Epilogue
  issueEpilogue : Option Epilogue
  issueFormats : Store Nat
  latch : Option Latch
deriving DecidableEq, Repr

/-- What a core holds (R11, R36, R37, R88, R97, R109, R129, R167, R172, R360); `reused` says that a group has given up
registers of its files since bring-up (R29, R354). -/
structure Core where
  l1 : List Super
  column : List Super
  stamp : BitVec 32
  tlb : List Tlb
  icache : List ILine
  fetching : List (Nat × Nat)
  leader : Option Nat
  scoreboard : List Range
  channels : Store Channel
  queue4 : List Op4
  queue5 : List Call
  queue6 : List WinMsg
  codebook : Option Codebook
  matrix : Matrix
  permits : List Permit
  swallow : Nat
  swallowNext : Option Nat
  raised : Bool
  reused : Bool
deriving DecidableEq, Repr

/-! ### Grids, clusters, teams -/

/-- A live grid (R51, R55, R58): the message's fields, resolved producers, the next cluster to place. -/
structure Grid where
  id : BitVec 32
  kernel : Bool
  object : Nat
  entryPc : DWord
  trapEntry : Option DWord
  prio : Nat
  queue : Nat
  clusters : Nat
  rows : Nat
  cols : Nat
  groups : Nat
  width : Nat
  count : Nat
  scratch : Nat
  floor : Bool
  plimit : BitVec 32
  space : Nat
  pbase : DWord
  args : DWord
  completion : DWord
  producers : List Nat
  next : Nat
  failed : Bool
  reason : Nat
deriving DecidableEq, Repr

/-- A cluster, resident or saved (R57, R61): corner of its rectangle, teams, ticks at which its quantum began and it
became resident, the tick of its freeze with whether it goes back to the head of its queue (R60, R62). -/
structure Cluster where
  grid : Nat
  index : Nat
  corner : Nat
  teams : List Nat
  resident : Bool
  since : Nat
  arrived : Nat
  frozen : Option (Nat × Bool)
deriving DecidableEq, Repr

/-- What a save keeps of a team's engines (R62, R66). -/
structure Saved where
  floor : Option Memory
  matrix : Option Matrix
  queue4 : List Op4
  channels : Store Channel
  codebook : Option Codebook
  adds : List Add
  walks : List Call
  ranges : List Range
  area : Nat
  image : List Byte
deriving DecidableEq, Repr

/-- A team (R27, R91, R173): place, scratchpad (unlisted 0), its size in bytes, handle states (unlisted free). -/
structure Team where
  grid : Nat
  cluster : Nat
  index : Nat
  core : Nat
  scratch : Memory
  size : Nat
  floorNeed : Bool
  handles : Store Nat
  saved : Option Saved
deriving DecidableEq, Repr

/-- What waits in a queue (R51, R61). -/
inductive Item where
  | launch (grid : Nat)
  | saved (cluster : Nat)
deriving DecidableEq, Repr

/-- A launch queue (R56, R61): its items, its quantum, since when its head waits, the grids whose launches are raised. -/
structure Queue where
  items : List Item
  quantum : Nat
  since : Nat
  raised : List Nat
deriving DecidableEq, Repr

/-! ### Flash -/

/-- An install in its turn or waiting (R178, R298). -/
structure Install where
  ticket : Nat
  column : Nat
  group : Option Nat
  extent : Nat
  source : List Nat
  inline : Option (List Byte)
  completion : Nat
  busy : Bool
  assay : Option Nat
  deadline : Option Nat
  permit : Option Nat
  tries : Nat
deriving DecidableEq, Repr

/-- A flash stack (R176 to R183): logical-to-physical map (unlisted: identity), cycles used by erase block (unlisted 0),
retired blocks, extents that left the free pool, accepted installs, commit times, and the runs of extents that locks
name, as first extent and count (R179). -/
structure Flash where
  map : Store Nat
  wear : Store Nat
  retired : List Nat
  gone : List Nat
  installs : List Install
  commits : List Nat
  locked : List (Nat × Nat)
deriving DecidableEq, Repr

/-! ### Foreman, link, transport -/

/-- A resident code object (R209 to R217). -/
structure CodeObject where
  space : Nat
  entries : List (DWord × List Byte)
  trapEntry : Option DWord
  digest : BitVec 384
  key : BitVec 384
  time : Nat
deriving DecidableEq, Repr

/-- A column's sensor (R359, R360). -/
structure Sensor where
  reading : Int
  strikes : Nat
  failed : Bool
  hot : Nat
deriving DecidableEq, Repr

/-- What the engine answers a peer about a packet that arrived (R346, R348, R349). -/
inductive PeerAnswer where
  | acknowledged | trimmed | refused
deriving DecidableEq, Repr

/-- What the device reports to the host. -/
inductive Report where
  /-- A rejected message with its reason (R52). -/
  | rejected (first : List Byte) (reason : Nat)
  /-- A completion record that could not be written (R53). -/
  | notWritten (status : Nat) (id : BitVec 32)
  /-- A translation miss (R108): ticket, virtual address, grid, core identifier, access code. -/
  | miss (ticket : Nat) (va : DWord) (grid : BitVec 32) (core : Nat) (access : Nat)
  /-- A double fault (R49): group, cause, tcause and taddr that would have been placed, tcause and taddr as they stand. -/
  | doubleFault (group : Nat) (cause : Nat) (tcause taddr oldCause oldAddr : DWord)
  /-- An answer of the foreman: accepted or refused with a code, and its bytes. -/
  | answer (code : Nat) (bytes : List Byte)
  /-- An error answer to a channel-2 access (R344). -/
  | linkError (address : Nat)
  /-- A unit out of service, both slices of a pair among them; for a bank the virtual pages that map it, as address
  space and address (R26, R357). -/
  | faulty (unit : Part) (pages : List (Nat × Nat))
  /-- A packet sent by the transport engine: peer, its number, window, mode, offset, payload (R347). -/
  | packet (peer id window mode offset : Nat) (bytes : List Byte)
  /-- What the transport engine answers a peer: peer, message, where the packet's bytes begin in it (R346, R349). -/
  | toPeer (peer message first : Nat) (answer : PeerAnswer)
  /-- The device asks the host for replay from a sequence number (R343). -/
  | replayFrom (seq : Nat)
  /-- The device sends its flit number `n` again (R343). -/
  | resent (n : Nat)
  /-- The link is down (R343). -/
  | linkDown
deriving DecidableEq, Repr

/-- A peer (R346, R351): key, port, whether its congestion control is by receiver credit rather than signalled by the
network, the addresses of its congestion objects. -/
structure Peer where
  key : List Byte
  port : Nat
  credit : Bool
  roundTrip : Nat
  marks : Nat
deriving DecidableEq, Repr

/-- A descriptor that the engine has taken (R347, R348): its number, virtual address, the 64 KiB pages of its source,
and its status once it has completed. -/
structure Sending where
  index : Nat
  va : DWord
  source : List Nat
  start : Nat
  length : Nat
  peer : Nat
  window : Nat
  mode : Nat
  offset : Nat
  counter : DWord
  status : Option Nat
deriving DecidableEq, Repr

/-- A send queue (R347): virtual addresses of slots, post word and done word, address space, descriptors taken, and
those taken whose turn at the done word has not come. -/
structure SendQueue where
  slots : DWord
  post : DWord
  done : DWord
  space : Nat
  taken : Nat
  sending : List Sending
deriving DecidableEq, Repr

/-- A packet on its way to a peer (R347): descriptor, bytes it carries, whether retransmitted. -/
structure Packet where
  queue : Nat
  index : Nat
  first : Nat
  size : Nat
  again : Bool
deriving DecidableEq, Repr

/-- A receive window (R349). -/
structure RecvWindow where
  base : DWord
  length : Nat
  space : Nat
  counter : DWord
deriving DecidableEq, Repr

/-- A message in assembly (R349): window, offset, length, bytes placed by offset; or refused, or counted. -/
structure Message where
  window : Nat
  offset : Nat
  length : Nat
  placed : List (Nat × Nat)
  refused : Bool
  counted : Bool
deriving DecidableEq, Repr

/-- The Vrel link (R342, R343): the next sequence number expected, how often replay was asked for that flit (9 once the
eighth replay has failed), whether an asked replay has not begun yet, and how often each flit that the device sent was sent
again (unlisted 0; 9 once a ninth replay was asked for). -/
structure Link where
  up : Bool
  expected : Nat
  asked : Nat
  awaits : Bool
  replays : Store Nat
deriving DecidableEq, Repr

/-- The transport engine (R346 to R351): packets by number, messages by peer * 2^32 + number, the next sequence number of
each ordered flow by peer * 2^32 + number (unlisted 0), packets that failed authentication. -/
structure Transport where
  peers : Store Peer
  queues : Store SendQueue
  windows : Store RecvWindow
  packets : Store Packet
  messages : Store Message
  flows : Store Nat
  discarded : Nat
deriving DecidableEq, Repr

/-- The foreman (R354 to R360). -/
structure Foreman where
  stage : Nat
  calibration : Bool
  outFlag : Bool
  spaces : Store Nat
  objects : Store CodeObject
  nextObject : Nat
  records : Store CodeObject
  ownerKeys : List (BitVec 384 × BitVec 384)
  events : List (Part × Nat)
  sensors : Store Sensor
  drift : List (Nat × Nat × Nat)
  wallClock : Option (Nat × Nat)
  savePool : Option (Nat × Nat)
  raiseEnd : Option Nat
deriving DecidableEq, Repr

/-! ### The machine -/

/-- The slot that issues: group, lanes, address, length in words, port, and the bits that were fetched when it was
selected, of the instruction and of the one behind a `rep` (R333); none where the fetch is still to be made. -/
structure Slot where
  group : Nat
  mask : LaneMask
  pc : DWord
  words : Nat
  port : Nat
  bits : Option Nat
  behind : Option Nat
deriving DecidableEq, Repr

/-- Where an uncorrectable error stands (R356): a line behind level 2, the copy of a line in its home slice, a column
cache or an L1, a word of a team's scratchpad or of a core's floor scratchpad, a register of a group. -/
inductive Flaw where
  | line (la : Nat)
  | slice (la : Nat)
  | column (core la : Nat)
  | l1 (core la : Nat)
  | scratch (team word : Nat)
  | floor (core word : Nat)
  | vector (group lane n : Nat)
  | uniform (group n : Nat)
  | predicate (group n : Nat)
deriving DecidableEq, Repr

/-- What moves next, where the model's agenda says so (log 8): a step of another agent, an uncorrectable error that
arises (R356; log 16), or the cores. -/
inductive Turn where
  | event (i : Instr)
  | flaw (f : Flaw)
  | cores
deriving DecidableEq, Repr

/-- The state of the machine. Unlisted cores and slices read as `Core.initial` and `Slice.initial`; the fields from
`issue` on are the model's own (logs 7, 8). -/
structure State where
  cycles : Nat
  mem : Memory
  flashMem : Memory
  modes : List Bool
  stagingGib : Nat
  staging : List Nat
  cores : Store Core
  slices : Store Slice
  groups : Store Group
  teams : Store Team
  clusters : Store Cluster
  grids : Store Grid
  queues : Store Queue
  rr : List Nat
  nextLaunch : BitVec 32
  areas : List (Nat × Nat)
  executors : Store Engine
  walkers : Store Engine
  assays : Store Engine
  replies : List Reply
  adds : List Add
  windows : Store Window
  flash : Store Flash
  foreman : Foreman
  link : Link
  transport : Transport
  columnsOut : List Nat
  slicesOut : List Nat
  remapped : List Nat
  stacksOut : List Nat
  flashOut : List Nat
  banksOut : List Nat
  badLines : List Nat
  flaws : List Flaw
  watches : List Watch
  outbox : List Report
  issue : Option Slot
  slots : List Slot
  turn : Nat
  agenda : List Turn
  serial : Nat
  draws : Nat
deriving DecidableEq, Repr

/-- The matrix state at a team's first instruction (R157, R163). -/
def Matrix.initial : Matrix :=
  { acc := [], halves := [], table := [], issueTable := [], epilogue := none, issueEpilogue := none,
    issueFormats := [], latch := none }

/-- A core after reset: empty caches (R354), no work. -/
def Core.initial : Core :=
  { l1 := [], column := [], stamp := 0, tlb := [], icache := [], fetching := [], leader := none, scoreboard := [],
    channels := [], queue4 := [], queue5 := [], queue6 := [], codebook := none, matrix := Matrix.initial,
    permits := [], swallow := 0, swallowNext := none, raised := false, reused := false }

/-- A slice after reset: empty, sixteen ways of cache (R32, R354). -/
def Slice.initial : Slice := { supers := [], pins := [], ways := 16, floor := [] }

/-- An idle engine. -/
def Engine.initial : Engine :=
  { queue := [], running := false, step := 0, partials := [], first := none, tally := 0, refreshUntil := 0,
    served := 0 }

/-- A launch queue after reset: empty, quantum 2 ms (R61). -/
def Queue.initial : Queue := { items := [], quantum := 2000, since := 0, raised := [] }

/-- A flash stack after reset: nothing installed, nothing worn (logs 1, 5). -/
def Flash.initial : Flash :=
  { map := [], wear := [], retired := [], gone := [], installs := [], commits := [], locked := [] }

/-- An idle copy channel. -/
def Channel.initial : Channel := { heads := [], running := none, parked := none }

/-- The foreman after reset: stage 0, nothing registered (R354). -/
def Foreman.initial : Foreman :=
  { stage := 0, calibration := false, outFlag := false, spaces := [], objects := [], nextObject := 0, records := [],
    ownerKeys := [], events := [], sensors := [], drift := [], wallClock := none, savePool := none, raiseEnd := none }

/-- The machine right after reset: stage 0, `$time` 0, nothing resident, S = 48, the kernel launch counter at
0x8000_0000 (R17, R55, R174, R354); what the manual states no reset value for is named in logs 1 to 8. -/
def State.reset : State :=
  { cycles := 0, mem := [], flashMem := [], modes := List.replicate 12 false, stagingGib := 48, staging := [],
    cores := [], slices := [], groups := [], teams := [], clusters := [], grids := [], queues := [],
    rr := [0, 0, 0, 0], nextLaunch := 0x80000000, areas := [], executors := [], walkers := [], assays := [],
    replies := [], adds := [], windows := [], flash := [], foreman := Foreman.initial,
    link := { up := true, expected := 0, asked := 0, awaits := false, replays := [] },
    transport :=
      { peers := [], queues := [], windows := [], packets := [], messages := [], flows := [], discarded := 0 },
    columnsOut := [], slicesOut := [], remapped := [], stacksOut := [], flashOut := [], banksOut := [], badLines := [],
    flaws := [], watches := [], outbox := [], issue := none, slots := [], turn := 0, agenda := [], serial := 0, draws := 0 }

end Sys2Proof.Machine
end

