-- ==== Sys2Proof/Machine/Ops.lean ====
section
/-! DEFINITION. Shared operations: sparse tables and memory, the parts of the state, reading and writing registers,
moving an entry on (03 R34, R35), taking a trap (R47, R49) and returning from one (29 R335). -/

namespace Sys2Proof.Machine

abbrev Result := Host.Outcome State Fault Refusal

/-! ### Sparse tables -/

/-- The entry of a key, or a default. -/
def Store.at {α : Type} (m : Store α) (k : Nat) (d : α) : α := (m.lookup k).getD d

/-- Sets the entry of a key, keeping the keys in rising order. -/
def Store.put {α : Type} (m : Store α) (k : Nat) (v : α) : Store α :=
  match m with
  | [] => [(k, v)]
  | (j, w) :: r => if k < j then (k, v) :: (j, w) :: r else if k = j then (k, v) :: r else (j, w) :: Store.put r k v

/-- Removes the entry of a key. -/
def Store.drop {α : Type} (m : Store α) (k : Nat) : Store α := m.filter fun p => p.1 != k

/-- Rewrites the entry of a key, where there is one. -/
def Store.modify {α : Type} (m : Store α) (k : Nat) (f : α → α) : Store α :=
  m.map fun p => if p.1 = k then (p.1, f p.2) else p

/-! ### Memory (R4) -/

/-- The canonical form: rising addresses, no zero byte. -/
abbrev Memory.wf (m : Memory) : Prop := m.Pairwise (fun a b => a.1 < b.1) ∧ ∀ c ∈ m, c.2 ≠ 0

/-- One byte; an unlisted address reads as 0 (R354; log 2). -/
def Memory.read (m : Memory) (a : Nat) : Byte := (m.lookup a).getD 0

/-- Writes one byte and keeps the canonical form. -/
def Memory.write (m : Memory) (a : Nat) (b : Byte) : Memory :=
  match m with
  | [] => if b = 0 then [] else [(a, b)]
  | (j, w) :: r =>
    if a < j then (if b = 0 then (j, w) :: r else (a, b) :: (j, w) :: r)
    else if a = j then (if b = 0 then r else (a, b) :: r)
    else (j, w) :: Memory.write r a b

/-- `n` bytes from an address. -/
def Memory.readBytes (m : Memory) (a : Nat) : Nat → List Byte
  | 0 => []
  | n + 1 => m.read a :: Memory.readBytes m (a + 1) n

/-- Writes bytes from an address. -/
def Memory.writeBytes (m : Memory) (a : Nat) : List Byte → Memory
  | [] => m
  | b :: r => Memory.writeBytes (m.write a b) (a + 1) r

/-- A little-endian value of `n` bytes (R4). -/
def Memory.readNat (m : Memory) (a n : Nat) : Nat := leNat (m.readBytes a n)

/-! ### The parts of the state -/

/-- Core `n`, by its column number (R11). -/
def State.core (s : State) (n : Nat) : Core := s.cores.at n Core.initial

def State.setCore (s : State) (n : Nat) (c : Core) : State := { s with cores := s.cores.put n c }

def State.onCore (s : State) (n : Nat) (f : Core → Core) : State := s.setCore n (f (s.core n))

/-- Floor slice `n`. -/
def State.slice (s : State) (n : Nat) : Slice := s.slices.at n Slice.initial

def State.setSlice (s : State) (n : Nat) (x : Slice) : State := { s with slices := s.slices.put n x }

def State.onGroup (s : State) (g : Nat) (f : Group → Group) : State := { s with groups := s.groups.modify g f }

def State.onTeam (s : State) (t : Nat) (f : Team → Team) : State := { s with teams := s.teams.modify t f }

def State.onGrid (s : State) (g : Nat) (f : Grid → Grid) : State := { s with grids := s.grids.modify g f }

def State.onCluster (s : State) (k : Nat) (f : Cluster → Cluster) : State := { s with clusters := s.clusters.modify k f }

/-- `$time`: reference-clock ticks since reset, 100 MHz beside the arithmetic clock's 850 MHz (R16, R17). -/
def State.time (s : State) : Nat := s.cycles * 2 / 17

/-- The next ticket. -/
def State.ticket (s : State) : State × Nat := ({ s with serial := s.serial + 1 }, s.serial)

/-- A free choice among `n` alternatives (log 10). -/
def State.pick (s : State) (n : Nat) : State × Nat := ({ s with draws := s.draws + 1 }, Config.pick s.draws % n)

def State.report (s : State) (r : Report) : State := { s with outbox := s.outbox ++ [r] }

/-- `READY`, set together with stage 5 (R354). -/
def State.ready (s : State) : Bool := s.foreman.stage = 5

/-- The foreman's answer to a host request: 0 for accepted, 1 for refused (log 19). -/
def State.reply (s : State) (accepted : Bool) (bs : List Byte) : State :=
  s.report (.answer (if accepted then 0 else 1) bs)

/-- A foreman request that is no status request is served once `READY` is set; none arrives while the link is down (R343,
R355). -/
def State.served? (s : State) (ok : State → Bool) (f : State → State) : Result :=
  .next (if !s.ready || !s.link.up then s else if ok s then (f s).reply true [] else s.reply false [])

/-- The lanes of a group's width (R27). -/
def Group.lanesAll (g : Group) : LaneMask := lanesBelow g.width

/-! ### Registers (R8, R69) -/

/-- What an unlisted register holds (R354; log 4). -/
def Group.unwritten (g : Group) (serial n : Nat) : DWord := if g.fresh then 0 else Config.launchReg serial n

/-- Vector register `n` of a lane. -/
def Group.vreg (g : Group) (serial lane n : Nat) : Word :=
  (g.vregs.lookup (lane * 256 + n)).getD ((g.unwritten serial (lane * 256 + n)).setWidth 32)

/-- Uniform register `n`. -/
def Group.ureg (g : Group) (serial n : Nat) : DWord :=
  (g.uregs.lookup n).getD (g.unwritten serial (0x10000 + n))

/-- Predicate `n` of every lane. -/
def Group.pred (g : Group) (serial n : Nat) : LaneMask :=
  (g.preds.lookup n).getD (g.unwritten serial (0x20000 + n))

/-- The even-odd pair at `n` (R4). -/
def Group.vpair (g : Group) (serial lane n : Nat) : DWord := g.vreg serial lane (n + 1) ++ g.vreg serial lane n

def Group.setV (g : Group) (lane n : Nat) (x : Word) : Group := { g with vregs := g.vregs.put (lane * 256 + n) x }

/-- Writes a pair: bits [31:0] in the even register (R4). -/
def Group.setPair (g : Group) (lane n : Nat) (x : DWord) : Group :=
  (g.setV lane n (x.setWidth 32)).setV lane (n + 1) ((x >>> 32).setWidth 32)

def Group.setU (g : Group) (n : Nat) (x : DWord) : Group := { g with uregs := g.uregs.put n x }

/-- Writes a predicate in the lanes of a mask. -/
def Group.setP (g : Group) (serial n : Nat) (m v : LaneMask) : Group :=
  { g with preds := g.preds.put n ((g.pred serial n &&& ~~~m) ||| (v &&& m)) }

/-- The lanes of a mask whose guard is true (R192). -/
def Group.passing (g : Group) (serial : Nat) (gd : Guard) (m : LaneMask) : LaneMask :=
  if gd.g = 15 then m
  else if gd.neg then m &&& ~~~g.pred serial gd.g.toNat
  else m &&& g.pred serial gd.g.toNat

/-! ### The frontier (R34, R35, R205) -/

/-- A fresh entry. -/
def Entry.make (prio : BitVec 8) (pc : DWord) (mask : LaneMask) : Entry :=
  { prio := prio, pc := pc, mask := mask, hold := .free, passes := 0, raised := none, repeating := false,
    after := none, done := 0, len := 0 }

/-- Whether an entry may combine with another: not held and not repeating (R34, R205). One that stalls at an `mcall` for its
permit or at a `finstall` for room counts as held until that wait ends (DESIGN CHOICE, log 78), and one that has yet to
issue the instruction of a trap again combines with none until it has (DESIGN CHOICE, log 96). -/
def Entry.mergeable (e : Entry) : Bool := e.hold = .free && !e.repeating && e.after.isNone

/-- Two entries at one program counter become one: OR of the masks, the higher priority, pass count 0 (R34, R40). The
new entry keeps the earliest raise of the two although its pass count is 0 (DESIGN CHOICE, log 64). -/
def Entry.combine (a b : Entry) : Entry :=
  { Entry.make (if a.prio.toNat < b.prio.toNat then b.prio else a.prio) a.pc (a.mask ||| b.mask) with
    raised := match a.raised, b.raised with
      | some i, some j => some (min i j)
      | some i, none => some i
      | none, r => r }

/-- A handler waits for the window instructions at which the saved frontier holds entries: they issued before the trap and
complete (R47). -/
def Group.awaits (g : Group) : Bool :=
  g.trap.any fun t => t.front.entries.any fun e => match e.hold with
    | .window _ => true
    | _ => false

/-- An entry is held by an earlier long-latency instruction whose window is used up, whatever its next instruction is
(R34, R202). -/
def Group.busy (g : Group) (e : Entry) : Bool :=
  g.awaits || g.flights.any fun f => f.mask &&& e.mask != 0 && f.left = 0

/-- Adds an entry to a list of entries; an empty one vanishes. Entries combine at the start of a core's cycle
(`Group.merge`). -/
def addEntry (es : List Entry) (e : Entry) : List Entry := if e.mask = 0 then es else es ++ [e]

/-- Adds an entry to a group's frontier. -/
def Group.enter (g : Group) (e : Entry) : Group :=
  { g with front := { g.front with entries := addEntry g.front.entries e } }

/-- Takes lanes out of every entry of a group's frontier. -/
def Group.leave (g : Group) (m : LaneMask) : Group :=
  { g with front := { g.front with entries :=
      (g.front.entries.map fun e => { e with mask := e.mask &&& ~~~m }).filter fun e => e.mask != 0 } }

/-- Adds an entry where it combines with one at the same program counter unless either is held (R34). -/
def joinEntry (held : Entry → Bool) (e : Entry) : List Entry → List Entry
  | [] => [e]
  | x :: r =>
    if x.pc = e.pc ∧ x.mergeable ∧ e.mergeable ∧ ¬ held x ∧ ¬ held e then x.combine e :: r
    else x :: joinEntry held e r

/-- Entries of one program counter combine; `held` says which are held by an earlier long-latency instruction (R34). -/
def Group.merge (g : Group) (held : Entry → Bool) : Group :=
  { g with front := { g.front with entries := g.front.entries.foldl (fun acc e => joinEntry held e acc) [] } }

/-- The entry that holds exactly the lanes of a mask. -/
def Group.entryOf (g : Group) (m : LaneMask) : Option Entry := g.front.entries.find? fun e => e.mask = m

/-- The entries of a group, those of a saved frontier too. -/
def Group.everyEntry (g : Group) : List Entry :=
  g.front.entries ++ (g.trap.map fun t => t.front.entries).getD []

/-- Rewrites every entry of a group, those of a saved frontier too. -/
def Group.onFronts (g : Group) (f : Entry → Entry) : Group :=
  { g with front := { g.front with entries := g.front.entries.map f },
           trap := g.trap.map fun t => { t with front := { t.front with entries := t.front.entries.map f } } }

/-- Rewrites the entry that holds exactly the lanes of a mask. -/
def Group.onEntry (g : Group) (m : LaneMask) (f : Entry → Entry) : Group :=
  { g with front := { g.front with entries := g.front.entries.map fun e => if e.mask = m then f e else e } }

/-- The repeat state as step mask, n - 1 and repeats completed (R205). -/
def repSteps (r : BitVec 16) : Nat := bits 15 12 r.toNat
def repLast (r : BitVec 16) : Nat := bits 11 6 r.toNat
def repDone (r : BitVec 16) : Nat := bits 5 0 r.toNat

/-- The address of the instruction after the issued one. -/
def Slot.next (x : Slot) : DWord := x.pc + BitVec.ofNat 64 (4 * x.words)

/-- Where the issuing entry goes when its instruction transfers no control (R35, R203). -/
def Entry.following (e : Entry) (x : Slot) : DWord := e.after.getD x.next

/-- An instruction of the lanes of a mask counts as a follower in every window open for them (R202, R203). -/
def Group.follow (g : Group) (m : LaneMask) : Group :=
  { g with flights := g.flights.map fun f =>
      if f.mask &&& m != 0 then { f with left := f.left - 1, issued := f.issued + 1 } else f }

/-- Moves the issuing entry past its instruction; a repeating entry counts the repeat and stays until the last one,
when `$rep` becomes 0 (R35, R205). -/
def Group.advance (g : Group) (x : Slot) : Group :=
  let g := g.follow x.mask
  match g.entryOf x.mask with
  | none => g
  | some e =>
    if e.repeating then
      if repDone g.rep < repLast g.rep then { g with rep := g.rep + 1 }
      else ({ g with rep := 0 }.leave x.mask).enter (Entry.make e.prio (e.following x) x.mask)
    else (g.leave x.mask).enter (Entry.make e.prio (e.following x) x.mask)

/-- The issuing entry waits at its instruction; it continues after it when the hold ends (R34). -/
def Group.holdAt (g : Group) (x : Slot) (h : Hold) : Group :=
  (g.follow x.mask).onEntry x.mask fun e => { e with hold := h, len := x.words }

/-- Where a held entry continues. -/
def Entry.beyond (e : Entry) : DWord := e.after.getD (e.pc + BitVec.ofNat 64 (4 * e.len))

/-- Entries whose wait is over continue past their instruction, in a saved frontier too. -/
def Group.passHold (g : Group) (p : Hold → Bool) : Group :=
  g.onFronts fun e => if p e.hold then Entry.make e.prio e.beyond e.mask else e

/-- Opens the lookahead window of an instruction that has just moved its entry on (R202). The `done` followers that have
issued before a trap return issued it again count in the window and in f: none runs twice (R203). -/
def Group.inFlight (g : Group) (x : Slot) (t la done : Nat) (writes : List (Bool × Nat × Nat)) : Group :=
  let new : Flight :=
    { ticket := t, pc := x.pc, next := x.next, mask := x.mask, left := la - done, issued := done, writes := writes }
  { g with flights := g.flights ++ [new] }

/-- An instruction in flight has completed. -/
def Group.landed (g : Group) (t : Nat) : Group := { g with flights := g.flights.filter fun f => f.ticket != t }

/-- A held entry continues past its instruction (R34). -/
def Group.release (g : Group) (m : LaneMask) : Group :=
  match g.entryOf m with
  | none => g
  | some e => (g.leave m).enter (Entry.make e.prio e.beyond m)

/-! ### Traps (R47 to R49) -/

/-- The causes (R48). -/
inductive Cause where
  | illegalOp | illegalField | xlateFault | protection | atomicAlign | privateLimit | floorAbsent | flashWrite
  | memberMask | rejoinStuck | gangMismatch | segtabRange | codebookTag | windowObj | eccFatal | userTrap | doubleFault
deriving DecidableEq, Repr

/-- The code of a cause (R48). -/
def Cause.code : Cause → Nat
  | .illegalOp => 1 | .illegalField => 2 | .xlateFault => 3 | .protection => 4 | .atomicAlign => 5
  | .privateLimit => 6 | .floorAbsent => 7 | .flashWrite => 8 | .memberMask => 9 | .rejoinStuck => 10
  | .gangMismatch => 11 | .segtabRange => 12 | .codebookTag => 13 | .windowObj => 14 | .eccFatal => 15
  | .userTrap => 16 | .doubleFault => 17

/-- `$tcause` (R32): instruction address, port, code. -/
def tcauseOf (pc : DWord) (port : Nat) (c : Cause) : DWord :=
  BitVec.ofNat 64 (pc.toNat % 2 ^ 48 * 2 ^ 16 + port % 2 * 2 ^ 8 + c.code)

/-- What a trap carries: cause, lanes, address for `$taddr`, the instruction with its port, followers issued, and what
trap return does. -/
structure Trap where
  cause : Cause
  lanes : LaneMask
  addr : DWord
  pc : DWord
  port : Nat
  followers : Nat
  resume : Resume
deriving DecidableEq, Repr

/-- The frontier a handler starts with: every live lane at the trap entry with priority 255 (R47). -/
def handlerFront (live : LaneMask) (entry : DWord) : Front :=
  { entries := [Entry.make 255 entry live], parked := [], pool := [], waits := [] }

/-- A permit as its group gives it up: one that operations still use counts until they are done, and a request that
they wait for becomes theirs (R49, R168, R316). -/
def Permit.givenUp (p : Permit) : Option Permit :=
  if p.users = [] then none
  else some { p with explicit := p.explicit && p.granted, held := !p.granted, group := if p.granted then p.group else none }

/-- A group gives up its permits (R49, R168, R316). -/
def Core.dropPermits (c : Core) (gid : Nat) : Core :=
  { c with permits := c.permits.filterMap fun p => if p.group = some gid then p.givenUp else some p }

/-- A permit that an entry of the group was granted and no operation uses yet goes back (R168). -/
def Core.dropUnused (c : Core) (gid : Nat) : Core :=
  { c with permits := c.permits.filter fun p =>
      !(p.group = some gid && !p.explicit && p.granted && p.users = []) }

/-- Slots of a group that do not issue after all: their entries were ready, and each counts one more pass (R40, R47). -/
def Group.dropped (g : Group) (masks : List LaneMask) : Group :=
  let more (e : Entry) : Entry := if masks.contains e.mask then { e with passes := e.passes + 1 } else e
  { g with front := { g.front with entries := g.front.entries.map more } }

/-- One group takes a trap (R47): the frontier and `$rep` are saved, every live lane enters the handler, the trap
registers are set; a slot of the group not yet issued is dropped, and the handler waits for what is in flight. In trap
mode, or without a trap entry, it is a double fault: the group stops, its permits are released, the launch fails and the
foreman records it (R49). -/
def State.trapGroup (s : State) (gid : Nat) (t : Trap) : State :=
  match s.groups.lookup gid with
  | none => s
  | some g =>
    let lost := (s.slots.filter fun x => x.group = gid).map (·.mask)
    let s := { s with slots := s.slots.filter fun x => x.group != gid }.onCore g.core fun c => c.dropUnused gid
    match g.trap, g.trapEntry with
    | none, some entry =>
      s.onGroup gid fun g =>
        let g := g.dropped lost
        { g with
          trap := some { front := g.front, rep := g.rep, followers := t.followers, resume := t.resume },
          front := handlerFront g.live entry, rep := 0,
          flights := g.flights.map fun f => { f with left := 0 },
          tmask := t.lanes, tcause := tcauseOf t.pc t.port t.cause, taddr := t.addr }
    | _, _ =>
      let s := s.onGroup gid fun g =>
        { g with live := 0, front := { entries := [], parked := [], pool := [], waits := [] }, flights := [] }
      let s := s.onCore g.core fun c => c.dropPermits gid
      let s := s.onGrid g.grid fun d => { d with failed := true }
      s.report (.doubleFault gid t.cause.code (tcauseOf t.pc t.port t.cause) t.addr g.tcause g.taddr)

/-- The trap that arrived groups of a gang take when the latch can never open (R161). -/
def gangTrap (i : Issuer) (mask : LaneMask) (next : DWord) : Trap :=
  { cause := .gangMismatch, lanes := i.mask, addr := i.pc, pc := i.pc, port := i.port, followers := 0,
    resume := .entry mask i.pc next }

/-- An arrival at the latch ends: its entry is no longer held (R161). -/
def Group.unlatch (g : Group) : Group :=
  g.onFronts fun e => if e.hold = .latch then { e with hold := .free, len := 0 } else e

/-- Every group that had arrived at the latch of a core traps with `GANG_MISMATCH` (R161); its entry stands at the
`mma`. The group `except` does not: it takes a trap of its own, and its own arrival, where it had arrived, is withdrawn
(DESIGN CHOICE, log 105). -/
def State.breakLatch (s : State) (core : Nat) (except : Nat) : State :=
  match (s.core core).matrix.latch with
  | none => s
  | some l =>
    let s := s.onCore core fun c => { c with matrix := { c.matrix with latch := none } }
    l.arrived.foldl (fun s i =>
      let held := (s.groups.lookup i.group).bind fun g => g.front.entries.find? fun e => e.hold = .latch
      let s := s.onGroup i.group Group.unlatch
      match held with
      | some e => if i.group = except then s else s.trapGroup i.group (gangTrap i e.mask e.beyond)
      | none => s) s

/-- A group takes a trap; the groups that wait for it at the rendezvous latch trap too (R47, R161). -/
def State.takeTrap (s : State) (gid : Nat) (t : Trap) : State :=
  match s.groups.lookup gid with
  | none => s
  | some g =>
    let named := match (s.core g.core).matrix.latch with
      | some l => l.gang.getLsbD g.index && l.arrived.any fun i => i.team = g.team
      | none => false
    (if named then s.breakLatch g.core gid else s).trapGroup gid t

/-! ### Trap return (R335) -/

/-- A skip form's parked lanes leave at their rejoin addresses; waiting lanes go past their instruction. Those of one
address combine, with the highest priority they named (R335). -/
def releaseStuck (f : Front) : Front :=
  let es := f.parked.foldl (fun es p => addEntry es (Entry.make p.prio p.rejoin (laneBit p.lane))) f.entries
  let es := f.waits.foldl (fun es w => addEntry es (Entry.make w.prio w.next w.arrived)) es
  { f with entries := es, parked := [], waits := [] }

/-- The lanes of a set, sent elsewhere; others that have combined with them stay. -/
def redirect (f : Front) (m : LaneMask) (g : Entry → Entry) : Front :=
  { f with entries := f.entries.flatMap fun e =>
      if e.mask &&& m = 0 then [e]
      else addEntry [g { e with mask := e.mask &&& m }] { e with mask := e.mask &&& ~~~m } }

/-- The entry that held the faulting instruction issues it again, and then the instruction after the followers that had
issued; with the skip form it continues there (R203, R335). -/
def resumeEntry (f : Front) (m : LaneMask) (pc next : DWord) (followers : Nat) (skip : Bool) : Front :=
  redirect f m fun e =>
    if skip then { Entry.make e.prio next e.mask with passes := e.passes, raised := e.raised }
    else { e with pc := pc, hold := .free, len := 0, after := if followers = 0 then e.after else some next, done := followers }

/-- The saved frontier as trap return leaves it (R203, R335). -/
def TrapState.resumed (t : TrapState) (skip : Bool) : Front :=
  match t.resume with
  | .entry m pc next => resumeEntry t.front m pc next t.followers skip
  | .stuck => if skip then releaseStuck t.front else t.front
  | .member m pc next =>
    let f := resumeEntry t.front m pc next t.followers skip
    if skip then
      let out := f.waits.filter fun w => w.pc = pc
      { f with entries := out.foldl (fun es w => addEntry es (Entry.make w.prio w.next w.arrived)) f.entries,
               waits := f.waits.filter fun w => w.pc != pc }
    else f
  | .unchanged => t.front

/-- Drops the lanes that are no longer live from a frontier (R335). -/
def Front.keep (f : Front) (live : LaneMask) : Front :=
  { entries := (f.entries.map fun e => { e with mask := e.mask &&& live }).filter fun e => e.mask != 0,
    parked := f.parked.filter fun p => live.getLsbD p.lane,
    pool := f.pool.filter fun p => live.getLsbD p.lane,
    waits := (f.waits.map fun w => { w with arrived := w.arrived &&& live, active := w.active &&& live }).filter
      fun w => w.arrived != 0 }

/-- A group leaves trap mode (R335): the handler's frontier is discarded, the saved one restored, `$rep` too; the skip
form clears `$rep` where the faulting instruction was being repeated (R205). -/
def Group.leaveTrap (g : Group) (skip : Bool) : Group :=
  match g.trap with
  | none => g
  | some t =>
    let repeats := match t.resume with
      | .entry m _ _ => t.front.entries.any fun e => e.mask &&& m != 0 && e.repeating
      | .member m pc _ => (t.front.entries.any fun e => e.mask &&& m != 0 && e.repeating) ||
          t.front.waits.any fun w => w.pc = pc && w.repeating
      | .stuck => t.front.waits.any fun w => w.repeating
      | .unchanged => false
    { g with trap := none, front := (t.resumed skip).keep g.live,
             rep := if skip && repeats then 0 else t.rep }

/-! ### Running an instruction for the issuing entry -/

/-- What an instruction works on: the group's serial, the group, the slot, the lanes that act, and the lanes that
`$tmask` names where it is not the failing ones (R228). -/
structure Issue where
  gid : Nat
  grp : Group
  slot : Slot
  active : LaneMask
  blame : Option LaneMask

/-- Who issues: the group, and the lanes that act. -/
def Issue.issuer (i : Issue) : Issuer :=
  { group := i.gid, team := i.grp.team, pc := i.slot.pc, port := i.slot.port, mask := i.active, space := i.grp.space,
    grid := i.grp.grid }

/-- Runs a meaning for the issuing entry (R36, R192). -/
def withIssue (s : State) (gd : Guard) (k : Issue → Result) : Result :=
  match s.issue with
  | none => .fault .noIssuingEntry
  | some x =>
    match s.groups.lookup x.group with
    | none => .fault .noIssuingEntry
    | some g => k { gid := x.group, grp := g, slot := x, active := g.passing x.group gd x.mask, blame := none }

/-- The followers of the issuing instruction that issued before a trap return issued it again (R203). -/
def Issue.done (i : Issue) : Nat := ((i.grp.entryOf i.slot.mask).map (·.done)).getD 0

/-- The issuing entry's trap for lanes and an address; trap return finds the entry by its mask (R47, R230). -/
def Issue.trapOf (i : Issue) (c : Cause) (m : LaneMask) (addr : DWord) : Trap :=
  { cause := c, lanes := i.blame.getD m, addr := addr, pc := i.slot.pc, port := i.slot.port, followers := i.done,
    resume := .entry i.slot.mask i.slot.pc
      (match i.grp.entryOf i.slot.mask with
       | some e => e.following i.slot
       | none => i.slot.next) }

/-- The instruction raises a trap: none of its effects is performed (R47). A follower's trap waits for the long-latency
instruction it follows, whose own trap would come first (R203). -/
def State.raise (s : State) (i : Issue) (t : Trap) : State :=
  if i.grp.flights.any fun f => f.mask &&& i.slot.mask != 0 then
    s.onGroup i.gid fun g =>
      { g with flights := g.flights.map fun f => if f.mask &&& i.slot.mask != 0 then { f with left := 0 } else f }
  else s.takeTrap i.gid t

/-- The instruction traps for lanes and an address. -/
def State.trap (s : State) (i : Issue) (c : Cause) (m : LaneMask) (addr : DWord) : State := s.raise i (i.trapOf c m addr)

/-- The group after its registers are written, moved past the instruction. -/
def State.retire (s : State) (i : Issue) (f : Group → Group) : State :=
  s.onGroup i.gid fun g => (f g).advance i.slot

end Sys2Proof.Machine
end

