-- ==== Sys2Proof/Machine/Cache.lean ====
section
/-! DEFINITION. Physical addresses (01 R18 to R26), the caches and what lies behind them (09 R88 to R102, 17 R174,
R175), and the actions of release, acquire and maintenance on physical lines (11 R115 to R119, R132). -/

namespace Sys2Proof.Machine

/-! ### The physical map (R20, R21) -/

/-- Main DRAM: 384 regions of 1 GiB. -/
def inDram (pa : Nat) : Bool := decide (pa < 0x6000000000)
def inFlash (pa : Nat) : Bool := decide (0x400000000000 ≤ pa) && decide (pa < 0x440000000000)
def inHost (pa : Nat) : Bool := decide (0x800000000000 ≤ pa) && decide (pa < 0x1000000000000)

/-- The two holes of the map (R20). -/
def inHole (pa : Nat) : Bool := !inDram pa && !inFlash pa && !inHost pa

/-- The staging region: the last S regions of main DRAM (R174). -/
def State.inStaging (s : State) (pa : Nat) : Bool :=
  inDram pa && decide ((384 - s.stagingGib) * 0x40000000 ≤ pa)

/-- Reserved for accesses: the two holes and the staging region (R20, R21, R174). -/
def State.reserved (s : State) (pa : Nat) : Bool :=
  inHole pa || s.inStaging pa

/-- Whether the region of a main-DRAM address is bank-contiguous (R22). -/
def State.contiguous (s : State) (pa : Nat) : Bool := s.modes.getD (pa / 0x40000000 / 32) false

/-- The bank identifier of a main-DRAM address: stack [13:11], channel [10:6], bank [5:0] (R18, R23, R24). -/
def State.bankOf (s : State) (pa : Nat) : Nat :=
  if s.contiguous pa then pa / 0x40000000 % 32 * 512 + bits 29 21 pa
  else
    let q := bits 29 8 pa
    let h := Nat.xor (q % 2 ^ 14) (q / 2 ^ 14 * 64)
    h % 8 * 2048 + h / 8 % 32 * 64 + h / 256 % 64

/-- The bank offset of a main-DRAM address: set s occupies s × 2 MiB to s × 2 MiB + 0x1F_FFFF of every bank (R22);
hashed, the region's 64 KiB, the granule's row and its byte (R23); bank-contiguous, the frame's byte (R24). -/
def State.bankOffset (s : State) (pa : Nat) : Nat :=
  let set := pa / 0x40000000 / 32
  if s.contiguous pa then set * 0x200000 + bits 20 0 pa
  else set * 0x200000 + pa / 0x40000000 % 32 * 0x10000 + bits 21 14 (bits 29 8 pa) * 256 + bits 7 0 pa

/-- The memory stack of a main-DRAM address. -/
def State.stackOf (s : State) (pa : Nat) : Nat := s.bankOf pa / 2048

/-- XOR of the 40 low bits. -/
def parity (x : Nat) : Nat :=
  let x := Nat.xor x (x / 2 ^ 32)
  let x := Nat.xor x (x / 2 ^ 16)
  let x := Nat.xor x (x / 2 ^ 8)
  let x := Nat.xor x (x / 2 ^ 4)
  let x := Nat.xor x (x / 2 ^ 2)
  Nat.xor x (x / 2) % 2

/-- The masks M_0 to M_15 (R25). -/
def homeMasks : List Nat :=
  [0x1000400002, 0x2000800004, 0x4001000008, 0x8002000010, 0x0204000020, 0x0408000040, 0x0810000080, 0x0020000100,
   0x0040000200, 0x0080000400, 0x0100000800, 0x0000021000, 0x0000042000, 0x0000084000, 0x0000108000, 0x0000210000]

/-- H (R25): bit i is the parity of PA[47:8] AND M_i. -/
def homeHash (pa : Nat) : Nat :=
  homeMasks.foldr (fun m h => parity (Nat.land (pa / 256 % 2 ^ 40) m) + 2 * h) 0

/-- The slice that the hash names (R25). -/
def hashSlice (pa : Nat) : Nat := homeHash pa * 384 / 65536

/-- The home slice: slice n XOR 1 where the foreman has remapped slice n (R26). -/
def State.home (s : State) (pa : Nat) : Nat :=
  let n := hashSlice pa
  if s.remapped.contains n then Nat.xor n 1 else n

/-- Core identifier of a column: stack [8:7], mesh index [6:0] (R11, R18). -/
def coreId (column : Nat) : Nat := column / 96 * 128 + column % 96

/-- The compute stack of a column. -/
def computeStack (column : Nat) : Nat := column / 96

/-! ### Lines -/

/-- Bytes of `new` where the mask is set, of `old` elsewhere (R112). -/
def mergeBytes : Nat → List Byte → List Byte → List Byte
  | _, [], old => old
  | _, _ :: _, [] => []
  | m, n :: ns, o :: os => (if m % 2 = 1 then n else o) :: mergeBytes (m / 2) ns os

/-- The mask of `n` bytes from offset `o` of a line. -/
def byteMask (o n : Nat) : BitVec 128 := BitVec.ofNat 128 ((2 ^ n - 1) * 2 ^ o)

/-- A line image with bytes placed at an offset. -/
def placed (o : Nat) (bs : List Byte) : List Byte :=
  List.replicate o 0 ++ bs ++ List.replicate (128 - o - bs.length) 0

/-- The pieces of an access that lie in one line each: address and length. -/
def pieces (a n : Nat) : List (Nat × Nat) :=
  (List.range ((a % 128 + n + 127) / 128)).map fun k =>
    let lo := if k = 0 then a else a / 128 * 128 + 128 * k
    let hi := min (a + n) (a / 128 * 128 + 128 * (k + 1))
    (lo, hi - lo)

/-- The superblock of a tag. -/
def findSuper (ss : List Super) (tag : Nat) : Option Super := ss.find? fun x => x.tag = tag

/-- The line of an address in a list of superblocks. -/
def findLine (ss : List Super) (pa : Nat) : Option Line :=
  (findSuper ss (pa / 512)).bind fun x => x.lines.lookup (pa / 128 % 4)

/-- Sets a line of a superblock that is there, and makes the superblock the most recently used one (R88). -/
def putLine (ss : List Super) (pa : Nat) (l : Line) : List Super :=
  match findSuper ss (pa / 512) with
  | none => ss
  | some x => { x with lines := x.lines.put (pa / 128 % 4) l } :: ss.filter fun y => y.tag != pa / 512

/-- Rewrites or drops every line, with the address of the line. A superblock whose lines are all gone keeps its tag,
and so its way, until an eviction takes it (DESIGN CHOICE, log 10). -/
def mapLines (ss : List Super) (f : Nat → Line → Option Line) : List Super :=
  ss.map fun x => { x with lines := x.lines.filterMap fun p => (f (x.tag * 512 + p.1 * 128) p.2).map fun l => (p.1, l) }

/-- The dirty lines with their addresses. -/
def dirtyLines (ss : List Super) : List (Nat × Line) :=
  ss.flatMap fun x => (x.lines.filter fun p => p.2.dirty != 0).map fun p => (x.tag * 512 + p.1 * 128, p.2)

/-- A line once its dirty bytes are written outward; where only written bytes were valid none is left (R115, R116). -/
def Line.cleaned (l : Line) : Option Line := if l.full then some { l with dirty := 0 } else none

/-- What an invalidation leaves of a line: nothing of a clean one; of a dirty one the written bytes (R116). -/
def Line.invalidated (l : Line) : Option Line := if l.dirty = 0 then none else some { l with full := false }

/-- A column-cache line as the current stamp shows it (R97). -/
def Line.seen (stamp : BitVec 32) (l : Line) : Option Line :=
  if l.stable || l.stamp = stamp then some l else l.invalidated

/-- Whether a line holds the bytes of an access. -/
def Line.holds (l : Line) (o n : Nat) : Bool := l.full || l.dirty &&& byteMask o n == byteMask o n

/-- A line with bytes written (R112). -/
def Line.written (l : Line) (o : Nat) (bs : List Byte) : Line :=
  { l with dirty := l.dirty ||| byteMask o bs.length,
           data := mergeBytes (byteMask o bs.length).toNat (placed o bs) l.data }

/-- A line once the bytes of a newer copy above it have passed through it. -/
def Line.under (l : Line) (above : Option Line) : Line :=
  match above with
  | none => l
  | some w => { l with dirty := l.dirty ||| w.dirty, data := mergeBytes w.dirty.toNat w.data l.data }

/-- A line filled from the next level; its own written bytes stay (R116). -/
def Line.filled (old : Option Line) (data : List Byte) (stable : Bool) (stamp : BitVec 32) : Line :=
  match old with
  | none => { full := true, dirty := 0, stable := stable, stamp := stamp, data := data }
  | some l => { l with full := true, stable := stable, stamp := stamp, data := mergeBytes l.dirty.toNat l.data data }

/-! ### Behind level 2 -/

/-- Where a flash address lies in the physical flash: the stack's map of logical extents (R176; log 5). -/
def State.flashAddr (s : State) (pa : Nat) : Nat :=
  let e := (pa - 0x400000000000) / 0x200000
  let f := s.flash.at (e / 524288) Flash.initial
  (e / 524288 * 0x100000 + f.map.at (e % 524288) (e % 524288)) * 0x200000 + pa % 0x200000

/-- Reads at the level-2 home where it holds the line, otherwise behind it, filling nothing (R178). -/
def State.peekLine (s : State) (la : Nat) : List Byte :=
  let under := if inFlash la then s.flashMem.readBytes (s.flashAddr la) 128 else s.mem.readBytes la 128
  match findLine (s.slice (s.home la)).supers la with
  | some l => if l.full then l.data else mergeBytes l.dirty.toNat l.data under
  | none => under

/-- A read at the level-2 homes that allocates nothing. -/
def State.peek (s : State) (pa n : Nat) : List Byte :=
  (pieces pa n).flatMap fun p => ((s.peekLine (p.1 / 128 * 128)).drop (p.1 % 128)).take p.2

/-- The home atomic unit compares the value that a counter has now with the bound of each registered wait (R338). -/
def State.watch (s : State) : State :=
  let look (w : Watch) : Watch :=
    if w.met then w
    else
      let v := BitVec.ofNat 64 (leNat (s.peek w.pa 8))
      { w with last := v, met := decide (w.bound.toNat ≤ v.toNat) }
  { s with watches := s.watches.map look }

/-- The bank arrays and host memory hold bytes by physical address. -/
def State.bankWrite (s : State) (pa : Nat) (bs : List Byte) : State :=
  State.watch { s with mem := s.mem.writeBytes pa bs }

/-- Host memory that a link which is down does not reach (R343, R345). -/
def State.cutOff (s : State) (pa : Nat) : Bool := inHost pa && !s.link.up

/-- A line write-back merges only the masked bytes (R112). Those of a host-memory line that leaves a slice while the link
is down reach nothing (DESIGN CHOICE, log 47). -/
def State.bankMerge (s : State) (pa : Nat) (l : Line) : State :=
  if s.cutOff pa then s else s.bankWrite pa (mergeBytes l.dirty.toNat l.data (s.mem.readBytes pa 128))

/-- A flash read looks up its 64 KiB staging page, reading it in and replacing the least recently used one on a
miss (R175). -/
def State.stage (s : State) (pa : Nat) : State :=
  { s with staging := (pa / 65536 :: s.staging.filter fun p => p != pa / 65536).take (s.stagingGib * 16384) }

/-- The bytes behind level 2, with the staging page that a flash read brings in. -/
def State.pointRead (s : State) (pa n : Nat) : State × List Byte :=
  if inFlash pa then (s.stage pa, s.flashMem.readBytes (s.flashAddr pa) n) else (s, s.mem.readBytes pa n)

/-! ### Level 2 (R88 to R90, R100 to R102) -/

/-- The set of a superblock in a slice (R88): PA[19:9] XOR PA[30:20]. -/
def sliceSet (tag : Nat) : Nat := Nat.xor (tag % 2048) (tag / 2048 % 2048)

/-- A superblock leaves a slice: its dirty lines go to their banks (R88, R89). -/
def State.evictSuper (s : State) (n : Nat) (x : Super) : State :=
  let s := (dirtyLines [x]).foldl (fun s p => s.bankMerge p.1 p.2) s
  let sl := s.slice n
  (s.setSlice n { sl with supers := sl.supers.filter fun y => y.tag != x.tag }).watch

/-- Makes sure that a slice holds a superblock, most recently used: an empty way of the set (log 10), or the way of the
least recently used unpinned superblock (R88). -/
def State.sliceAlloc (s : State) (n tag : Nat) : State :=
  let sl := s.slice n
  match findSuper sl.supers tag with
  | some x => s.setSlice n { sl with supers := x :: sl.supers.filter fun y => y.tag != tag }
  | none =>
    let set := sliceSet tag
    let inSet := sl.supers.filter fun y => sliceSet y.tag = set
    let taken := inSet.map (·.way) ++ (sl.pins.filter fun p => p.set = set).map (·.way)
    let empty := (List.range sl.ways).filter fun w => !taken.contains w
    if empty.isEmpty then
      match (inSet.filter fun y => y.way < sl.ways).getLast? with
      | none => s
      | some v =>
        let s := s.evictSuper n v
        let sl := s.slice n
        s.setSlice n { sl with supers := { tag := tag, way := v.way, lines := [] } :: sl.supers }
    else
      let (s, k) := s.pick empty.length
      s.setSlice n { sl with supers := { tag := tag, way := empty.getD k 0, lines := [] } :: sl.supers }

/-- A line of host memory with the bytes written so far, and nothing filled from behind (R116, R345). -/
def Line.unfilled (old : Option Line) : Line :=
  old.getD { full := false, dirty := 0, stable := false, stamp := 0, data := List.replicate 128 0 }

/-- The line of an address in its home slice, filled where it misses (R88). A link that is down fills no line of host memory:
a line written back from above then holds the bytes written (R345; DESIGN CHOICE, log 47), and accesses that need others
have trapped before (`State.unreadable`). -/
def State.l2Line (s : State) (pa : Nat) : State × Line :=
  let la := pa / 128 * 128
  let n := s.home pa
  let s := s.sliceAlloc n (pa / 512)
  let old := findLine (s.slice n).supers pa
  match old.filter fun l => l.full with
  | some l => (s, l)
  | none =>
    let (s, l) :=
      if s.cutOff la then (s, Line.unfilled old)
      else
        let (s, data) := s.pointRead la 128
        (s, Line.filled old data false 0)
    (s.setSlice n { s.slice n with supers := putLine (s.slice n).supers pa l }, l)

/-- Replaces the line of an address in its home slice. -/
def State.setL2 (s : State) (pa : Nat) (l : Line) : State :=
  let n := s.home pa
  s.setSlice n { s.slice n with supers := putLine (s.slice n).supers pa l }

/-- Reads at the level-2 home. -/
def State.l2Read (s : State) (pa n : Nat) : State × List Byte :=
  (pieces pa n).foldl (fun (s, bs) (a, k) =>
    let (s, l) := s.l2Line a
    (s, bs ++ (l.data.drop (a % 128)).take k)) (s, [])

/-- Writes at the level-2 home: a miss fills the line, then the bytes merge (R89). -/
def State.l2Write (s : State) (pa : Nat) (bs : List Byte) : State :=
  (pieces pa bs.length).foldl (fun s (a, k) =>
    let (s, l) := s.l2Line a
    (s.setL2 a (l.written (a % 128) ((bs.drop (a - pa)).take k))).watch) s

/-- A write-back from above merges its masked bytes (R89, R112). -/
def State.l2Merge (s : State) (la : Nat) (w : Line) : State :=
  let (s, l) := s.l2Line la
  (s.setL2 la (l.under (some w))).watch

/-- A slice writes back or drops its lines: `clean` says which dirty lines are written to their banks, `drop` which
lines are then invalidated (R115, R116, R132). -/
def State.sweepSlice (s : State) (n : Nat) (clean drop : Nat → Bool) : State :=
  let s := ((dirtyLines (s.slice n).supers).filter fun p => clean p.1).foldl (fun s p => s.bankMerge p.1 p.2) s
  let sl := s.slice n
  let act (a : Nat) (l : Line) : Option Line :=
    (if clean a then l.cleaned else some l).bind fun l => if drop a then l.invalidated else some l
  (s.setSlice n { sl with supers := mapLines sl.supers act }).watch

/-- Every slice that holds anything does so. -/
def State.sweepSlices (s : State) (clean drop : Nat → Bool) : State :=
  (s.slices.map (·.1)).foldl (fun s n => s.sweepSlice n clean drop) s

/-- The release at `.sys` of an agent at level 2: every slice writes its dirty host-memory lines to the host (R53, R115,
R336); while the link is down they stay where they are (log 47). -/
def State.releaseHome (s : State) : State := if s.link.up then s.sweepSlices inHost (fun _ => false) else s

/-! ### The column cache (R88, R97 to R99) -/

/-- Makes sure that a core's column cache holds a superblock, most recently used; the victim's dirty lines go to their
homes (R88, R89). -/
def State.columnAlloc (s : State) (core tag : Nat) : State :=
  let c := s.core core
  match findSuper c.column tag with
  | some x => s.setCore core { c with column := x :: c.column.filter fun y => y.tag != tag }
  | none =>
    let inSet := c.column.filter fun y => y.tag % 65536 = tag % 65536
    let s :=
      if inSet.length < 8 then s
      else match inSet.getLast? with
        | none => s
        | some v =>
          let s := (dirtyLines [v]).foldl (fun s p => s.l2Merge p.1 p.2) s
          s.onCore core fun c => { c with column := c.column.filter fun y => y.tag != v.tag }
    s.onCore core fun c => { c with column := { tag := tag, way := 0, lines := [] } :: c.column }

/-- The line of an address in the column cache, filled from its home where it misses. -/
def State.columnLine (s : State) (core pa : Nat) (stable : Bool) : State × Line :=
  let c := s.core core
  let old := (findLine c.column pa).bind fun l => l.seen c.stamp
  match old with
  | some l =>
    if l.full then (s.columnAlloc core (pa / 512), l)
    else
      let (s, under) := s.l2Line (pa / 128 * 128)
      let s := s.columnAlloc core (pa / 512)
      let l := Line.filled (some l) under.data stable c.stamp
      (s.onCore core fun c => { c with column := putLine c.column pa l }, l)
  | none =>
    let (s, under) := s.l2Line (pa / 128 * 128)
    let s := s.columnAlloc core (pa / 512)
    let l := Line.filled none under.data stable c.stamp
    (s.onCore core fun c => { c with column := putLine c.column pa l }, l)

/-- A dirty L1 line goes to the column cache; a host-memory line skips it (R89, R90). -/
def State.columnMerge (s : State) (core la : Nat) (w : Line) : State :=
  if inHost la then s.l2Merge la w
  else
    let (s, l) := s.columnLine core la w.stable
    s.onCore core fun c => { c with column := putLine c.column la (l.under (some w)) }

/-! ### L1 (R88, R91) -/

/-- Bytes of scratchpad in a core's array: those of the resident team that declares some (R91). -/
def State.scratchSize (s : State) (core : Nat) : Nat :=
  match s.teams.find? fun p => p.2.core = core && p.2.saved.isNone && p.2.size != 0 with
  | some p => p.2.size
  | none => 0

/-- Makes sure that a core's L1 holds a superblock, most recently used. -/
def State.l1Alloc (s : State) (core tag : Nat) : State :=
  let c := s.core core
  match findSuper c.l1 tag with
  | some x => s.setCore core { c with l1 := x :: c.l1.filter fun y => y.tag != tag }
  | none =>
    let inSet := c.l1.filter fun y => y.tag % 64 = tag % 64
    let s :=
      if inSet.length < 16 - s.scratchSize core / 32768 then s
      else match inSet.getLast? with
        | none => s
        | some v =>
          let s := s.onCore core fun c => { c with l1 := c.l1.filter fun y => y.tag != v.tag }
          (dirtyLines [v]).foldl (fun s p => s.columnMerge core p.1 p.2) s
    s.onCore core fun c => { c with l1 := { tag := tag, way := 0, lines := [] } :: c.l1 }

/-- The line of an address in L1 with the bytes of an access valid, filled where it misses (R88, R90). -/
def State.l1Line (s : State) (core pa n : Nat) (stable : Bool) : State × Line :=
  let old := findLine (s.core core).l1 pa
  match old.filter fun l => l.holds (pa % 128) n with
  | some l => (s.l1Alloc core (pa / 512), l)
  | none =>
    let (s, under) := if inHost pa then s.l2Line (pa / 128 * 128) else s.columnLine core pa stable
    let s := s.l1Alloc core (pa / 512)
    let l := Line.filled old under.data stable 0
    (s.onCore core fun c => { c with l1 := putLine c.l1 pa l }, l)

/-- A cached read of bytes that lie in one line. -/
def State.coreRead (s : State) (core pa n : Nat) (stable : Bool) : State × List Byte :=
  let (s, l) := s.l1Line core pa n stable
  (s, (l.data.drop (pa % 128)).take n)

/-- A cached write of bytes that lie in one line: where the line does not hold them it is filled, then the bytes merge
(R89, R116). -/
def State.coreWrite (s : State) (core pa : Nat) (bs : List Byte) (stable : Bool) : State :=
  let (s, l) := s.l1Line core pa bs.length stable
  s.onCore core fun c => { c with l1 := putLine c.l1 pa (l.written (pa % 128) bs) }

/-- Before a scoped access or an atomic at a level-2 point, the core writes its dirty bytes of the line to the home
and drops its copies (R119, R269). -/
def State.flushLine (s : State) (core pa : Nat) : State :=
  let la := pa / 128 * 128
  let c := s.core core
  let without (ss : List Super) := mapLines ss fun a l => if a = la then none else some l
  let s := match findLine c.column pa with
    | some l => if l.dirty = 0 then s else s.l2Merge la l
    | none => s
  let s := match findLine c.l1 pa with
    | some l => if l.dirty = 0 then s else s.l2Merge la l
    | none => s
  s.onCore core fun c => { c with l1 := without c.l1, column := without c.column }

/-- The home slice cleans and invalidates one line (R119, R126). -/
def State.flushL2 (s : State) (pa : Nat) : State :=
  s.sweepSlice (s.home pa) (fun a => a = pa / 128 * 128) (fun a => a = pa / 128 * 128)

/-- A line behind level 2 that cannot be read: an uncorrectable error (R356; log 16), or host memory while the link is
down (R345). -/
def State.lineBad (s : State) (pa : Nat) : Bool := s.badLines.contains (pa / 128) || s.cutOff pa

/-- An access at the level-2 home would meet an error: in the home's own copy where it holds the whole line, otherwise
behind it (R345, R356; log 16). -/
def State.unreadable (s : State) (pa : Nat) : Bool :=
  match findLine (s.slice (s.home pa)).supers pa with
  | some l => s.flaws.contains (.slice (pa / 128)) || (!l.full && s.lineBad pa)
  | none => s.lineBad pa

/-- The same for a cached access of a core: each level answers for its own copy (R356). -/
def State.unreadableAt (s : State) (core pa n : Nat) : Bool :=
  let c := s.core core
  if (findLine c.l1 pa).any fun l => l.holds (pa % 128) n then s.flaws.contains (.l1 core (pa / 128))
  else if ((findLine c.column pa).bind fun l => l.seen c.stamp).any fun l => l.full then
    s.flaws.contains (.column core (pa / 128))
  else s.unreadable pa

/-! ### Release, acquire and maintenance of a core (R115, R116, R132) -/

/-- Cleans L1 lines into the column cache. -/
def State.cleanL1 (s : State) (core : Nat) (p : Nat → Bool) : State :=
  let ds := (dirtyLines (s.core core).l1).filter fun x => p x.1
  let s := s.onCore core fun c => { c with l1 := mapLines c.l1 fun a l => if p a then l.cleaned else some l }
  ds.foldl (fun s x => s.columnMerge core x.1 x.2) s

/-- Writes the masked bytes of the core's dirty lines in L1 and the column cache to their homes; L1's bytes pass through
the column cache where it holds the line, so that its copy is as new as what the core wrote (R90, R115, R123). -/
def State.cleanCore (s : State) (core : Nat) (p : Nat → Bool) : State :=
  let c := s.core core
  let col := (dirtyLines c.column).filter fun x => p x.1
  let top := (dirtyLines c.l1).filter fun x => p x.1
  let pass (a : Nat) (l : Line) : Option Line :=
    let above := top.lookup a
    if p a && (l.dirty != 0 || above.isSome) then
      (l.seen c.stamp).bind fun l => (l.under above).cleaned
    else some l
  let s := s.setCore core { c with
    l1 := mapLines c.l1 fun a l => if p a then l.cleaned else some l,
    column := mapLines c.column pass }
  (col ++ top).foldl (fun s x => s.l2Merge x.1 x.2) s

/-- Invalidates the core's copies of chosen lines, stable ones too; written bytes stay (R98, R116). -/
def State.dropCore (s : State) (core : Nat) (l1 column : Bool) (p : Nat → Bool) : State :=
  s.onCore core fun c =>
    let drop (a : Nat) (l : Line) : Option Line := if p a then l.invalidated else some l
    { c with l1 := if l1 then mapLines c.l1 drop else c.l1,
             column := if column then mapLines c.column drop else c.column }

/-- The full invalidation of an acquire: L1's lines and the stamp, stable lines survive; when the stamp wraps, every
clean line that is not stable goes first (R97, R98, R116). -/
def State.freshen (s : State) (core : Nat) : State :=
  s.onCore core fun c =>
    { c with
      l1 := mapLines c.l1 fun _ l => if l.stable then some l else l.invalidated,
      column := if c.stamp = 0xFFFFFFFF then
          mapLines c.column fun _ l => if l.stable then some l else l.invalidated
        else c.column,
      stamp := c.stamp + 1 }

/-- What a scope with its unit covers (R113, R114). -/
def State.covers (s : State) (scope unit pa : Nat) : Bool :=
  match scope with
  | 6 => inDram pa && decide (s.bankOf pa = unit)
  | 7 => inDram pa && decide (s.bankOf pa / 64 = unit)
  | 8 => inDram pa && decide (s.bankOf pa / 2048 = unit)
  | 9 => inDram pa
  | _ => true

/-- The full or ranged action of a release by a core's lanes or queues; `within` is the range (R115, R118). -/
def State.releaseAt (s : State) (core scope unit : Nat) (within : Nat → Bool) : State :=
  if scope < 3 then s
  else
    let p (a : Nat) : Bool := within a && s.covers scope unit a
    let s := s.cleanCore core p
    if scope = 5 then s.sweepSlices (fun a => inHost a && within a) (fun _ => false)
    else if 6 ≤ scope then s.sweepSlices p (fun _ => false)
    else s

/-- The action of an acquire; `range` is the range of the ranged form (R116, R118). -/
def State.acquireAt (s : State) (core scope unit : Nat) (range : Option (Nat → Bool)) : State :=
  if scope < 3 then s
  else
    let s := match range with
      | none => s.freshen core
      | some p => s.dropCore core true true fun a => p a && s.covers scope unit a
    let within (a : Nat) : Bool := match range with
      | none => true
      | some p => p a
    if scope = 5 then s.sweepSlices (fun _ => false) (fun a => inHost a && within a)
    else if 6 ≤ scope then
      s.sweepSlices (fun a => within a && s.covers scope unit a) (fun a => within a && s.covers scope unit a)
    else s

/-- Clean and invalidate by level: 1 `.l1`, 2 `.col`, 3 `.l2`, 4 `.bnk` (R132). An invalidate at `.l2` and `.bnk` cleans
dirty level-2 lines first. -/
def State.maintain (s : State) (core level : Nat) (clean inval : Bool) (p : Nat → Bool) : State :=
  let s := if clean then (if level = 1 then s.cleanL1 core p else s.cleanCore core p) else s
  let s := if inval then s.dropCore core true (2 ≤ level) p else s
  if 3 ≤ level then s.sweepSlices p (fun a => inval && p a) else s

/-! ### The way partition (R100 to R102) -/

/-- Surrender: ways 8 to 15 are written back and invalidated, the floor scratchpad holds zeros, `$ways` is 8 (R101). -/
def State.surrender (s : State) (n : Nat) : State :=
  let s := ((s.slice n).supers.filter fun x => 8 ≤ x.way).foldl (fun s x => s.evictSuper n x) s
  s.setSlice n { s.slice n with ways := 8, floor := [] }

/-- Return: the floor scratchpad is discarded, ways 8 to 15 become empty ways, `$ways` is 16 (R102). -/
def State.returnWays (s : State) (n : Nat) : State :=
  s.setSlice n { s.slice n with ways := 16, floor := [] }

end Sys2Proof.Machine
end

