-- ==== Sys2Proof/Machine/Translate.lean ====
section
/-! DEFINITION. Address translation (09 R104 to R109), the pages of a range (11 R118), and parking on a miss. -/

namespace Sys2Proof.Machine

/-- Bits [63:48] equal bit 47 (R104). -/
def canonical (va : DWord) : Bool := va == (va.setWidth 48).signExtend 64

/-- What an access does with the address (R107); `readOwn` is a private load or a refill of the return stack, which reads
and needs a writable page (R95). -/
inductive Access where
  | read | write | fetch | readOwn
deriving DecidableEq, Repr

/-- The code of an access in a miss record (R108). -/
def Access.code : Access → Nat
  | .read => 0 | .write => 1 | .fetch => 2 | .readOwn => 0

/-- How a translation ends (R107). -/
inductive Xl where
  | ok (pa : Nat) (stable bankContiguous : Bool)
  | miss
  | fault (c : Cause)
deriving DecidableEq, Repr

/-- How a walk of the tables ends; `unreadable` where a table lies in a line that cannot be read (R345, R356). -/
inductive Walk where
  | leaf (size entry : Nat)
  | invalid
  | malformed
  | unreadable
deriving DecidableEq, Repr

/-- The levels of the tables: shift of the index and its width (R104). -/
def levels : List (Nat × Nat) := [(39, 9), (30, 9), (21, 9), (16, 5)]

/-- PA[47:8] of an entry as an address (R106). -/
def entryAddr (e : Nat) : Nat := bits 47 8 e * 256

/-- An entry is malformed at a level (R106): a reserved bit, a leaf at level 0, a misaligned page or table, or
attributes on an entry that is no leaf. -/
def malformed (shift e : Nat) : Bool :=
  let leaf := shift = 16 || bits 1 1 e = 1
  bits 63 48 e != 0 || bits 7 7 e != 0 || (shift = 39 && bits 1 1 e = 1) ||
    (if leaf then entryAddr e % 2 ^ shift != 0
     else bits 6 2 e != 0 || entryAddr e % (if shift = 21 then 256 else 4096) != 0)

/-- A walk reads each entry at its level-2 home (R104, R106, R107). A table is read as any line, wherever its address
lies: the reserved ranges and flash are asked of the page only, and a hole reads as zeros, an entry with Valid clear
(DEDUCED, log 63). -/
def walkFrom (va : Nat) : List (Nat × Nat) → State → Nat → State × Walk
  | [], s, _ => (s, .malformed)
  | (shift, width) :: rest, s, table =>
    let at' := table + va / 2 ^ shift % 2 ^ width * 8
    if s.unreadable at' then (s, .unreadable)
    else
      let (s, bs) := s.l2Read at' 8
      let e := leNat bs
      if malformed shift e then (s, .malformed)
      else if bits 0 0 e = 0 then (s, .invalid)
      else if shift = 16 || bits 1 1 e = 1 then (s, .leaf shift e)
      else walkFrom va rest s (entryAddr e)

/-- Walks the tables of an address space and keeps a valid leaf in the core's translation cache, which drops an entry
of its choice (log 10) when it holds 4,096 (R109). -/
def State.walk (s : State) (core space va : Nat) : State × Walk :=
  match s.foreman.spaces.lookup space with
  | none => (s, .invalid)
  | some root =>
    match walkFrom va levels s root with
    | (s, .leaf size e) =>
      let t := (s.core core).tlb
      let (s, t) :=
        if t.length < 4096 then (s, t)
        else
          let (s, k) := s.pick 4096
          (s, t.take k ++ t.drop (k + 1))
      (s.onCore core fun c =>
        { c with tlb := { space := space, base := va / 2 ^ size * 2 ^ size, size := size, entry := e } :: t },
       .leaf size e)
    | r => r

/-- The outcome of an access through a valid leaf (R107, from its third row on; a page of a private range has to be
writable whatever the access, and a flash page is not, R95, R176). -/
def State.classify (s : State) (size e va : Nat) (acc : Access) : Xl :=
  let pa := entryAddr e + va % 2 ^ size
  let flash := bits 6 6 e = 1
  if s.reserved pa then .fault .protection
  else if flash != inFlash pa then .fault .protection
  else if acc = .write && flash then .fault .flashWrite
  else if acc = .write && bits 2 2 e = 0 then .fault .protection
  else if acc = .readOwn && (flash || bits 2 2 e = 0) then .fault .protection
  else if acc = .fetch && bits 3 3 e = 0 then .fault .protection
  else if bits 5 5 e = 1 && inDram pa && !s.contiguous pa then .fault .protection
  else .ok pa (bits 4 4 e = 1) (bits 5 5 e = 1)

/-- The translation cache's leaf for an address. -/
def Core.leafOf (c : Core) (space va : Nat) : Option Tlb :=
  c.tlb.find? fun t => t.space = space && t.base ≤ va && va < t.base + 2 ^ t.size

/-- Translates an address for an access of a core (R107 to R109). -/
def State.translate (s : State) (core space : Nat) (va : DWord) (acc : Access) : State × Xl :=
  if !canonical va then (s, .fault .xlateFault)
  else
    match (s.core core).leafOf space va.toNat with
    | some t => (s, s.classify t.size t.entry va.toNat acc)
    | none =>
      match s.walk core space va.toNat with
      | (s, .leaf size e) => (s, s.classify size e va.toNat acc)
      | (s, .invalid) => (s, .miss)
      | (s, .malformed) => (s, .fault .xlateFault)
      | (s, .unreadable) => (s, .fault .eccFatal)

/-- The 64 KiB pieces of a virtual range in whole lines, as pairs of first address and length. -/
def rangePieces (base len : DWord) : List (Nat × Nat) :=
  if len = 0 then []
  else
    let lo := base.toNat
    let hi := lo + len.toNat - 1
    (List.range (hi / 65536 - lo / 65536 + 1)).map fun k =>
      let page := (lo / 65536 + k) * 65536
      let a := max lo page / 128 * 128
      (a, min hi (page + 65535) / 128 * 128 - a + 128)

/-- Translates the pieces of a range in order, as an access would (R118, R274). -/
def State.rangeFound (s : State) (core space : Nat) (base len : DWord) : State × List ((Nat × Nat) × Xl) :=
  (rangePieces base len).foldl (fun (s, out) p =>
    let (s, x) := s.translate core space (BitVec.ofNat 64 p.1) .read
    (s, out ++ [(p, x)])) (s, [])

/-- The physical lines of the pieces that translate, as pairs of first address and length; the others are skipped: those
whose walk meets Valid clear (R118), and those that a malformed entry or another row of R107 refuses (DESIGN CHOICE,
log 83). -/
def foundLines (xs : List ((Nat × Nat) × Xl)) : List (Nat × Nat) :=
  xs.filterMap fun x => match x.2 with
    | .ok pa _ _ => some (pa, x.1.2)
    | _ => none

/-- The first piece of a range whose walk meets a table that cannot be read (R345, R356). -/
def foundLost (xs : List ((Nat × Nat) × Xl)) : Option DWord :=
  (xs.find? fun x => x.2 = .fault .eccFatal).map fun x => BitVec.ofNat 64 x.1.1

/-- Whether a line lies in a list of ranges. -/
def inRanges (rs : List (Nat × Nat)) (pa : Nat) : Bool := rs.any fun r => r.1 ≤ pa && pa < r.1 + r.2

/-- The last byte of a range breaks the address rule (R118). -/
def badRange (base len : DWord) : Bool := len != 0 && !canonical (base + len - 1)

/-- The miss that an entry waits for the answer of, with its address. -/
def Entry.missing (e : Entry) : List (Nat × Nat) :=
  match e.hold with
  | .xlate t va _ _ => [(t, va.toNat)]
  | _ => []

/-- The misses of an address space that a core waits for the host's answers to, with their addresses. -/
def State.misses (s : State) (core space : Nat) : List (Nat × Nat) :=
  let c := s.core core
  let of (p : Option (Nat × DWord)) : List (Nat × Nat) := p.toList.map fun q => (q.1, q.2.toNat)
  (s.groups.flatMap fun p =>
    if p.2.resident && p.2.core = core && p.2.space = space then
      let saved := match p.2.trap with
        | some t => t.front.entries
        | none => []
      (p.2.front.entries ++ saved).flatMap Entry.missing
    else []) ++
    (c.queue4.flatMap fun o => if o.issuers.any fun i => i.space = space then of o.parked else []) ++
    c.channels.flatMap fun p => if p.2.heads.head?.any fun h => h.issuer.space = space then of p.2.parked else []

/-- A restartable miss of a core: it shares the walk of one in the same 64 KiB page that the host has not answered yet,
or the foreman forwards a record of its own (R108, R109). -/
def State.miss (s : State) (core space : Nat) (id : BitVec 32) (va : DWord) (acc : Access) : State × Nat :=
  match (s.misses core space).find? fun m => m.2 / 65536 = va.toNat / 65536 with
  | some m => (s, m.1)
  | none =>
    let (s, t) := s.ticket
    (s.report (.miss t va id (coreId core) acc.code), t)

/-- The issuing entry parks on a restartable miss of some lanes (R108); of an instruction that acts once for its group, on
that of every lane that passed the guard (R228). -/
def State.parkMiss (s : State) (i : Issue) (lanes : LaneMask) (va : DWord) (acc : Access) : State :=
  let (s, t) := s.miss i.grp.core i.grp.space i.grp.gridId va acc
  s.onGroup i.gid fun g => g.onEntry i.slot.mask fun e =>
    { e with hold := .xlate t va (i.blame.getD lanes) i.slot.port, len := i.slot.words }

/-- The lanes of a list as a mask. -/
def maskOf (ls : List Nat) : LaneMask := ls.foldl (fun m l => m ||| laneBit l) 0

/-- A check of step 6 over the active lanes: traps with its cause where a lane fails it, `addr` for the lowest of them
(R230). -/
def checkLanes (s : State) (i : Issue) (c : Cause) (bad : Nat → Bool) (addr : Nat → DWord) (k : Unit → Result) : Result :=
  match (lanes i.active).filter bad with
  | [] => k ()
  | l :: r => .next (s.trap i c (maskOf (l :: r)) (addr l))

/-- A check that does not depend on the lane. -/
def checkEntry (s : State) (i : Issue) (c : Cause) (bad : Bool) (addr : DWord) (k : Unit → Result) : Result :=
  if bad then .next (s.trap i c i.active addr) else k ()

/-- One address of a lane to translate. -/
structure Want where
  lane : Nat
  va : DWord
  acc : Access
deriving DecidableEq, Repr

/-- What the lanes' addresses translate to, in order. -/
abbrev Found := List (Want × Xl)

/-- Translates the addresses of every lane in order. -/
def State.translateAll (s : State) (core space : Nat) (ws : List Want) : State × Found :=
  ws.foldl (fun (s, out) w =>
    let (s, x) := s.translate core space w.va w.acc
    (s, out ++ [(w, x)])) (s, [])

/-- The physical address of a translated address. -/
def Xl.pa : Xl → Nat
  | .ok pa _ _ => pa
  | _ => 0

/-- Whether the page of a translated address is stable. -/
def Xl.stable : Xl → Bool
  | .ok _ st _ => st
  | _ => false

/-- The translations that fail, with their causes: `lost` says whether because a table could not be read, which counts
only after every check of step 6 (R345), or because a row of R107 fails. -/
def Found.fails (f : Found) (lost : Bool) : List (Want × Cause) :=
  f.filterMap fun (w, x) => match x with
    | .fault c => if (c == .eccFatal) == lost then some (w, c) else none
    | _ => none

/-- The entry traps for failing translations: the cause of the lowest failing lane, every failing lane in `$tmask`, and
what the instruction names for that lane in `$taddr` (R230). -/
def checkFails (s : State) (i : Issue) (fails : List (Want × Cause)) (named : Want → DWord) (k : Unit → Result) : Result :=
  match fails with
  | [] => k ()
  | (w, c) :: _ => .next (s.trap i c (maskOf (fails.map (·.1.lane))) (named w))

/-- The translation check of step 6, of an instruction that names the virtual address (R230). -/
def checkFound (s : State) (i : Issue) (f : Found) (k : Unit → Result) : Result :=
  checkFails s i (f.fails false) (·.va) k

/-- The address of the first translation that misses. -/
def firstMiss (f : Found) : Option Want := (f.find? fun p => p.2 = .miss).map (·.1)

/-- The lanes of the misses in the 64 KiB page of an address: those that a Fail for it names (R108, R230). -/
def missLanes (f : Found) (va : DWord) : LaneMask :=
  maskOf ((f.filter fun p => p.2 = .miss && p.1.va.toNat / 65536 = va.toNat / 65536).map (·.1.lane))

/-- Whether every translation of a lane has given an address. -/
def Found.whole (f : Found) (lane : Nat) : Bool :=
  (f.filter fun q => q.1.lane = lane).all fun q => match q.2 with
    | .ok _ _ _ => true
    | _ => false

/-- Where some lane misses and none fails a check, the whole entry parks (R230); a table that could not be read traps
once nothing misses (R345). -/
def checkMiss (s : State) (i : Issue) (f : Found) (k : Unit → Result) : Result :=
  match firstMiss f with
  | some w => .next (s.parkMiss i (missLanes f w.va) w.va w.acc)
  | none => checkFails s i (f.fails true) (·.va) k

end Sys2Proof.Machine
end

