-- ==== Sys2Proof/Machine/Fetch.lean ====
section
/-! DEFINITION. Reading an instruction from the instruction cache and decoding it (19 R190, R208; 29 R333), and the
repeated instruction of a `rep` (R204, R205). -/

namespace Sys2Proof.Machine

/-- A line of the core's instruction cache (R39). -/
def Core.codeLine (c : Core) (space line : Nat) : Option (List Byte) :=
  (c.icache.find? fun l => l.space = space && l.line = line).map (·.data)

/-- What the instruction cache holds of the bytes wanted: their number, or the first address that misses. -/
inductive Fetched where
  | bytes (w : Nat)
  | missing (va : Nat)
deriving DecidableEq, Repr

/-- `n` bytes at an address, `n` at most 40. -/
def Core.codeBytes (c : Core) (space pc n : Nat) : Fetched :=
  match c.codeLine space (pc / 128) with
  | none => .missing pc
  | some d =>
    if pc % 128 + n ≤ 128 then .bytes (leNat ((d.drop (pc % 128)).take n))
    else
      match c.codeLine space (pc / 128 + 1) with
      | none => .missing ((pc / 128 + 1) * 128)
      | some d2 => .bytes (leNat (d.drop (pc % 128) ++ d2.take (pc % 128 + n - 128)))

/-- What stands at an address: nothing yet, the trap of R208, or an instruction with its length in words. -/
inductive Here where
  | missing (va : Nat)
  | bad (c : Cause)
  | instr (i : Instr) (words : Nat)
deriving DecidableEq, Repr

/-- The bits of the instruction at an address: its first word, then every word that its length names (R190, R208). -/
def Core.fetchBits (c : Core) (space pc : Nat) : Fetched :=
  match c.codeBytes space pc 4 with
  | .missing va => .missing va
  | .bytes w0 => c.codeBytes space pc (4 * wordsOf (w0 % 4))

/-- What bits decode to for a launch that declares `count` vector registers (R208). -/
def hereOf (count w : Nat) : Here :=
  match decodeBits w with
  | .illegalOp => .bad .illegalOp
  | .illegalField => .bad .illegalField
  | .ok i words => if i.fits count then .instr i words else .bad .illegalField

/-- Fetches every word of the instruction at an address and decodes it (R208). -/
def Core.decodeAt (c : Core) (space count pc : Nat) : Here :=
  match c.fetchBits space pc with
  | .missing va => .missing va
  | .bytes w => hereOf count w

/-- The words of the instruction at an address that a core has read the length bits of, otherwise one (R190; log 48). -/
def Core.lengthAt (c : Core) (space pc : Nat) : Nat :=
  match c.codeBytes space pc 4 with
  | .bytes w => wordsOf (w % 4)
  | .missing _ => 1

/-! ### Repeats (R204, R205) -/

end Sys2Proof.Machine

namespace Sys2Proof

/-- The registers a source steps by (R205). -/
def Opd.srcStep (o : Opd) : Src → Nat
  | .v _ => o.span
  | _ => o.uspan

/-- A source after `k` steps; none where it is no register or leaves the register file. -/
def Opd.stepSrc (o : Opd) (k : Nat) (s : Src) : Option Src :=
  if o.kinds = 0 then none
  else
    match s with
    | .v n => if n.toNat + k * o.span < 256 then some (.v (n + BitVec.ofNat 8 (k * o.span))) else none
    | .g n => if n.toNat + k * o.uspan < 64 then some (.g (n + BitVec.ofNat 8 (k * o.uspan))) else none
    | _ => none

/-- A destination after `k` steps. -/
def Opd.stepDst (o : Opd) (k : Nat) (d : Dst) : Option Dst :=
  let step := if d.uni then o.uspan else o.span
  if o.kinds = 0 then none
  else if d.n.toNat + k * step < (if d.uni then 64 else 256) then
    some { d with n := d.n + BitVec.ofNat 8 (k * step) }
  else none

/-- The operand fields after `k` steps of the fields that the step mask names: bit 0 for D to bit 3 for C (R205). -/
def Ext.stepped (e : Ext) (sh : Shape) (mask k : Nat) : Option Ext :=
  match (if mask.testBit 0 then sh.d.stepDst k e.d else some e.d),
        (if mask.testBit 1 then sh.a.stepSrc k e.a else some e.a),
        (if mask.testBit 2 then sh.b.stepSrc k e.b else some e.b),
        (if mask.testBit 3 then sh.c.stepSrc k e.c else some e.c) with
  | some d, some a, some b, some c => some { e with d := d, a := a, b := b, c := c }
  | _, _, _, _ => none

/-- The instruction of one opcode with other operand fields, for the formats that repeat: M, XA and XM (R204). -/
def Instr.withExt (i : Instr) (e : Ext) : Option Instr :=
  match i.form with
  | some (op, .m g wide _ _ lit) =>
    match e.a with
    | .v a => build op (.m g wide e.d.n a lit)
    | .g a => build op (.m g wide e.d.n a lit)
    | _ => build op (.m g wide e.d.n 0 lit)
  | some (op, .xa x) => build op (.xa { x with toExt := e })
  | some (op, .xm x) => build op (.xm { x with toExt := e })
  | _ => none

/-- The repeated instruction after `k` steps (R205); none where R204 refuses it. -/
def Instr.repeated (i : Instr) (count mask k : Nat) : Option Instr :=
  match i.ext with
  | none => none
  | some e =>
    if e.la ≠ 0 then none
    else
      match (e.stepped i.shape mask k).bind i.withExt with
      | some j => if j.wellFormed && j.fits count then some j else none
      | none => none

end Sys2Proof

namespace Sys2Proof.Machine

/-- Whether a repeat state may run over an instruction: the first and the last repeat are instructions (R204). -/
def mayRepeat (i : Instr) (count : Nat) (rep : BitVec 16) : Bool :=
  (i.repeated count (repSteps rep) 0).isSome && (i.repeated count (repSteps rep) (repLast rep)).isSome

/-- The `$rep` of a `rep` that starts: step mask, n - 1, nothing completed (R205). -/
def repStart (steps : BitVec 4) (count : BitVec 6) : BitVec 16 := steps ++ count ++ (0 : BitVec 6)

/-- What stands behind the issuing instruction, as it was fetched with it (R204, R333). -/
def State.follower (s : State) (i : Issue) : Here :=
  match i.slot.behind with
  | some w => hereOf i.grp.count w
  | none => (s.core i.grp.core).decodeAt i.grp.space i.grp.count i.slot.next.toNat

/-- Whether the instruction after the issuing one may be repeated (R204, R208). -/
def State.nextRepeats (s : State) (i : Issue) (rep : BitVec 16) : Bool :=
  match s.follower i with
  | .instr j _ => mayRepeat j i.grp.count rep
  | _ => false

/-! ### What stands at an entry (R204, R205, R208) -/

/-- What a core sees at an entry: an instruction, the trap of R208, or a byte that its instruction cache lacks. A `rep` is
checked with the instruction behind it, which has to be there too (R204). -/
def State.look (s : State) (g : Group) (e : Entry) : Here :=
  let c := s.core g.core
  match c.decodeAt g.space g.count e.pc.toNat with
  | .instr (.rep q n) w => match c.decodeAt g.space g.count (e.pc + 4).toNat with
    | .missing va => .missing va
    | _ => .instr (.rep q n) w
  | x => x

/-- The instruction that an entry executes: for a repeating one, as the repeats so far have stepped it (R205). -/
def Entry.current (g : Group) (e : Entry) (i : Instr) : Instr :=
  if e.repeating then (i.repeated g.count (repSteps g.rep) (repDone g.rep)).getD i else i

/-! ### Lookahead windows (R34, R202) -/

/-- The registers that a source takes: uniform or not, first, how many. -/
def Opd.registers (o : Opd) (x : Src) : List (Bool × Nat × Nat) :=
  if o.kinds = 0 then []
  else match x with
    | .v n => [(false, n.toNat, o.span)]
    | .g n => [(true, n.toNat, o.uspan)]
    | _ => []

/-- The registers that an instruction names. -/
def Instr.registers (i : Instr) : List (Bool × Nat × Nat) :=
  match i.ext with
  | none => []
  | some e =>
    let d := i.shape.d
    (if d.kinds = 0 then [] else [(e.d.uni, e.d.n.toNat, if e.d.uni then d.uspan else d.span)]) ++
      Opd.registers i.shape.a e.a ++ Opd.registers i.shape.b e.b ++ Opd.registers i.shape.c e.c

/-- Two runs of registers meet. -/
def registersMeet (x y : Bool × Nat × Nat) : Bool := x.1 = y.1 && x.2.1 < y.2.1 + y.2.2 && y.2.1 < x.2.1 + x.2.2

/-- An instruction at which a lookahead window closes (R202, R327, R333). -/
def Instr.closes : Instr → Bool
  | .bra _ | .brx _ | .call _ | .callx _ | .ret _ _ | .join _ | .exit _ | .bnz _ | .bz _ => true
  | .rep _ _ | .bar _ | .rel _ | .acq _ | .fence _ | .qfence _ | .nfence _ | .mcall _ => true
  | .waitdep _ | .trigger _ | .icinv _ | .tret _ | .tretSkip _ => true
  | _ => false

/-- An open lookahead window lets an instruction of the entry issue (R202). -/
def Group.lets (g : Group) (e : Entry) (i : Instr) : Bool :=
  g.flights.all fun f =>
    f.mask &&& e.mask = 0 ||
      (f.left != 0 && !Instr.closes i && !f.writes.any fun w => (Instr.registers i).any fun r => registersMeet w r)

/-- An instruction at which lanes stay behind after it has issued: a group-wide operation (R46), or a wait at the
instruction (R161, R319, R325, R331, R338). -/
def Instr.lingers : Instr → Bool
  | .vote _ | .redx _ | .scan _ | .perm _ | .push _ | .compress _ | .rdlane _ | .lrot _ => true
  | .hwait _ | .ccwait _ | .launch _ | .setways _ | .mma _ => true
  | _ => false

/-- Window messages of an entry on their way keep it from issuing: two of them anything, one of them an instruction at
which lanes linger, so that a refusal of the first finds every lane of its instruction in an entry with no follower under
way but its last (R203; DESIGN CHOICE, log 87: lookahead changes only when followers issue, R202). -/
def State.windowsWait (s : State) (g : Group) (e : Entry) (h : Here) : Bool :=
  let sent := ((s.core g.core).queue6.filter fun m => g.flights.any fun f =>
    f.ticket = m.ticket && f.mask &&& e.mask != 0).length
  2 ≤ sent || (sent != 0 && match h with
    | .instr i _ => Instr.lingers i
    | _ => false)

/-- An entry may not issue its next instruction because an earlier long-latency one has not completed (R34, R202). -/
def State.heldBack (s : State) (g : Group) (e : Entry) : Bool :=
  let h := s.look g e
  g.busy e || s.windowsWait g e h || match h with
    | .instr i _ => !g.lets e (e.current g i)
    | _ => false

end Sys2Proof.Machine
end

