-- ==== Sys2Proof/Machine/Float.lean ====
section
/-! DEFINITION. The floating formats and their arithmetic (07 R71 to R80, R85, R87): values are exact dyadic numbers,
rounded once at the end. -/

namespace Sys2Proof.Machine

/-- A floating format (R71): exponent width, fraction width, whether it has infinities. -/
structure Flt where
  e : Nat
  m : Nat
  inf : Bool
deriving DecidableEq, Repr

def Flt.f32 : Flt := { e := 8, m := 23, inf := true }
def Flt.f16 : Flt := { e := 5, m := 10, inf := true }
def Flt.bf16 : Flt := { e := 8, m := 7, inf := true }
def Flt.e4m3 : Flt := { e := 4, m := 3, inf := false }
def Flt.e5m2 : Flt := { e := 5, m := 2, inf := true }

end Sys2Proof.Machine

namespace Sys2Proof

/-- The floating format of a type; FP32 for the types that have none. -/
def Ty.flt : Ty → Machine.Flt
  | .f16 => .f16 | .bf16 => .bf16 | .e4m3 => .e4m3 | .e5m2 => .e5m2
  | _ => .f32

/-- The bounds of an integer type (R68); raw 32 bits count as unsigned. -/
def Ty.minInt (t : Ty) : Int := if t.signed then -(2 ^ (t.bits - 1) : Int) else 0
def Ty.maxInt (t : Ty) : Int := if t.signed then 2 ^ (t.bits - 1) - 1 else 2 ^ t.bits - 1

/-- The low bits of an integer as an encoding of a type (R70). -/
def Ty.wrap (t : Ty) (x : Int) : Nat := (x % (2 ^ t.bits : Int)).toNat

/-- The nearest value of the range (R238). -/
def Ty.clamp (t : Ty) (x : Int) : Int := max t.minInt (min t.maxInt x)

/-- The integer that an encoding of an integer type holds (R68). -/
def Ty.toInt (t : Ty) (x : Nat) : Int :=
  if t.signed && decide (2 ^ (t.bits - 1) ≤ x % 2 ^ t.bits) then (x % 2 ^ t.bits : Nat) - (2 ^ t.bits : Int)
  else (x % 2 ^ t.bits : Nat)

end Sys2Proof

namespace Sys2Proof.Machine

/-- What an encoding stands for (R72): NaN, an infinity, or ±mag × 2^exp. -/
inductive Val where
  | nan
  | inf (neg : Bool)
  | fin (neg : Bool) (mag : Nat) (exp : Int)
deriving DecidableEq, Repr

def Flt.bias (f : Flt) : Nat := 2 ^ (f.e - 1) - 1

/-- The exponent of the smallest subnormal. -/
def Flt.low (f : Flt) : Int := 1 - (f.bias : Int) - (f.m : Int)

/-- The first magnitude encoding that is no finite number (R72). -/
def Flt.limit (f : Flt) : Nat := if f.inf then (2 ^ f.e - 1) * 2 ^ f.m else 2 ^ (f.e + f.m) - 1

/-- The default NaN (R74). -/
def Flt.nan (f : Flt) : Nat := if f.inf then f.limit + 2 ^ (f.m - 1) else f.limit

/-- The value of an encoding (R72). -/
def Flt.value (f : Flt) (x : Nat) : Val :=
  let mag := x % 2 ^ (f.e + f.m)
  let neg := x / 2 ^ (f.e + f.m) % 2 = 1
  if f.limit ≤ mag then (if f.inf && mag = f.limit then .inf neg else .nan)
  else if mag < 2 ^ f.m then .fin neg mag f.low
  else .fin neg (mag % 2 ^ f.m + 2 ^ f.m) (f.low + ((mag / 2 ^ f.m : Nat) : Int) - 1)

/-- The sign bit of an encoding. -/
def Flt.signBit (f : Flt) (neg : Bool) : Nat := if neg then 2 ^ (f.e + f.m) else 0

/-- `mag / 2^d` rounded to nearest; `sticky` says that the true value is a little larger; ties go away from zero or to
even (R76, R78). -/
def roundShift (mag d : Nat) (sticky away : Bool) : Nat :=
  if d = 0 then mag
  else
    let q := mag / 2 ^ d
    let r := mag % 2 ^ d
    let h := 2 ^ (d - 1)
    if r < h then q
    else if h < r || sticky || away then q + 1
    else q + q % 2

/-- The magnitude encoding of mag × 2^exp rounded to a format with no upper exponent limit. -/
def Flt.roundMag (f : Flt) (mag : Nat) (exp : Int) (sticky away : Bool) : Nat :=
  if mag = 0 then 0
  else
    let unit := max ((Nat.log2 mag : Int) + exp - (f.m : Int)) f.low
    let q := if unit ≤ exp then mag * 2 ^ (exp - unit).toNat else roundShift mag (unit - exp).toNat sticky away
    (unit - f.low).toNat * 2 ^ f.m + q

/-- Rounds a value to a format. A magnitude beyond the largest finite one gives infinity, or the largest finite value
where `sat` says so; so does an infinity (R76, R79). -/
def Flt.encode (f : Flt) (away sat : Bool) (v : Val) (sticky : Bool := false) : Nat :=
  match v with
  | .nan => f.nan
  | .inf neg => f.signBit neg + (if sat || !f.inf then f.limit - 1 else f.limit)
  | .fin neg mag exp =>
    let r := f.roundMag mag exp sticky away
    f.signBit neg + (if r < f.limit then r else if sat || !f.inf then f.limit - 1 else f.limit)

/-- Nearest, ties to even, overflow to infinity (R76). -/
def Flt.rn (f : Flt) (v : Val) (sticky : Bool := false) : Nat := f.encode false false v sticky

/-- The signed mantissa of a finite value. -/
def signed (neg : Bool) (mag : Nat) : Int := if neg then -(mag : Int) else mag

/-- A finite value from a signed mantissa; zero is +0. -/
def Val.ofInt (x : Int) (exp : Int) : Val := .fin (decide (x < 0)) x.natAbs exp

def Val.neg : Val → Val
  | .nan => .nan
  | .inf n => .inf !n
  | .fin n m e => .fin (!n) m e

def Val.abs : Val → Val
  | .nan => .nan
  | .inf _ => .inf false
  | .fin _ m e => .fin false m e

def Val.isNeg : Val → Bool
  | .nan => false
  | .inf n => n
  | .fin n _ _ => n

/-- The exact sum (R76): an exact zero of operands of opposite sign is +0. -/
def Val.add : Val → Val → Val
  | .nan, _ => .nan
  | _, .nan => .nan
  | .inf a, .inf b => if a = b then .inf a else .nan
  | .inf a, .fin _ _ _ => .inf a
  | .fin _ _ _, .inf b => .inf b
  | .fin na ma ea, .fin nb mb eb =>
    let e := min ea eb
    let x := signed na (ma * 2 ^ (ea - e).toNat) + signed nb (mb * 2 ^ (eb - e).toNat)
    if x = 0 then .fin (na && nb) 0 e else Val.ofInt x e

/-- The exact product (R76): zero times infinity is NaN. -/
def Val.mul : Val → Val → Val
  | .nan, _ => .nan
  | _, .nan => .nan
  | .inf a, .inf b => .inf (a != b)
  | .inf a, .fin n m _ => if m = 0 then .nan else .inf (a != n)
  | .fin n m _, .inf b => if m = 0 then .nan else .inf (n != b)
  | .fin na ma ea, .fin nb mb eb => .fin (na != nb) (ma * mb) (ea + eb)

/-- The exact sum of a list of terms (R85): −0 only when every term is −0. -/
def exactSum (vs : List Val) : Val :=
  match vs with
  | [] => .fin false 0 0
  | v :: r => r.foldl Val.add v

/-- A quotient with 80 bits or more, and whether it is inexact (R245). -/
def Val.div : Val → Val → Val × Bool
  | .nan, _ => (.nan, false)
  | _, .nan => (.nan, false)
  | .inf _, .inf _ => (.nan, false)
  | .inf a, .fin n _ _ => (.inf (a != n), false)
  | .fin n _ _, .inf b => (.fin (n != b) 0 0, false)
  | .fin na ma ea, .fin nb mb eb =>
    if mb = 0 then (if ma = 0 then .nan else .inf (na != nb), false)
    else
      let k := 80 + Nat.log2 mb
      (.fin (na != nb) (ma * 2 ^ k / mb) (ea - eb - (k : Int)), decide (ma * 2 ^ k % mb ≠ 0))

/-- The largest r with r² ≤ n, bit by bit from bit k - 1. -/
def isqrt (n : Nat) : Nat → Nat → Nat
  | 0, r => r
  | k + 1, r => isqrt n k (if (r + 2 ^ k) * (r + 2 ^ k) ≤ n then r + 2 ^ k else r)

/-- A square root with 40 bits or more, and whether it is inexact (R245): √−0 = −0. -/
def Val.sqrt : Val → Val × Bool
  | .nan => (.nan, false)
  | .inf n => (if n then .nan else .inf false, false)
  | .fin n m e =>
    if m = 0 then (.fin n 0 e, false)
    else if n then (.nan, false)
    else
      let t := m * 2 ^ (80 + (e % 2).toNat)
      let r := isqrt t 64 0
      (.fin false r ((e - e % 2 - 80) / 2), decide (r * r ≠ t))

/-- 1 / √a with 35 bits or more (R245): ±0 gives ±∞, +∞ gives +0. -/
def Val.rsqrt : Val → Val × Bool
  | .nan => (.nan, false)
  | .inf n => (if n then .nan else .fin false 0 0, false)
  | .fin n m e =>
    if m = 0 then (.inf n, false)
    else if n then (.nan, false)
    else
      let m2 := m * 2 ^ (e % 2).toNat
      let r := isqrt (2 ^ 120 / m2) 64 0
      (.fin false r (-60 - (e - e % 2) / 2), decide (r * r * m2 ≠ 2 ^ 120))

/-- The arithmetic of R76 on encodings, rounded once. -/
def Flt.add (f : Flt) (a b : Nat) : Nat := f.rn ((f.value a).add (f.value b))
def Flt.sub (f : Flt) (a b : Nat) : Nat := f.rn ((f.value a).add (f.value b).neg)
def Flt.mul (f : Flt) (a b : Nat) : Nat := f.rn ((f.value a).mul (f.value b))
def Flt.fma (f : Flt) (a b c : Nat) : Nat := f.rn (((f.value a).mul (f.value b)).add (f.value c))
def Flt.div (f : Flt) (a b : Nat) : Nat :=
  let (v, st) := (f.value a).div (f.value b)
  f.rn v st
def Flt.sqrt (f : Flt) (a : Nat) : Nat :=
  let (v, st) := (f.value a).sqrt
  f.rn v st
def Flt.rcp (f : Flt) (a : Nat) : Nat :=
  let (v, st) := (Val.fin false 1 0).div (f.value a)
  f.rn v st
def Flt.rsqrt (f : Flt) (a : Nat) : Nat :=
  let (v, st) := (f.value a).rsqrt
  f.rn v st

/-- |a| and −a, exact but for NaN (R245). -/
def Flt.abs (f : Flt) (a : Nat) : Nat := if f.value a = .nan then f.nan else a % 2 ^ (f.e + f.m)
def Flt.neg (f : Flt) (a : Nat) : Nat :=
  if f.value a = .nan then f.nan else a % 2 ^ (f.e + f.m) + f.signBit (!(f.value a).isNeg)

/-- The order of two values that are no NaN, −0 and +0 equal (R77). -/
def Val.lt : Val → Val → Bool
  | .nan, _ => false
  | _, .nan => false
  | .inf a, .inf b => a && !b
  | .inf a, .fin _ _ _ => a
  | .fin _ _ _, .inf b => !b
  | .fin na ma ea, .fin nb mb eb =>
    let e := min ea eb
    decide (signed na (ma * 2 ^ (ea - e).toNat) < signed nb (mb * 2 ^ (eb - e).toNat))

def Val.eq (a b : Val) : Bool := a != .nan && b != .nan && !a.lt b && !b.lt a

/-- Minimum: a NaN yields to the other operand, −0 orders below +0 (R76). -/
def Flt.min (f : Flt) (a b : Nat) : Nat :=
  match f.value a, f.value b with
  | .nan, .nan => f.nan
  | .nan, _ => b
  | _, .nan => a
  | va, vb => if va.lt vb then a else if vb.lt va then b else if va.isNeg then a else b

/-- Maximum (R76). -/
def Flt.max (f : Flt) (a b : Nat) : Nat :=
  match f.value a, f.value b with
  | .nan, .nan => f.nan
  | .nan, _ => b
  | _, .nan => a
  | va, vb => if va.lt vb then b else if vb.lt va then a else if va.isNeg then b else a

/-- mag × 2^exp as an integer: 0 nearest even, 1 toward zero, 2 toward −∞, 3 toward +∞, 4 nearest away (R246). -/
def roundInt (mode : Nat) (neg : Bool) (mag : Nat) (exp : Int) : Int :=
  if 0 ≤ exp then signed neg (mag * 2 ^ exp.toNat)
  else
    let d := (-exp).toNat
    let q := mag / 2 ^ d
    let up := q + (if mag % 2 ^ d = 0 then 0 else 1)
    signed neg <| match mode with
      | 0 => roundShift mag d false false
      | 1 => q
      | 2 => if neg then up else q
      | 3 => if neg then q else up
      | _ => roundShift mag d false true

/-- `frnd` (R246): zero keeps the sign of a. -/
def Flt.round (f : Flt) (mode a : Nat) : Nat :=
  match f.value a with
  | .nan => f.nan
  | .inf _ => a
  | .fin n m e => f.rn (.fin n (roundInt mode n m e).natAbs 0)

/-- The class of an encoding as a bit of the `fclass` mask, NaN as bit 8 (R246). -/
def Flt.classOf (f : Flt) (a : Nat) : Nat :=
  match f.value a with
  | .nan => 8
  | .inf n => if n then 0 else 7
  | .fin n m _ =>
    let k := if m = 0 then 0 else if m < 2 ^ f.m then 1 else 2
    if n then 3 - k else 4 + k

/-! ### Conversions (R78 to R80, R249) -/

/-- Whether a destination breaks ties away from zero (R78). -/
def tiesAway (t : Ty) : Bool := t.bits = 8

/-- The value of an encoding of any type. -/
def valueOf (t : Ty) (x : Nat) : Val :=
  if t.floating then t.flt.value x else Val.ofInt (t.toInt x) 0

/-- A value converted to a type (R78 to R80): `rz` rounds to an integer toward zero, `toInf` lets E5M2 overflow to
infinity. -/
def convertVal (t : Ty) (rz toInf : Bool) (v : Val) : Nat :=
  if t.floating then
    t.flt.encode (tiesAway t) ((t = .e4m3 || t = .e5m2) && !toInf) v
  else
    match v with
    | .nan => 0
    | .inf n => t.wrap (if n then t.minInt else t.maxInt)
    | .fin n m e => t.wrap (t.clamp (roundInt (if rz then 1 else if tiesAway t then 4 else 0) n m e))

/-- `cvt` (R249): where the types are equal the value passes unchanged, but for NaN. -/
def convert (t from' : Ty) (rz toInf : Bool) (x : Nat) : Nat :=
  if t = from' then (if t.floating && t.flt.value x = .nan then t.flt.nan else x % 2 ^ t.bits)
  else convertVal t rz toInf (valueOf from' x)

/-- The encoding of a small integer in a type (R195). -/
def immediate (t : Ty) (x : BitVec 8) : Nat :=
  if t.floating then t.flt.rn (Val.ofInt x.toInt 0) else t.wrap x.toInt

/-! ### FP32 steps of the units (R87) -/

def fadd (a b : Word) : Word := BitVec.ofNat 32 (Flt.f32.add a.toNat b.toNat)
def fmul (a b : Word) : Word := BitVec.ofNat 32 (Flt.f32.mul a.toNat b.toNat)
def ffma (a b c : Word) : Word := BitVec.ofNat 32 (Flt.f32.fma a.toNat b.toNat c.toNat)
def fdiv (a b : Word) : Word := BitVec.ofNat 32 (Flt.f32.div a.toNat b.toNat)
def fmin (a b : Word) : Word := BitVec.ofNat 32 (Flt.f32.min a.toNat b.toNat)
def fmax (a b : Word) : Word := BitVec.ofNat 32 (Flt.f32.max a.toNat b.toNat)

end Sys2Proof.Machine
end

