-- ==== Sys2Proof/Machine/Operands.lean ====
section
/-! DEFINITION. Operand forms (19 R195, R196; 07 R69): reading a source by its kind and type, writing a result with
the extension of its type, and running an instruction lane by lane or once for its group (21 R227, R228). -/

namespace Sys2Proof.Machine

/-- The bits of a source read as a type: low bits of a register, a pair for 64 bits, the literal's low bits, the small
immediate as an integer of the type or the exact floating value (R69, R195, R196). -/
def Issue.raw (i : Issue) (t : Ty) (lane : Nat) (x : Src) : Nat :=
  match x with
  | .v n =>
    if t.bits = 64 then (i.grp.vpair i.gid lane n.toNat).toNat
    else (i.grp.vreg i.gid lane n.toNat).toNat % 2 ^ t.bits
  | .g n => (i.grp.ureg i.gid n.toNat).toNat % 2 ^ t.bits
  | .lit x => x.toNat % 2 ^ t.bits
  | .imm x => immediate t x

/-- A source as an integer of its type. -/
def Issue.int (i : Issue) (t : Ty) (lane : Nat) (x : Src) : Int := t.toInt (i.raw t lane x)

/-- A source of kind 1 to 3 read as `.n64` (R302). -/
def Issue.scalar (i : Issue) (x : Src) : Nat := i.raw .n64 0 x

/-- A uniform register named by a field. -/
def Issue.uni (i : Issue) (x : Src) : DWord := BitVec.ofNat 64 (i.raw .n64 0 x)

/-- Sign-extended for signed integers, zero-extended otherwise (R69); a `.b32` result, which R69 does not name, is
zero-extended in a uniform register (DESIGN CHOICE, log 81). -/
def extend (w : Nat) (t : Ty) (r : Nat) : BitVec w :=
  if t.signed then BitVec.ofInt w (t.toInt r) else BitVec.ofNat w (r % 2 ^ t.bits)

/-- Writes a result of a type to a lane's register or pair (R69). -/
def Group.write (g : Group) (t : Ty) (lane n r : Nat) : Group :=
  if t.bits = 64 then g.setPair lane n (BitVec.ofNat 64 r) else g.setV lane n (extend 32 t r)

/-- Writes a result of a type to a uniform register (R69). -/
def Group.writeU (g : Group) (t : Ty) (n r : Nat) : Group := g.setU n (extend 64 t r)

/-- Writes the lanes of a mask. -/
def Group.writeLanes (g : Group) (m : LaneMask) (t : Ty) (n : Nat) (f : Nat → Nat) : Group :=
  (lanes m).foldl (fun g l => g.write t l n (f l)) g

/-- Every active lane writes `f` of its operands to D. -/
def laneWrite (s : State) (e : Ext) (t : Ty) (f : Issue → Nat → Nat) : Result :=
  withIssue s e.g fun i => .next (s.retire i fun g => g.writeLanes i.active t e.d.n.toNat (f i))

/-- The group writes uniform register D once when a lane is active (R192, R228). -/
def uniWrite (s : State) (e : Ext) (t : Ty) (f : Issue → Nat → Nat) : Result :=
  withIssue s e.g fun i =>
    .next (s.retire i fun g => if i.active = 0 then g else g.writeU t e.d.n.toNat (f i 0))

/-- A predicate named by Q[3:0], inverted by Q[4]; 15 reads as true in every lane (R236, R237, R241). -/
def Issue.predQ (i : Issue) (q : BitVec 8) : LaneMask :=
  let k := (q &&& 15).toNat
  let p := if k = 15 then BitVec.allOnes 64 else i.grp.pred i.gid k
  if q.getLsbD 4 then ~~~p else p

/-- A lane's global address: opA as 64 bits plus D16, modulo 2^64 (R260). -/
def Issue.address (i : Issue) (x : XM) (lane : Nat) : DWord :=
  BitVec.ofNat 64 (i.raw .n64 lane x.a) + x.disp.signExtend 64

/-- An offset or word index: opA[31:0] unsigned plus D16, formed without wrapping (R260). -/
def Issue.offset (i : Issue) (x : XM) (lane : Nat) : Int := (i.raw .n32 lane x.a : Nat) + x.disp.toInt

/-- Reads several sources of one type for a lane. -/
def Issue.raws (i : Issue) (t : Ty) (lane : Nat) (xs : List Src) : List Nat := xs.map (i.raw t lane)

end Sys2Proof.Machine
end

