-- ==== Sys2Proof/Machine/Flags.lean ====
section
/-! DEFINITION. Conditions and predicates (07 R77; 19 R193; 21 R229, R235, R239, R246). The machine has no status
flags: a comparison writes a predicate, p0 to p11, one bit a lane. -/

namespace Sys2Proof.Machine

/-- Condition codes 0 to 5 on integers (R239). -/
def condInt (k : Nat) (a b : Int) : Bool :=
  match k with
  | 0 => a = b
  | 1 => a ≠ b
  | 2 => a < b
  | 3 => a ≤ b
  | 4 => b < a
  | _ => b ≤ a

/-- Condition codes 0 to 5 on floating values: with a NaN every one is false but not-equal (R77). -/
def condFloat (k : Nat) (a b : Val) : Bool :=
  if a = .nan || b = .nan then k = 1
  else
    match k with
    | 0 => a.eq b
    | 1 => !a.eq b
    | 2 => a.lt b
    | 3 => !b.lt a
    | 4 => b.lt a
    | _ => !a.lt b

/-- The lanes of a mask for which a test holds. -/
def laneTest (m : LaneMask) (f : Nat → Bool) : LaneMask :=
  (lanes m).foldl (fun acc l => if f l then acc ||| laneBit l else acc) 0

/-- Every active lane writes predicate PD; a lane whose guard is false keeps its own (R229). -/
def predWrite (s : State) (gd : Guard) (pd : Nat) (f : Issue → LaneMask) : Result :=
  withIssue s gd fun i => .next (s.retire i fun g => g.setP i.gid pd i.active (f i))

/-- The sources of a format-P instruction, inverted where NA and NB say so (R193, R235). -/
def Issue.predA (i : Issue) (p : PForm) : LaneMask :=
  if p.na then ~~~i.grp.pred i.gid p.pa.toNat else i.grp.pred i.gid p.pa.toNat
def Issue.predB (i : Issue) (p : PForm) : LaneMask :=
  if p.nb then ~~~i.grp.pred i.gid p.pb.toNat else i.grp.pred i.gid p.pb.toNat

end Sys2Proof.Machine
end

