-- ==== Sys2Proof/Machine/Integer.lean ====
section
/-! DEFINITION. Integer arithmetic, logic, shifts, bit fields and moves (21 R238 to R243; 07 R68 to R70), each
operation once over the encodings of its operands. -/

namespace Sys2Proof.Machine

/-- An exact integer as a result of a type: wrapped, or clamped with `.sat` (R238). -/
def intResult (t : Ty) (sat : Bool) (x : Int) : Nat := t.wrap (if sat then t.clamp x else x)

/-- Quotient rounded toward zero; a zero divisor gives all ones, the minimum divided by -1 wraps to itself (R70). -/
def quotient (t : Ty) (a b : Int) : Nat := if b = 0 then 2 ^ t.bits - 1 else t.wrap (a.tdiv b)

/-- Remainder with the sign of the dividend; a zero divisor gives the dividend (R70). -/
def remainder (t : Ty) (a b : Int) : Nat := t.wrap (if b = 0 then a else a - b * a.tdiv b)

/-- Bits of the exact product above the width (R238). -/
def mulHigh (t : Ty) (a b : Int) : Nat := t.wrap (a * b / 2 ^ t.bits)

/-- Shift left; 0 from the width on (R241). -/
def shiftLeft (t : Ty) (a s : Nat) : Nat := if t.bits ≤ s then 0 else a * 2 ^ s % 2 ^ t.bits

/-- Shift right, arithmetic for signed types; from the width on, copies of the sign bit or 0 (R241). -/
def shiftRight (t : Ty) (a s : Nat) : Nat := t.wrap (t.toInt a / 2 ^ Nat.min s t.bits)

/-- Rotation left by s mod n (R241). -/
def rotateLeft (t : Ty) (a s : Nat) : Nat :=
  let k := s % t.bits
  a * 2 ^ k % 2 ^ t.bits + a / 2 ^ (t.bits - k)

/-- Number of ones among the low bits. -/
def ones (a : Nat) : Nat → Nat
  | 0 => 0
  | k + 1 => (a.testBit k).toNat + ones a k

/-- Leading zeros of `n` bits (R241). -/
def leadingZeros (n a : Nat) : Nat := if a = 0 then n else n - 1 - Nat.log2 a

/-- Trailing zeros of `n` bits, looked for from bit `i` (R241). -/
def trailingZeros (a : Nat) : Nat → Nat → Nat
  | 0, i => i
  | k + 1, i => if a.testBit i then i else trailingZeros a k (i + 1)

/-- The low bits in reverse order (R241). -/
def reverseBits (a : Nat) : Nat → Nat → Nat
  | 0, _ => 0
  | k + 1, i => (a.testBit i).toNat * 2 ^ k + reverseBits a k (i + 1)

/-- `bfx` with its descriptor (R242). -/
def extractField (t : Ty) (a desc : Nat) : Nat :=
  let pos := desc % 256
  let len := desc / 256 % 256
  let field := (t.toInt a / 2 ^ pos) % 2 ^ len
  if len = 0 then 0
  else t.wrap (if t.signed && decide (2 ^ (len - 1) ≤ field) then field - 2 ^ len else field)

/-- `bfi` with its descriptor (R242). -/
def insertField (t : Ty) (a b desc : Nat) : Nat :=
  let pos := desc % 256
  let len := desc / 256 % 256
  (a % 2 ^ pos + b % 2 ^ len * 2 ^ pos + a / 2 ^ (pos + len) * 2 ^ (pos + len)) % 2 ^ t.bits

/-! ### The operations of a lane (R238, R240, R241) -/

def opAdd (x : XA) (i : Issue) (l : Nat) : Nat :=
  intResult x.t (x.q.getLsbD 0) (i.int x.t l x.a + i.int x.t l x.b)
def opSub (x : XA) (i : Issue) (l : Nat) : Nat :=
  intResult x.t (x.q.getLsbD 0) (i.int x.t l x.a - i.int x.t l x.b)
def opMul (x : XA) (i : Issue) (l : Nat) : Nat := x.t.wrap (i.int x.t l x.a * i.int x.t l x.b)
def opMad (x : XA) (i : Issue) (l : Nat) : Nat :=
  intResult x.t (x.q.getLsbD 0) (i.int x.t l x.a * i.int x.t l x.b + i.int x.t l x.c)
def opDiv (x : XA) (i : Issue) (l : Nat) : Nat := quotient x.t (i.int x.t l x.a) (i.int x.t l x.b)
def opRem (x : XA) (i : Issue) (l : Nat) : Nat := remainder x.t (i.int x.t l x.a) (i.int x.t l x.b)
def opMin (x : XA) (i : Issue) (l : Nat) : Nat :=
  if i.int x.t l x.b < i.int x.t l x.a then i.raw x.t l x.b else i.raw x.t l x.a
def opMax (x : XA) (i : Issue) (l : Nat) : Nat :=
  if i.int x.t l x.a < i.int x.t l x.b then i.raw x.t l x.b else i.raw x.t l x.a
def opAnd (x : XA) (i : Issue) (l : Nat) : Nat := Nat.land (i.raw x.t l x.a) (i.raw x.t l x.b)
def opOr (x : XA) (i : Issue) (l : Nat) : Nat := Nat.lor (i.raw x.t l x.a) (i.raw x.t l x.b)
def opXor (x : XA) (i : Issue) (l : Nat) : Nat := Nat.xor (i.raw x.t l x.a) (i.raw x.t l x.b)
def opShl (x : XA) (i : Issue) (l : Nat) : Nat := shiftLeft x.t (i.raw x.t l x.a) (i.raw .n32 l x.b)
def opShr (x : XA) (i : Issue) (l : Nat) : Nat := shiftRight x.t (i.raw x.t l x.a) (i.raw .n32 l x.b)
def opPopc (x : XA) (i : Issue) (l : Nat) : Nat := ones (i.raw x.t l x.a) x.t.bits
def opClz (x : XA) (i : Issue) (l : Nat) : Nat := leadingZeros x.t.bits (i.raw x.t l x.a)
def opBfx (x : XA) (i : Issue) (l : Nat) : Nat := extractField x.t (i.raw x.t l x.a) (i.raw .b32 l x.b)
/-- The comparison of `cmp` and `ucmp` (R239). -/
def opCmp (x : XA) (i : Issue) (l : Nat) : Bool := condInt x.sub.toNat (i.int x.t l x.a) (i.int x.t l x.b)

/-! ### The instructions -/

def execAdd (x : XA) (s : State) : Result := laneWrite s x.toExt x.t (opAdd x)
def execSub (x : XA) (s : State) : Result := laneWrite s x.toExt x.t (opSub x)
def execMul (x : XA) (s : State) : Result := laneWrite s x.toExt x.t (opMul x)
def execMulhi (x : XA) (s : State) : Result :=
  laneWrite s x.toExt x.t fun i l => mulHigh x.t (i.int x.t l x.a) (i.int x.t l x.b)
def execMad (x : XA) (s : State) : Result := laneWrite s x.toExt x.t (opMad x)
/-- The exact a × b + c modulo 2^64 in a pair. -/
def execMadw (x : XA) (s : State) : Result :=
  laneWrite s x.toExt .n64 fun i l =>
    Ty.wrap .n64 (i.int x.t l x.a * i.int x.t l x.b + (i.raw .n64 l x.c : Nat))
def execDiv (x : XA) (s : State) : Result := laneWrite s x.toExt x.t (opDiv x)
def execRem (x : XA) (s : State) : Result := laneWrite s x.toExt x.t (opRem x)
def execMin (x : XA) (s : State) : Result := laneWrite s x.toExt x.t (opMin x)
def execMax (x : XA) (s : State) : Result := laneWrite s x.toExt x.t (opMax x)
/-- The minimum of T gives itself. -/
def execAbs (x : XA) (s : State) : Result :=
  laneWrite s x.toExt x.t fun i l => x.t.wrap (i.int x.t l x.a).natAbs
def execNeg (x : XA) (s : State) : Result := laneWrite s x.toExt x.t fun i l => x.t.wrap (-i.int x.t l x.a)
/-- min(max(a, b), c). -/
def execClamp (x : XA) (s : State) : Result :=
  laneWrite s x.toExt x.t fun i l =>
    x.t.wrap (min (max (i.int x.t l x.a) (i.int x.t l x.b)) (i.int x.t l x.c))
def execSad (x : XA) (s : State) : Result :=
  laneWrite s x.toExt x.t fun i l =>
    x.t.wrap ((i.int x.t l x.a - i.int x.t l x.b).natAbs + i.int x.t l x.c)
/-- a + b × S modulo 2^64; Q[3] zero-extends b (R240). -/
def execLea (x : XA) (s : State) : Result :=
  laneWrite s x.toExt .n64 fun i l =>
    let b := i.raw .n32 l x.b
    Ty.wrap .n64 ((i.raw .n64 l x.a : Nat) +
      (if x.q.getLsbD 3 then (b : Int) else Ty.toInt .s32 b) * 2 ^ (x.q &&& 7).toNat)
def execCmp (x : XA) (s : State) : Result :=
  predWrite s x.g x.pd.toNat fun i => laneTest i.active (opCmp x i)

def execAnd (x : XA) (s : State) : Result := laneWrite s x.toExt x.t (opAnd x)
def execOr (x : XA) (s : State) : Result := laneWrite s x.toExt x.t (opOr x)
def execXor (x : XA) (s : State) : Result := laneWrite s x.toExt x.t (opXor x)
def execNot (x : XA) (s : State) : Result :=
  laneWrite s x.toExt x.t fun i l => 2 ^ x.t.bits - 1 - i.raw x.t l x.a
def execAndn (x : XA) (s : State) : Result :=
  laneWrite s x.toExt x.t fun i l => Nat.land (i.raw x.t l x.a) (2 ^ x.t.bits - 1 - i.raw x.t l x.b)
def execShl (x : XA) (s : State) : Result := laneWrite s x.toExt x.t (opShl x)
def execShr (x : XA) (s : State) : Result := laneWrite s x.toExt x.t (opShr x)
def execRotl (x : XA) (s : State) : Result :=
  laneWrite s x.toExt x.t fun i l => rotateLeft x.t (i.raw x.t l x.a) (i.raw .n32 l x.b)
/-- The counting instructions write a single register as `.n32`. -/
def execPopc (x : XA) (s : State) : Result := laneWrite s x.toExt .n32 (opPopc x)
def execClz (x : XA) (s : State) : Result := laneWrite s x.toExt .n32 (opClz x)
def execCtz (x : XA) (s : State) : Result :=
  laneWrite s x.toExt .n32 fun i l => trailingZeros (i.raw x.t l x.a) x.t.bits 0
def execBfx (x : XA) (s : State) : Result := laneWrite s x.toExt x.t (opBfx x)
def execBfi (x : XA) (s : State) : Result :=
  laneWrite s x.toExt x.t fun i l => insertField x.t (i.raw x.t l x.a) (i.raw x.t l x.b) (i.raw .b32 l x.c)
def execBrev (x : XA) (s : State) : Result :=
  laneWrite s x.toExt x.t fun i l => reverseBits (i.raw x.t l x.a) x.t.bits 0
def execSel (x : XA) (s : State) : Result :=
  laneWrite s x.toExt x.t fun i l =>
    if (i.predQ x.q).getLsbD l then i.raw x.t l x.a else i.raw x.t l x.b

/-- `mov` copies 32 bits, or a pair with W (R243). -/
def execMov (g : Guard) (wide : Bool) (d a : BitVec 8) (s : State) : Result :=
  withIssue s g fun i => .next (s.retire i fun r =>
    r.writeLanes i.active (if wide then .n64 else .b32) d.toNat fun l =>
      i.raw (if wide then .n64 else .b32) l (.v a))
def execMovLiteral (g : Guard) (wide : Bool) (d : BitVec 8) (lit : DWord) (s : State) : Result :=
  withIssue s g fun i => .next (s.retire i fun r =>
    r.writeLanes i.active (if wide then .n64 else .b32) d.toNat fun l =>
      i.raw (if wide then .n64 else .b32) l (.lit lit))

/-! ### Uniform instructions (R228, R244) -/

def execUadd (x : XA) (s : State) : Result := uniWrite s x.toExt x.t (opAdd x)
def execUsub (x : XA) (s : State) : Result := uniWrite s x.toExt x.t (opSub x)
def execUmul (x : XA) (s : State) : Result := uniWrite s x.toExt x.t (opMul x)
def execUmad (x : XA) (s : State) : Result := uniWrite s x.toExt x.t (opMad x)
def execUdiv (x : XA) (s : State) : Result := uniWrite s x.toExt x.t (opDiv x)
def execUrem (x : XA) (s : State) : Result := uniWrite s x.toExt x.t (opRem x)
def execUmin (x : XA) (s : State) : Result := uniWrite s x.toExt x.t (opMin x)
def execUmax (x : XA) (s : State) : Result := uniWrite s x.toExt x.t (opMax x)
def execUand (x : XA) (s : State) : Result := uniWrite s x.toExt x.t (opAnd x)
def execUor (x : XA) (s : State) : Result := uniWrite s x.toExt x.t (opOr x)
def execUxor (x : XA) (s : State) : Result := uniWrite s x.toExt x.t (opXor x)
def execUshl (x : XA) (s : State) : Result := uniWrite s x.toExt x.t (opShl x)
def execUshr (x : XA) (s : State) : Result := uniWrite s x.toExt x.t (opShr x)
/-- d ← 1 or 0. -/
def execUcmp (x : XA) (s : State) : Result := uniWrite s x.toExt .n32 fun i l => (opCmp x i l).toNat
/-- d ← (c ≠ 0) ? a : b. -/
def execUsel (x : XA) (s : State) : Result :=
  uniWrite s x.toExt x.t fun i l => if i.raw x.t l x.c = 0 then i.raw x.t l x.b else i.raw x.t l x.a
def execUpopc (x : XA) (s : State) : Result := uniWrite s x.toExt .n32 (opPopc x)
def execUclz (x : XA) (s : State) : Result := uniWrite s x.toExt .n32 (opClz x)
def execUbfx (x : XA) (s : State) : Result := uniWrite s x.toExt x.t (opBfx x)
def execUmov (g : Guard) (d a : BitVec 8) (s : State) : Result :=
  withIssue s g fun i => .next (s.retire i fun r =>
    if i.active = 0 then r else r.setU d.toNat (i.uni (.g a)))
def execUmovLiteral (g : Guard) (d : BitVec 8) (lit : DWord) (s : State) : Result :=
  withIssue s g fun i => .next (s.retire i fun r => if i.active = 0 then r else r.setU d.toNat lit)

end Sys2Proof.Machine
end

