-- ==== Sys2Proof/Machine/Predicates.lean ====
section
/-! DEFINITION. Predicate logic and moves between predicates and registers (21 R235, R236). -/

namespace Sys2Proof.Machine

def execPand (p : PForm) (s : State) : Result := predWrite s p.g p.pd.toNat fun i => i.predA p &&& i.predB p
def execPor (p : PForm) (s : State) : Result := predWrite s p.g p.pd.toNat fun i => i.predA p ||| i.predB p
def execPxor (p : PForm) (s : State) : Result := predWrite s p.g p.pd.toNat fun i => i.predA p ^^^ i.predB p
def execPnot (p : PForm) (s : State) : Result := predWrite s p.g p.pd.toNat fun i => ~~~i.predA p
def execPmov (p : PForm) (s : State) : Result := predWrite s p.g p.pd.toNat fun i => i.predA p

/-- A vector source gives opA(l) ≠ 0, any other bit l of the 64-bit operand (R236). -/
def execPset (x : XA) (s : State) : Result :=
  predWrite s x.g x.pd.toNat fun i =>
    if x.a.isVec then laneTest i.active fun l => i.raw .b32 l x.a != 0
    else BitVec.ofNat 64 (i.raw .s64 0 x.a)

/-- 1 or 0 in each active lane, or the active lanes' predicate bits in a uniform register (R236). -/
def execPget (x : XA) (s : State) : Result :=
  withIssue s x.g fun i =>
    let p := i.predQ x.q
    .next (s.retire i fun g =>
      if x.d.uni then (if i.active = 0 then g else g.setU x.d.n.toNat (p &&& i.active))
      else g.writeLanes i.active .b32 x.d.n.toNat fun l => (p.getLsbD l).toNat)

end Sys2Proof.Machine
end

