-- ==== Sys2Proof/Machine/Lanes.lean ====
section
/-! DEFINITION. Group-wide operations under a member mask (03 R46; 21 R237, R254 to R259), and `wrlane` (R258). -/

namespace Sys2Proof.Machine

/-! ### What each operation writes -/

/-- The identity of a reduction (R255). -/
def reduceIdentity (sub : Nat) (t : Ty) : Nat :=
  match sub with
  | 0 => 0
  | 1 => if t.floating then t.flt.limit else t.wrap t.maxInt
  | 2 => if t.floating then t.flt.limit + t.flt.signBit true else t.wrap t.minInt
  | 3 => 2 ^ t.bits - 1
  | _ => 0

/-- The operator of a reduction (R255). -/
def reduceStep (sub : Nat) (t : Ty) (a b : Nat) : Nat :=
  match sub with
  | 0 => if t.floating then t.flt.add a b else t.wrap (t.toInt a + t.toInt b)
  | 1 => if t.floating then t.flt.min a b else if t.toInt b < t.toInt a then b else a
  | 2 => if t.floating then t.flt.max a b else if t.toInt a < t.toInt b then b else a
  | 3 => Nat.land a b
  | 4 => Nat.lor a b
  | _ => Nat.xor a b

/-- One level of the combining tree: offset `o` (R255). -/
def reduceLevel (op : Nat → Nat → Nat) (o : Nat) (v : List Nat) : List Nat :=
  (List.range v.length).map fun l =>
    let low := if l / o % 2 = 1 then l - o else l
    op (v.getD low 0) (v.getD (low + o) 0)

/-- The tree from offset 2^(k-1) down to 1 (R255). -/
def reduceTree (op : Nat → Nat → Nat) : Nat → List Nat → List Nat
  | 0, v => v
  | k + 1, v => reduceTree op k (reduceLevel op (2 ^ k) v)

/-- The values of the lanes, those of lanes that do not contribute replaced (R254). -/
def laneValues (g : Group) (v : LaneMask) (f : Nat → Nat) (other : Nat) : List Nat :=
  (List.range g.width).map fun l => if v.getLsbD l then f l else other

/-- What the lanes of a group-wide operation read when they arrived (R258): a, b, and the predicate that Q names. -/
abbrev Seen := Store (Nat × Nat × Bool)

def Seen.a (v : Seen) (lane : Nat) : Nat := (v.at lane (0, 0, false)).1
def Seen.b (v : Seen) (lane : Nat) : Nat := (v.at lane (0, 0, false)).2.1
def Seen.q (v : Seen) (lane : Nat) : Bool := (v.at lane (0, 0, false)).2.2

/-- A value that an operation passes on without combining it is its result too, so that a NaN among floating values
becomes the default NaN of its format (R74). -/
def quietNaN (t : Ty) (x : Nat) : Nat := if t.floating && t.flt.value x = .nan then t.flt.nan else x

/-- `redx` (R255). -/
def reduceEffect (x : XA) (r : Seen) (v : LaneMask) (g : Group) : Group :=
  let vs := laneValues g v r.a (reduceIdentity x.sub.toNat x.t)
  let out := reduceTree (reduceStep x.sub.toNat x.t) (Nat.log2 g.width - (x.q &&& 3).toNat) vs
  g.writeLanes v x.t x.d.n.toNat fun l => quietNaN x.t (out.getD l 0)

/-- `scan`: the left fold over the contributors up to a lane (R256). -/
def scanEffect (x : XA) (r : Seen) (v : LaneMask) (g : Group) : Group :=
  g.writeLanes v x.t x.d.n.toNat fun l =>
    match ((lanes v).filter fun j => if x.q.getLsbD 0 then j < l else j ≤ l).map r.a with
    | [] => reduceIdentity x.sub.toNat x.t
    | y :: r => quietNaN x.t (r.foldl (reduceStep x.sub.toNat x.t) y)

/-- `perm` (R257). -/
def permEffect (x : XA) (r : Seen) (v : LaneMask) (g : Group) : Group :=
  let vs := laneValues g v r.a 0
  g.writeLanes v x.t x.d.n.toNat fun l => vs.getD (r.b l % g.width) 0

/-- `push`: a receiver takes the value of its highest sender (R257). -/
def pushEffect (x : XA) (r : Seen) (v : LaneMask) (g : Group) : Group :=
  (lanes v).foldl (fun h l =>
    match ((lanes v).filter fun j => r.b j % g.width = l).getLast? with
    | some j => h.write x.t l x.d.n.toNat (r.a j)
    | none => h) g

/-- `lrot` (R257); its uniform b is read when the operation executes. -/
def rotateEffect (x : XA) (i : Issue) (r : Seen) (v : LaneMask) (g : Group) : Group :=
  let vs := laneValues g v r.a 0
  let b := i.raw x.t 0 x.b % g.width
  g.writeLanes v x.t x.d.n.toNat fun l => vs.getD ((l + g.width - b) % g.width) 0

/-- `rdlane` (R257); its uniform b is read when the operation executes. -/
def readLaneEffect (x : XA) (i : Issue) (r : Seen) (v : LaneMask) (g : Group) : Group :=
  let vs := laneValues g v r.a 0
  g.writeU x.t x.d.n.toNat (vs.getD (i.raw x.t 0 x.b % g.width) 0)

/-- `compress` (R259). -/
def compressEffect (x : XA) (r : Seen) (v : LaneMask) (g : Group) : Group :=
  let sel := (lanes v).filter r.q
  let count := match x.b with
    | .g n => n.toNat
    | _ => 0
  (g.writeLanes v x.t x.d.n.toNat fun l =>
    match sel[l]? with
    | some j => r.a j
    | none => 0).setU count (BitVec.ofNat 64 sel.length)

/-- `vote` (R237). -/
def voteEffect (x : XA) (gid : Nat) (r : Seen) (v : LaneMask) (g : Group) : Group :=
  let p := maskOf ((lanes v).filter r.q)
  let set (b : Bool) : Group := g.setP gid x.pd.toNat v (if b then BitVec.allOnes 64 else 0)
  match x.sub.toNat with
  | 0 => set (p = v)
  | 1 => set (p != 0)
  | 2 => set (p = v || p = 0)
  | _ => g.setU x.d.n.toNat p

/-- What a group-wide operation writes for its contributors (R254). -/
def memberEffect (op : Instr) (i : Issue) (r : Seen) (v : LaneMask) (g : Group) : Group :=
  match op with
  | .vote x => voteEffect x i.gid r v g
  | .redx x => reduceEffect x r v g
  | .scan x => scanEffect x r v g
  | .perm x => permEffect x r v g
  | .push x => pushEffect x r v g
  | .compress x => compressEffect x r v g
  | .rdlane x => readLaneEffect x i r v g
  | .lrot x => rotateEffect x i r v g
  | _ => g

/-- What some lanes read when they arrive at a group-wide operation (R46, R258). -/
def Issue.sees (i : Issue) (x : XA) (m : LaneMask) (old : Seen) : Seen :=
  (lanes m).foldl (fun r l => r.put l (i.raw x.t l x.a, i.raw x.t l x.b, (i.predQ x.q).getLsbD l)) old

/-! ### Arrival and completion (R46) -/

/-- A wait is complete when every named lane has arrived or stopped being live. -/
def MemberWait.done (w : MemberWait) (live : LaneMask) : Bool := w.mask &&& live &&& ~~~w.arrived = 0

/-- The operation executes once, for every lane that arrived, on what each read when it arrived; the lanes continue as
one entry (R46, R258). A repeating entry goes on with its repeats (R205). -/
def Group.perform (g : Group) (gid : Nat) (w : MemberWait) : Group :=
  let i : Issue :=
    { gid := gid, grp := g, active := w.active, blame := none,
      slot := { group := gid, mask := w.arrived, pc := w.pc, words := 0, port := 0, bits := none, behind := none } }
  let g := memberEffect w.instr i w.seen w.active g
  if w.repeating then
    if repDone g.rep < repLast g.rep then
      { g with rep := g.rep + 1 }.enter { Entry.make w.prio w.pc w.arrived with repeating := true, after := some w.next }
    else { g with rep := 0 }.enter (Entry.make w.prio w.next w.arrived)
  else g.enter (Entry.make w.prio w.next w.arrived)

/-- Every complete wait of the group executes. -/
def Group.performAll (g : Group) (gid : Nat) : Group :=
  let ready := g.front.waits.filter fun w => w.done g.live
  let g := { g with front := { g.front with waits := g.front.waits.filter fun w => !w.done g.live } }
  ready.foldl (fun g w => g.perform gid w) g

/-- A group-wide instruction reaches its address (R46). An entry whose guard is false in every lane and whose mask names none
of them passes by while others wait there under another mask, too (DESIGN CHOICE, log 97). -/
def memberOp (op : Instr) (x : XA) (s : State) : Result :=
  withIssue s x.g fun i =>
    let m := i.uni x.c &&& i.grp.lanesAll
    let e := (i.grp.entryOf i.slot.mask).getD (Entry.make 0 i.slot.pc i.slot.mask)
    let out := i.active &&& ~~~m
    let come := i.slot.mask &&& m
    let wait := i.grp.front.waits.find? fun w => w.pc = i.slot.pc
    checkEntry s { i with blame := some out } .memberMask (out != 0) i.slot.pc fun _ =>
    match wait.filter fun w => w.mask != m && come != 0 with
    | some w =>
      .next (s.raise i { cause := .memberMask, lanes := w.arrived, addr := i.slot.pc, pc := i.slot.pc,
                         port := i.slot.port, followers := 0,
                         resume := .member i.slot.mask i.slot.pc (e.following i.slot) })
    | none =>
      if come = 0 then .next (s.retire i id)
      else
        let w : MemberWait := match wait with
          | some w => { w with arrived := w.arrived ||| come, active := w.active ||| (i.active &&& m),
                               seen := i.sees x come w.seen, repeating := w.repeating || e.repeating,
                               prio := if w.prio.toNat < e.prio.toNat then e.prio else w.prio }
          | none => { pc := i.slot.pc, next := e.following i.slot, instr := op, repeating := e.repeating, mask := m,
                      arrived := come, active := i.active &&& m, prio := e.prio, seen := i.sees x come [] }
        .next (s.onGroup i.gid fun g =>
          let g := (g.follow i.slot.mask).leave i.slot.mask
          let g := g.enter (Entry.make e.prio (e.following i.slot) (i.slot.mask &&& ~~~m))
          let g := { g with front := { g.front with
            waits := w :: g.front.waits.filter fun v => v.pc != i.slot.pc } }
          g.performAll i.gid)

def execVote (x : XA) (s : State) : Result := memberOp (.vote x) x s
def execRedx (x : XA) (s : State) : Result := memberOp (.redx x) x s
def execScan (x : XA) (s : State) : Result := memberOp (.scan x) x s
def execPerm (x : XA) (s : State) : Result := memberOp (.perm x) x s
def execPush (x : XA) (s : State) : Result := memberOp (.push x) x s
def execCompress (x : XA) (s : State) : Result := memberOp (.compress x) x s
def execRdlane (x : XA) (s : State) : Result := memberOp (.rdlane x) x s
def execLrot (x : XA) (s : State) : Result := memberOp (.lrot x) x s

/-- `wrlane` acts once for the group, on whichever lane b names (R258). -/
def execWrlane (x : XA) (s : State) : Result :=
  withIssue s x.g fun i =>
    .next (s.retire i fun g =>
      if i.active = 0 then g
      else g.write x.t (i.raw x.t 0 x.b % g.width) x.d.n.toNat (i.raw x.t 0 x.a))

end Sys2Proof.Machine
end

