-- ==== Sys2Proof/Machine/Access.lean ====
section
/-! DEFINITION. Where a lane's access falls and the checks before it (09 R91 to R95, R100, R103; 11 R114, R119, R126;
21 R260 to R263, R270), and reading and writing at a scope's point (11 R119; 21 R269). -/

namespace Sys2Proof.Machine

/-- An access of an instruction: space (0 `.g`, 1 `.s`, 2 `.c`, 3 `.p`, 4 `.f`), bytes, what it does, scope with its
unit, and whether it must be naturally aligned. -/
structure Reach where
  space : Nat
  size : Nat
  acc : Access
  scope : Nat
  unit : Nat
  aligned : Bool
deriving DecidableEq, Repr

/-- Where an access falls: physical pieces (address, length, stable), a team's scratchpad, the core's floor. -/
inductive Spot where
  | mem (parts : List (Nat × Nat × Bool))
  | scratch (team off : Nat)
  | floor (off : Nat)
deriving DecidableEq, Repr

/-- The widths of the units of the memory scopes (R18, R114). -/
def unitBits (scope : Nat) : Nat :=
  match scope with
  | 6 => 14
  | 7 => 8
  | _ => 3

/-- A unit operand has a bit set above its width (R114). -/
def badUnit (scope unit : Nat) : Bool := 6 ≤ scope && scope ≤ 8 && 2 ^ unitBits scope ≤ unit

/-- The virtual address of private word `w` of a lane (R94). -/
def Group.privateVa (g : Group) (lane : Nat) (w : Int) : DWord :=
  g.pbase + BitVec.ofInt 64 ((w * g.width + lane) * 4)

/-- The first word of a private access of `n` bytes that is at or above `$plimit` or below 0 (R95). -/
def Group.badWord (g : Group) (w : Int) (n : Nat) : Option Int :=
  [w, w + (if n = 8 then 1 else 0)].find? fun k => decide (k < 0) || decide ((g.plimit.toNat : Int) ≤ k)

/-- `$ways` as a team reads it: 16 for a team without floor-scratchpad need (R32, R164). -/
def State.waysFor (s : State) (core team : Nat) : Nat :=
  match s.teams.lookup team with
  | some t => if t.floorNeed then (s.slice core).ways else 16
  | none => 16

/-- The declared scratchpad size of the issuing team (R92). -/
def State.ownScratch (s : State) (i : Issue) : Nat :=
  match s.teams.lookup i.grp.team with
  | some t => t.size
  | none => 0

/-- The team that a `.c` address names (R93). -/
def State.peerTeam (s : State) (i : Issue) (a : Int) : Option Nat :=
  (s.clusters.lookup i.grp.cluster).bind fun k => k.teams[(a / 524288).toNat]?

/-- The scratchpad size behind a `.c` address; 0 where it names no team of the cluster (R93), and where it names one that
has ended, whose scratchpad is released (DESIGN CHOICE, log 82). -/
def State.peerScratch (s : State) (i : Issue) (a : Int) : Nat :=
  match (s.peerTeam i a).bind fun t => s.teams.lookup t with
  | some t => t.size
  | none => 0

/-- An address of a space, in bytes or words (R260). -/
def Issue.place (i : Issue) (x : XM) (space lane : Nat) : Int :=
  if space = 0 then ((i.address x lane).toNat : Int) else i.offset x lane

/-- The address that a trap names for a lane (R263). -/
def Issue.named (i : Issue) (r : Reach) (x : XM) (lane : Nat) : DWord :=
  let a := i.place x r.space lane
  if r.space = 3 then i.grp.privateVa lane ((i.grp.badWord a r.size).getD a) else BitVec.ofInt 64 a

/-- Bounds of `.s`, `.c` and `.f` (R92, R93, R103). -/
def State.outside (s : State) (i : Issue) (r : Reach) (a : Int) : Bool :=
  match r.space with
  | 1 => decide (a < 0) || decide ((s.ownScratch i : Int) < a + r.size)
  | 2 =>
    decide (a < 0) || decide (8388608 ≤ a) ||
      decide ((s.peerScratch i a : Int) < a % 524288 + r.size)
  | 4 => decide (a < 0) || decide (0x800000 < a + r.size)
  | _ => false

/-- The addresses that a lane's access translates, with their lengths (R94, R104). -/
def Issue.parts (i : Issue) (r : Reach) (x : XM) (lane : Nat) : List (DWord × Nat) :=
  let a := i.place x r.space lane
  if r.space = 0 then (pieces a.toNat r.size).map fun p => (BitVec.ofNat 64 p.1, p.2)
  else if r.space = 3 then
    if r.size = 8 then [(i.grp.privateVa lane a, 4), (i.grp.privateVa lane (a + 1), 4)]
    else [(i.grp.privateVa lane a, 4)]
  else []

/-- What a private access does with its addresses: a load too needs a writable page (R95). -/
def Access.own (a : Access) : Access :=
  match a with
  | .read => .readOwn
  | a => a

/-- The spot of a lane (R93, R94). -/
def State.spot (s : State) (i : Issue) (r : Reach) (x : XM) (f : Found) (lens : List (DWord × Nat)) (lane : Nat) : Spot :=
  let a := i.place x r.space lane
  match r.space with
  | 1 => .scratch i.grp.team a.toNat
  | 2 => .scratch ((s.peerTeam i a).getD 0) (a % 524288).toNat
  | 4 => .floor a.toNat
  | _ =>
    .mem (((f.filter fun p => p.1.lane = lane).zip lens).map fun (p, l) => (p.2.pa, l.2, p.2.stable))

/-- Some of the 4-byte words that bytes lie in is one of a list. -/
def wordHit (off n : Nat) (ws : List Nat) : Bool := ws.any fun w => w * 4 < off + n && off < w * 4 + 4

/-- The words of a team's scratchpad, or of a core's floor scratchpad, that hold an uncorrectable error (R356). -/
def State.scratchFlaws (s : State) (team : Nat) : List Nat :=
  s.flaws.filterMap fun f => match f with
    | .scratch t w => if t = team then some w else none
    | _ => none
def State.floorFlaws (s : State) (core : Nat) : List Nat :=
  s.flaws.filterMap fun f => match f with
    | .floor c w => if c = core then some w else none
    | _ => none

/-- The core gives up its copies of the line, and the home slice too where the point lies behind it (R119). -/
def State.yieldLine (s : State) (core scope pa : Nat) : State :=
  let s := s.flushLine core pa
  if 6 ≤ scope || (scope = 5 && inHost pa) then s.flushL2 pa else s

/-- Reads bytes of one line for a core at a scope; scopes below 3 and plain accesses read through the caches. -/
def State.readAt (s : State) (core scope pa n : Nat) (stable : Bool) : State × List Byte :=
  if scope < 3 then s.coreRead core pa n stable
  else
    let s := s.yieldLine core scope pa
    if 6 ≤ scope || (scope = 5 && inHost pa) then s.pointRead pa n else s.l2Read pa n

/-- Writes bytes of one line for a core at a scope. -/
def State.writeAt (s : State) (core scope pa : Nat) (bs : List Byte) (stable : Bool) : State :=
  if scope < 3 then s.coreWrite core pa bs stable
  else
    let s := s.yieldLine core scope pa
    if 6 ≤ scope || (scope = 5 && inHost pa) then s.bankWrite pa bs else s.l2Write pa bs

/-- The steps, taken one after another, at whose turn memory that they need cannot be read; the others are performed (R345,
R356). -/
def lostIn {α : Type} (bad : State → α → Bool) (act : State → α → State) (s : State) : List α → List α
  | [] => []
  | a :: r => if bad s a then a :: lostIn bad act s r else lostIn bad act (act s a) r

/-- A piece of an access lies in a line that cannot be read (R345, R356; log 16). -/
def State.pieceBad (s : State) (core scope : Nat) (p : Nat × Nat × Bool) : Bool :=
  if scope < 3 then s.unreadableAt core p.1 p.2.1
  else if 6 ≤ scope || (scope = 5 && inHost p.1) then s.lineBad p.1
  else s.unreadable p.1

/-- Memory that the access would have to reach cannot be read: some piece of it at its turn, when the line of the piece before
it has been brought in (R345, R356; log 16). -/
def State.spotBad (s : State) (core scope n : Nat) : Spot → Bool
  | .mem parts =>
    !(lostIn (fun s p => s.pieceBad core scope p) (fun s p => (s.readAt core scope p.1 p.2.1 p.2.2).1) s parts).isEmpty
  | .scratch t off => wordHit off n (s.scratchFlaws t)
  | .floor off => wordHit off n (s.floorFlaws core)

/-- The acquire of an instruction's active lanes (R119). -/
def State.acquireFor (s : State) (i : Issue) (scope unit : Nat) : State :=
  if i.active = 0 then s else s.acquireAt i.grp.core scope unit none

/-- The release of an instruction's active lanes (R119). -/
def State.releaseFor (s : State) (i : Issue) (scope unit : Nat) : State :=
  if i.active = 0 then s else s.releaseAt i.grp.core scope unit fun _ => true

/-- A release at `.sys` waits for an acknowledgement that a link that is down does not give (R345). -/
def checkLink (s : State) (i : Issue) (releases : Bool) (scope : Nat) (k : Unit → Result) : Result :=
  checkEntry s i .eccFatal (releases && scope = 5 && !s.link.up && i.active != 0) i.slot.pc k

/-- What a lane's access does to the machine, as its turn comes. -/
abbrev LaneStep := (Nat → Spot) → State → Nat → State

/-- The checks of step 6 of a lane access, in the order of R263 and R270; then the spots of the lanes. The unit check
of R114 comes first, since it does not depend on the lane. A release that the access performs first comes once every check
has passed, and waits for the link; then each lane's memory is looked at as its turn comes, in ascending order, so that a
line which an earlier lane's access has sent away counts (R119, R269, R345, R356). Where a lane's cannot be read the
instruction has no effect in any lane (R47). -/
def State.reach (s : State) (i : Issue) (r : Reach) (x : XM) (releases : Bool) (act : LaneStep)
    (k : State → (Nat → Spot) → Result) : Result :=
  let ls := lanes i.active
  let named := i.named r x
  checkEntry s i .illegalField (i.active != 0 && badUnit r.scope r.unit) i.slot.pc fun _ =>
  checkLanes s i .floorAbsent (fun _ => r.space = 4 && s.waysFor i.grp.core i.grp.team = 16) named fun _ =>
  checkLanes s i .protection (fun l => s.outside i r (i.place x r.space l)) named fun _ =>
  checkLanes s i .privateLimit
    (fun l => r.space = 3 && (i.grp.badWord (i.place x 3 l) r.size).isSome) named fun _ =>
  checkLanes s i .xlateFault (fun l => r.space = 0 && !canonical (i.address x l)) named fun _ =>
  checkLanes s i .atomicAlign (fun l => r.aligned && (named l).toNat % r.size != 0) named fun _ =>
  checkLanes s i .protection (fun _ => 6 ≤ r.scope && r.space != 0 && r.space != 3) named fun _ =>
  let acc := if r.space = 3 then r.acc.own else r.acc
  let (s, f) := s.translateAll i.grp.core i.grp.space
    (ls.flatMap fun l => (i.parts r x l).map fun p => { lane := l, va := p.1, acc := acc })
  checkFound s i f fun _ =>
  let at' (l : Nat) : Spot := s.spot i r x f (i.parts r x l) l
  checkLanes s i .protection (fun l =>
      6 ≤ r.scope && Found.whole f l && match at' l with
        | .mem parts => parts.any fun p => !s.covers r.scope r.unit p.1
        | _ => true)
    named fun _ =>
  checkMiss s i f fun _ =>
  checkLink s i releases r.scope fun _ =>
  let t := if releases then s.releaseFor i r.scope r.unit else s
  let lost := lostIn (fun t l => t.spotBad i.grp.core r.scope r.size (at' l)) (act at') t ls
  checkLanes s i .eccFatal (fun l => lost.contains l) named fun _ =>
  k t at'

/-! ### Accesses at a scope's point (R119, R269) -/

/-- Reads the bytes of a spot. -/
def State.readSpot (s : State) (core scope n : Nat) (p : Spot) : State × List Byte :=
  match p with
  | .mem parts => parts.foldl (fun (s, bs) (pa, n, st) =>
      let (s, more) := s.readAt core scope pa n st
      (s, bs ++ more)) (s, [])
  | .scratch t off =>
    (s, match s.teams.lookup t with
        | some t => t.scratch.readBytes off n
        | none => [])
  | .floor off => (s, (s.slice core).floor.readBytes off n)

/-- Writes bytes to a spot. -/
def State.writeSpot (s : State) (core scope : Nat) (p : Spot) (bs : List Byte) : State :=
  match p with
  | .mem parts => (parts.foldl (fun (s, bs) (pa, n, st) =>
      (s.writeAt core scope pa (bs.take n) st, bs.drop n)) (s, bs)).1
  | .scratch t off => s.onTeam t fun t => { t with scratch := t.scratch.writeBytes off bs }
  | .floor off => s.setSlice core { s.slice core with floor := (s.slice core).floor.writeBytes off bs }

/-- The issue of an instruction that acts once for its group, as an access of its lowest active lane (R228, R265). -/
def Issue.lead (i : Issue) : Issue :=
  { i with active := maskOf ((lanes i.active).take 1), blame := some i.active }

end Sys2Proof.Machine
end

