-- ==== Sys2Proof/Machine/Memory.lean ====
section
/-! DEFINITION. Loads, stores, prefetch, atomics, release, acquire, fence and cache maintenance (21 R260 to R274;
11 R115 to R120, R126, R132). -/

namespace Sys2Proof.Machine

/-- Bytes of an access: V's count of elements (R261). -/
def XM.bytes (x : XM) : Nat := 2 ^ x.v.toNat * (x.t.bits / 8)

/-- The scope's unit operand (R262). -/
def Issue.unitOf (i : Issue) (x : XM) : Nat := if 6 ≤ x.s.toNat ∧ x.s.toNat ≤ 8 then i.scalar x.c else 0

/-- Element `j` of a store's data (R261). -/
def Src.element (x : Src) (t : Ty) (j : Nat) : Src :=
  match x with
  | .v n => .v (n + BitVec.ofNat 8 (j * t.span))
  | x => x

/-- The bytes that a lane stores (R261). -/
def Issue.storeBytes (i : Issue) (x : XM) (lane : Nat) : List Byte :=
  (List.range (2 ^ x.v.toNat)).flatMap fun j => leBytes (x.t.bits / 8) (i.raw x.t lane (Src.element x.b x.t j))

/-- Writes the elements of a load to D, D + 1 and so on, or to pairs (R261). -/
def Group.writeElements (g : Group) (t : Ty) (lane d count : Nat) (bs : List Byte) : Group :=
  (List.range count).foldl (fun g j =>
    g.write t lane (d + j * t.span) (leNat ((bs.drop (j * (t.bits / 8))).take (t.bits / 8)))) g

/-- Reads the spots of the active lanes in ascending order. -/
def State.readLanes (s : State) (core scope n : Nat) (spot : Nat → Spot) (ls : List Nat) :
    State × List (Nat × List Byte) :=
  ls.foldl (fun (s, out) l =>
    let (s, bs) := s.readSpot core scope n (spot l)
    (s, out ++ [(l, bs)])) (s, [])

/-- One lane's load, and one lane's store, at a scope. -/
def Issue.reads (i : Issue) (r : Reach) : LaneStep := fun spot s l =>
  (s.readSpot i.grp.core r.scope r.size (spot l)).1
def Issue.stores (i : Issue) (r : Reach) (x : XM) : LaneStep := fun spot s l =>
  s.writeSpot i.grp.core r.scope (spot l) (i.storeBytes x l)

/-- A load of a space (R260 to R264). -/
def loadSpace (space : Nat) (x : XM) (s : State) : Result :=
  withIssue s x.g fun i =>
    let r : Reach := { space := space, size := XM.bytes x, acc := .read, scope := x.s.toNat, unit := i.unitOf x,
                       aligned := 3 ≤ x.s.toNat }
    s.reach i r x false (i.reads r) fun s spot =>
      let (s, data) := s.readLanes i.grp.core r.scope r.size spot (lanes i.active)
      let s := if x.o = 1 then s.acquireFor i r.scope r.unit else s
      .next (s.retire i fun g => data.foldl (fun g p =>
        g.writeElements x.t p.1 x.d.n.toNat (2 ^ x.v.toNat) p.2) g)

/-- A store to a space: the release first, then the lanes in ascending order (R119, R260 to R264). -/
def storeSpace (space : Nat) (x : XM) (s : State) : Result :=
  withIssue s x.g fun i =>
    let r : Reach := { space := space, size := XM.bytes x, acc := .write, scope := x.s.toNat, unit := i.unitOf x,
                       aligned := 3 ≤ x.s.toNat }
    s.reach i r x (x.o = 2) (i.stores r x) fun s spot =>
      .next (((lanes i.active).foldl (i.stores r x spot) s).retire i id)

def execLdG (x : XM) (s : State) : Result := loadSpace 0 x s
def execLdS (x : XM) (s : State) : Result := loadSpace 1 x s
def execLdC (x : XM) (s : State) : Result := loadSpace 2 x s
def execLdF (x : XM) (s : State) : Result := loadSpace 4 x s
def execLdP (x : XM) (s : State) : Result :=
  withIssue s x.g fun i =>
    let r : Reach := { space := 3, size := XM.bytes x, acc := .read, scope := 0, unit := 0, aligned := false }
    s.reach i r x false (i.reads r) fun s spot =>
      let (s, data) := s.readLanes i.grp.core 0 r.size spot (lanes i.active)
      .next (s.retire i fun g => data.foldl (fun g p => g.write x.t p.1 x.d.n.toNat (leNat p.2)) g)
def execStG (x : XM) (s : State) : Result := storeSpace 0 x s
def execStS (x : XM) (s : State) : Result := storeSpace 1 x s
def execStC (x : XM) (s : State) : Result := storeSpace 2 x s
def execStF (x : XM) (s : State) : Result := storeSpace 4 x s
def execStP (x : XM) (s : State) : Result := storeSpace 3 x s

/-- A uniform load: an access of the lowest active lane (R265). -/
def execLdu (x : XM) (s : State) : Result :=
  withIssue s x.g fun i =>
    let r : Reach := { space := 0, size := XM.bytes x, acc := .read, scope := x.s.toNat, unit := i.unitOf x,
                       aligned := 3 ≤ x.s.toNat }
    s.reach i.lead r x false (i.reads r) fun s spot =>
      let (s, data) := s.readLanes i.grp.core r.scope r.size spot (lanes i.lead.active)
      let s := if x.o = 1 then s.acquireFor i r.scope r.unit else s
      .next (s.retire i fun g => data.foldl (fun g p => g.writeU x.t x.d.n.toNat (leNat p.2)) g)

/-- A uniform store (R265). -/
def execStu (x : XM) (s : State) : Result :=
  withIssue s x.g fun i =>
    let r : Reach := { space := 0, size := XM.bytes x, acc := .write, scope := x.s.toNat, unit := i.unitOf x,
                       aligned := 3 ≤ x.s.toNat }
    s.reach i.lead r x (x.o = 2) (i.stores r x) fun s spot =>
      .next (((lanes i.lead.active).foldl (i.stores r x spot) s).retire i id)

/-- One lane's prefetch: nothing where a check fails or the translation misses (R266). -/
def State.prefetch (s : State) (i : Issue) (x : XM) (lane : Nat) : State :=
  let r : Reach := { space := x.sl.toNat, size := if x.sl = 3 then 4 else 1, acc := .read, scope := 0, unit := 0,
                     aligned := false }
  let a := i.place x r.space lane
  if r.space = 3 && (i.grp.badWord a 4).isSome then s
  else
    (i.parts r x lane).foldl (fun s p =>
      match s.translate i.grp.core i.grp.space p.1 (if r.space = 3 then .readOwn else .read) with
      | (s, .ok pa st _) =>
        if s.unreadableAt i.grp.core pa 128 then s else (s.l1Line i.grp.core pa 128 st).1
      | (s, _) => s) s

/-- `prf` never traps at step 6 and never parks (R266). -/
def execPrf (x : XM) (s : State) : Result :=
  withIssue s x.g fun i => .next (((lanes i.active).foldl (fun s l => s.prefetch i x l) s).retire i id)

/-! ### Atomics (R267 to R271) -/

/-- The new value of an operation (R268). -/
def atomicValue (sub : Nat) (t : Ty) (m b : Nat) : Nat :=
  match sub with
  | 0 => if t.floating then t.flt.add m b else t.wrap (t.toInt m + t.toInt b)
  | 1 => if t.floating then t.flt.min m b else if t.toInt b < t.toInt m then b else m
  | 2 => if t.floating then t.flt.max m b else if t.toInt m < t.toInt b then b else m
  | 3 => Nat.land m b
  | 4 => Nat.lor m b
  | 5 => Nat.xor m b
  | _ => b

/-- The scope at which an atomic is performed: 0 means `.dev` for `.g` and `.p`, the owning core otherwise (R269). -/
def atomicScope (x : XM) : Nat :=
  if x.s = 0 then (if x.sl = 0 || x.sl = 3 then 4 else 0) else x.s.toNat

/-- The access of an atomic (R269, R270). -/
def Issue.atomicReach (i : Issue) (x : XM) : Reach :=
  { space := x.sl.toNat, size := x.t.bits / 8, acc := .write, scope := atomicScope x, unit := i.unitOf x,
    aligned := true }

/-- Before an atomic at `.sys` on host memory the home slice writes its dirty bytes of the line to the host and drops its
copy, as before every such scoped access (R119). -/
def State.beforeAtomic (s : State) (core scope : Nat) (p : Spot) : State :=
  match p with
  | .mem parts => if scope = 5 then parts.foldl (fun s q => s.yieldLine core 5 q.1) s else s
  | _ => s

/-- The scope at whose point an atomic is performed: one at `.sys` too is at the level-2 home atomic unit, also on host memory
(R126, R269; log 95). -/
def atomicPoint (scope : Nat) : Nat := if scope = 5 then 4 else scope

/-- Performs a lane's atomic: reads the old value at its place and writes the new one. One at `.grp` or `.team` is performed in
the core's L1, on host memory too (R126, R269; DESIGN CHOICE, log 102). -/
def State.atomicAt (s : State) (core scope : Nat) (t : Ty) (p : Spot) (f : Nat → Nat) : State × Nat :=
  let (s, bs) := (s.beforeAtomic core scope p).readSpot core (atomicPoint scope) (t.bits / 8) p
  (s.writeSpot core (atomicPoint scope) p (leBytes (t.bits / 8) (f (leNat bs))), leNat bs)

/-- The atomics of one instruction, in ascending lane order, with its release before and its acquire after (R269,
R270). -/
def atomics (x : XM) (s : State) (i : Issue) (f : Nat → Nat → Nat)
    (w : Group → List (Nat × Nat) → Group) : Result :=
  let r := i.atomicReach x
  s.reach i r x (x.o = 2) (fun spot s l => (s.atomicAt i.grp.core r.scope x.t (spot l) (f l)).1) fun s spot =>
    let (s, olds) := (lanes i.active).foldl (fun (s, out) l =>
      let (s, old) := s.atomicAt i.grp.core r.scope x.t (spot l) (f l)
      (s, out ++ [(l, old)])) (s, [])
    let s := if x.o = 1 then s.acquireFor i r.scope r.unit else s
    .next (s.retire i fun g => w g olds)

/-! ### Release, acquire, fence (R272, R273) -/

/-- What `rel` and `acq` check, and the lines of the range (R114, R118). -/
def ordering (x : XM) (s : State) (k : Issue → State → Option (Nat → Bool) → Result) : Result :=
  withIssue s x.g fun i =>
    let base := i.uni x.a
    let len := i.uni x.b
    checkEntry s i .illegalField (i.active != 0 && badUnit x.s.toNat (i.unitOf x)) i.slot.pc fun _ =>
    checkEntry s i .xlateFault (i.active != 0 && x.ranged && badRange base len) (base + len - 1) fun _ =>
      if i.active = 0 then .next (s.retire i id)
      else if x.ranged then
        let (s, xs) := s.rangeFound i.grp.core i.grp.space base len
        checkEntry s i .eccFatal (foundLost xs).isSome ((foundLost xs).getD 0) fun _ =>
          k i s (some (inRanges (foundLines xs)))
      else k i s none

def execRel (x : XM) (s : State) : Result :=
  ordering x s fun i s range =>
    checkLink s i (!(x.ranged && i.uni x.b = 0)) x.s.toNat fun _ =>
      .next ((s.releaseAt i.grp.core x.s.toNat (i.unitOf x) (range.getD fun _ => true)).retire i id)
def execAcq (x : XM) (s : State) : Result :=
  ordering x s fun i s range =>
    .next ((s.acquireAt i.grp.core x.s.toNat (i.unitOf x) range).retire i id)
/-- Nothing becomes visible; every earlier access has been performed (R120; log 9). -/
def execFence (x : XM) (s : State) : Result := ordering x s fun i s _ => .next (s.retire i id)

/-! ### Maintenance (R274) -/

/-- The lines with dirty bytes of host memory that a maintenance at `.l2` or `.bnk` may send to the host: in a slice, and for
a clean in the core too (R132). -/
def State.dirtyHost (s : State) (core : Nat) (clean : Bool) : List Nat :=
  let c := s.core core
  (((if clean then dirtyLines c.l1 ++ dirtyLines c.column else []) ++
    s.slices.flatMap fun p => dirtyLines p.2.supers).map (·.1)).filter inHost

/-- The virtual address of the first of some lines among the pieces of a range (R345). -/
def firstLine (xs : List ((Nat × Nat) × Xl)) (lines : List Nat) : Option DWord :=
  xs.findSome? fun x => match x.2 with
    | .ok pa _ _ =>
      match lines.filter fun a => pa ≤ a && a < pa + x.1.2 with
      | [] => none
      | a :: r => some (BitVec.ofNat 64 (x.1.1 + (r.foldl min a - pa)))
    | _ => none

/-- A check whose failing lanes come with the address that each names: the trap names those of the lowest (R230). -/
def checkNamed (s : State) (i : Issue) (c : Cause) (fails : List (LaneMask × DWord)) (k : Unit → Result) : Result :=
  match fails with
  | [] => k ()
  | p :: r => .next (s.trap i c (r.foldl (fun m q => m ||| q.1) p.1) p.2)

/-- Clean and invalidate a range, or the lines of the active lanes (R132, R274). A table that cannot be read traps, and so
does a line that a link which is down would have to take (R345, R356). -/
def maintenance (clean inval : Bool) (x : XM) (s : State) : Result :=
  withIssue s x.g fun i =>
    let ls := lanes i.active
    let base := i.uni x.a
    let len := i.uni x.b
    let act (s : State) (ps : List (LaneMask × List ((Nat × Nat) × Xl))) : Result :=
      let named (va : List ((Nat × Nat) × Xl) → Option DWord) : List (LaneMask × DWord) :=
        ps.filterMap fun p => (va p.2).map fun a => (p.1, a)
      let out := if 3 ≤ x.sl.toNat && !s.link.up then s.dirtyHost i.grp.core clean else []
      checkNamed s i .eccFatal (named foundLost) fun _ =>
      checkNamed s i .eccFatal (named fun xs => firstLine xs out) fun _ =>
        .next ((s.maintain i.grp.core x.sl.toNat clean inval (inRanges (foundLines (ps.flatMap (·.2))))).retire i id)
    if ls = [] then .next (s.retire i id)
    else if x.ranged then
      checkEntry s i .xlateFault (badRange base len) (base + len - 1) fun _ =>
        let (s, xs) := s.rangeFound i.grp.core i.grp.space base len
        act s [(i.active, xs)]
    else
      checkLanes s i .xlateFault (fun l => !canonical (i.address x l)) (i.address x) fun _ =>
        let (s, ps) := ls.foldl (fun (s, out) l =>
          let (s, xs) := s.rangeFound i.grp.core i.grp.space (i.address x l) 1
          (s, out ++ [(laneBit l, xs)])) (s, [])
        act s ps

def execClean (x : XM) (s : State) : Result := maintenance true false x s
def execInval (x : XM) (s : State) : Result := maintenance false true x s
def execCinv (x : XM) (s : State) : Result := maintenance true true x s

end Sys2Proof.Machine
end

