-- ==== Sys2Proof/Machine/Control.lean ====
section
/-! DEFINITION. Control transfer, return stacks, rejoin, barriers and the repeat prefix (03 R31, R35, R42, R43; 19 R204,
R205; 21 R231 to R234). -/

namespace Sys2Proof.Machine

/-- The direct target of an instruction (R200). -/
def XC.where (x : XC) (pc : DWord) : DWord :=
  match x.target with
  | .rel off => pc + off.signExtend 64 * 4
  | .abs a => a

/-- The entry that issues. -/
def Group.issuing (g : Group) (x : Slot) : Entry := (g.entryOf x.mask).getD (Entry.make 0 x.pc x.mask)

/-- Lanes leave the issuing entry for their targets, one entry a target; the others continue (R35). -/
def Group.transfer (g : Group) (x : Slot) (prio : BitVec 8) (ts : List (Nat × DWord)) : Group :=
  let e := g.issuing x
  let g := (g.follow x.mask).leave x.mask
  let g := g.enter (Entry.make e.prio (e.following x) (x.mask &&& ~~~maskOf (ts.map (·.1))))
  (ts.map (·.2)).eraseDups.foldl (fun g t =>
    g.enter (Entry.make prio t (maskOf ((ts.filter fun p => p.2 = t).map (·.1))))) g

/-- The issuing entry's lanes outside a mask continue; those inside it wait at the instruction (R234). -/
def Group.holdLanes (g : Group) (x : Slot) (m : LaneMask) (h : Hold) : Group :=
  let e := g.issuing x
  let g := (g.follow x.mask).leave x.mask
  let g := g.enter (Entry.make e.prio (e.following x) (x.mask &&& ~~~m))
  g.enter { Entry.make e.prio x.pc m with hold := h, after := e.after, len := x.words }

/-! ### Rejoin (R43) -/

/-- A parked lane may leave: every lane of its mask has parked at its address or stopped being live. -/
def Group.mayRejoin (g : Group) (p : Parked) : Bool :=
  (List.range g.width).all fun l =>
    !p.mask.getLsbD l || !g.live.getLsbD l || g.front.parked.any fun q => q.lane = l && q.rejoin = p.rejoin

/-- The lanes of one address leave together, with the highest priority they named (R43). -/
def regroup (ps : List Parked) : List Entry :=
  ((ps.map (·.rejoin)).eraseDups).map fun a =>
    let here := ps.filter fun p => p.rejoin = a
    Entry.make (here.foldl (fun m p => if m.toNat < p.prio.toNat then p.prio else m) 0) a
      (maskOf (here.map (·.lane)))

/-- Releases every parked lane whose condition holds. -/
def Group.rejoin (g : Group) : Group :=
  let out := g.front.parked.filter g.mayRejoin
  { g with front := { g.front with
      entries := (regroup out).foldl addEntry g.front.entries,
      parked := g.front.parked.filter fun p => !g.mayRejoin p } }

/-- What arrivals and ends of lanes set free inside a group (R43, R46). -/
def Group.settle (g : Group) (gid : Nat) : Group := (g.performAll gid).rejoin

/-- Lanes stop being live (R31). -/
def Group.cease (g : Group) (m : LaneMask) : Group := { g.leave m with live := g.live &&& ~~~m }

/-! ### Branches -/

/-- Active lanes that meet a condition go to the direct target (R232). -/
def branchIf (x : XC) (s : State) (taken : Issue → Nat → Bool) : Result :=
  withIssue s x.g fun i =>
    .next (s.onGroup i.gid fun g =>
      g.transfer i.slot x.prio (((lanes i.active).filter (taken i)).map fun l => (l, XC.where x i.slot.pc)))

def execNop (g : Guard) (s : State) : Result := withIssue s g fun i => .next (s.retire i id)
def execBra (x : XC) (s : State) : Result := branchIf x s fun _ _ => true

/-- The value that `bnz` and `bz` test (R231). -/
def branchValue (x : XC) (i : Issue) (l : Nat) : Nat := i.raw (if x.sub = 0 then .b32 else .n64) l x.a

def execBnz (x : XC) (s : State) : Result := branchIf x s fun i l => branchValue x i l != 0
def execBz (x : XC) (s : State) : Result := branchIf x s fun i l => branchValue x i l = 0

/-- The target check of `brx` and `callx` (R200, R232). -/
def checkTargets (s : State) (i : Issue) (t : Nat → DWord) (k : Unit → Result) : Result :=
  checkLanes s i .protection (fun l => (t l).toNat % 4 != 0 || 2 ^ 48 ≤ (t l).toNat) t k

/-- The target of an indirect transfer. -/
def XC.target' (x : XC) (i : Issue) (l : Nat) : DWord := BitVec.ofNat 64 (i.raw .n64 l x.a)

def execBrx (x : XC) (s : State) : Result :=
  withIssue s x.g fun i =>
    checkTargets s i (XC.target' x i) fun _ =>
      .next (s.onGroup i.gid fun g =>
        g.transfer i.slot x.prio ((lanes i.active).map fun l => (l, XC.target' x i l)))

/-! ### Return stacks (R42) -/

/-- Return addresses in the hardware stack of a lane, newest first; entries spilled. -/
def Group.stackOf (g : Group) (l : Nat) : List DWord := g.returns.at l []
def Group.spilledOf (g : Group) (l : Nat) : Nat := g.spilled.at l 0

/-- The private words of spilled entry `d`, counted from 0 (R42). -/
def Group.spillVas (g : Group) (l d : Nat) : List DWord :=
  let w : Int := g.plimit.toNat - 2 * d - 2
  [g.privateVa l w, g.privateVa l (w + 1)]

/-- The lanes whose push spills. -/
def Issue.spills (i : Issue) : List Nat := (lanes i.active).filter fun l => 8 ≤ (i.grp.stackOf l).length

/-- A private word of a spill or a refill: its lane, its address, and what a spill stores there. -/
abbrev StackWord := Nat × DWord × Word

/-- Checks and translates the private words of spills or refills (R42, R95, R232), and hands on where each lies; their memory
is looked at word by word, as each one's turn comes (R345, R356). -/
def State.reachStack (s : State) (i : Issue) (acc : Access) (ws : List StackWord)
    (act : (StackWord → Nat × Bool) → State → StackWord → State)
    (k : State → (StackWord → Nat × Bool) → Result) : Result :=
  let (s, f) := s.translateAll i.grp.core i.grp.space (ws.map fun p => { lane := p.1, va := p.2.1, acc := acc })
  let at' (w : StackWord) : Nat × Bool :=
    match f.find? fun p => p.1.lane = w.1 && p.1.va = w.2.1 with
    | some p => (p.2.pa, p.2.stable)
    | none => (0, false)
  checkFound s i f fun _ =>
  checkMiss s i f fun _ =>
  let lost := lostIn (fun s w => s.unreadableAt i.grp.core (at' w).1 4) (act at') s ws
  checkLanes s i .eccFatal (fun l => lost.any fun w => w.1 = l)
    (fun l => match lost.find? fun w => w.1 = l with
      | some w => w.2.1
      | none => 0) fun _ =>
  k s at'

/-- One word of a spill is stored; one word of a refill is read. -/
def Issue.spillWord (i : Issue) (at' : StackWord → Nat × Bool) (s : State) (w : StackWord) : State :=
  s.coreWrite i.grp.core (at' w).1 (leBytes 4 w.2.2.toNat) (at' w).2
def Issue.refillWord (i : Issue) (at' : StackWord → Nat × Bool) (s : State) (w : StackWord) : State × List Byte :=
  s.coreRead i.grp.core (at' w).1 4 (at' w).2

/-- The words of the oldest hardware entries that a call gives to private memory, the low one of each first. -/
def Issue.spilling (i : Issue) : List StackWord :=
  i.spills.flatMap fun l =>
    let old := (i.grp.stackOf l).getD 7 0
    ((i.grp.spillVas l (i.grp.spilledOf l)).zip [old.setWidth 32, (old >>> 32).setWidth 32]).map fun p => (l, p)

/-- Pushes a return address; a full stack first gives its oldest entry to private memory (R42). -/
def Group.pushReturn (g : Group) (l : Nat) (a : DWord) : Group :=
  let st := g.stackOf l
  if 8 ≤ st.length then
    { g with returns := g.returns.put l (a :: st.take 7), spilled := g.spilled.put l (g.spilledOf l + 1) }
  else { g with returns := g.returns.put l (a :: st) }

/-- A call: the spill check, the spills, the pushes, the transfer (R42, R232). -/
def callTo (x : XC) (t : Issue → Nat → DWord) (i : Issue) (s : State) : Result :=
  let low (l : Nat) : Bool :=
    8 ≤ (i.grp.stackOf l).length && decide (i.grp.plimit.toNat < 2 * i.grp.spilledOf l + 2)
  checkLanes s i .privateLimit low
    (fun l => i.grp.privateVa l ((i.grp.plimit.toNat : Int) - 2 * i.grp.spilledOf l - 2)) fun _ =>
  s.reachStack i .write i.spilling i.spillWord fun s at' =>
    let s := i.spilling.foldl (i.spillWord at') s
    .next (s.onGroup i.gid fun g =>
      let back := (g.issuing i.slot).following i.slot
      let g := (lanes i.active).foldl (fun g l => g.pushReturn l back) g
      g.transfer i.slot x.prio ((lanes i.active).map fun l => (l, t i l)))

def execCall (x : XC) (s : State) : Result :=
  withIssue s x.g fun i => callTo x (fun i _ => XC.where x i.slot.pc) i s
def execCallx (x : XC) (s : State) : Result :=
  withIssue s x.g fun i => checkTargets s i (XC.target' x i) fun _ => callTo x (XC.target' x) i s

/-- The lanes that pop, and those among them whose hardware stack is empty (R42). -/
def Issue.pops (i : Issue) : List Nat :=
  (lanes i.active).filter fun l => i.grp.stackOf l != [] || i.grp.spilledOf l != 0
def Issue.refills (i : Issue) : List Nat :=
  (lanes i.active).filter fun l => i.grp.stackOf l = [] && i.grp.spilledOf l != 0

/-- `ret` pops and transfers; a lane without a return entry stops being live (R31, R42, R232). -/
def execRet (gd : Guard) (prio : BitVec 8) (s : State) : Result :=
  withIssue s gd fun i =>
    let ws := i.refills.flatMap fun l => (i.grp.spillVas l (i.grp.spilledOf l - 1)).map fun va => (l, va, (0 : Word))
    s.reachStack i .readOwn ws (fun at' s w => (i.refillWord at' s w).1) fun s at' =>
      let (s, got) := ws.foldl (fun (s, out) w =>
        let (s, bs) := i.refillWord at' s w
        (s, out ++ [(w.1, bs)])) (s, ([] : List (Nat × List Byte)))
      let refilled (l : Nat) : DWord := BitVec.ofNat 64 (leNat ((got.filter fun p => p.1 = l).flatMap fun p => p.2))
      let back (l : Nat) : DWord := (i.grp.stackOf l).headD (if i.refills.contains l then refilled l else 0)
      .next (s.onGroup i.gid fun g =>
        let g := i.pops.foldl (fun g l =>
          if g.stackOf l = [] then { g with spilled := g.spilled.put l (g.spilledOf l - 1) }
          else { g with returns := g.returns.put l (g.stackOf l).tail }) g
        let g := g.transfer i.slot prio (i.pops.map fun l => (l, back l))
        (g.cease (i.active &&& ~~~maskOf i.pops)).settle i.gid)

/-! ### Rejoin, end, repeat -/

/-- Each active lane parks at the target with the priority and the mask as read (R43). -/
def execJoin (x : XC) (s : State) : Result :=
  withIssue s x.g fun i =>
    let m := i.uni x.a &&& i.grp.lanesAll
    checkLanes s i .memberMask (fun l => !m.getLsbD l) (fun _ => i.slot.pc) fun _ =>
      .next (s.onGroup i.gid fun g =>
        let g := g.transfer i.slot 0 []
        let g := g.leave i.active
        let new : List Parked := (lanes i.active).map fun l =>
          { lane := l, rejoin := XC.where x i.slot.pc, prio := x.prio, mask := m, origin := i.slot.pc }
        { g with front := { g.front with parked := g.front.parked ++ new } }.settle i.gid)

/-- Each active lane stops being live (R31). -/
def execExit (gd : Guard) (s : State) : Result :=
  withIssue s gd fun i =>
    .next (s.onGroup i.gid fun g => ((g.transfer i.slot 0 []).cease i.active).settle i.gid)

/-- `rep` checks the instruction after it and starts the repeat (R204, R205). -/
def execRep (steps : BitVec 4) (count : BitVec 6) (s : State) : Result :=
  withIssue s .always fun i =>
    match s.follower i with
    | .missing _ => .next s
    | _ =>
      checkEntry s i .illegalField (!s.nextRepeats i (repStart steps count)) i.slot.pc fun _ =>
        .next (s.onGroup i.gid fun g =>
          let e := g.issuing i.slot
          let g := (g.follow i.slot.mask).leave i.slot.mask
          { g with rep := repStart steps count }.enter
            { Entry.make e.prio (e.following i.slot) i.slot.mask with repeating := true })

/-! ### Barriers (R234) -/

/-- The bars of an index at which every live lane of a group waits; none where the group has not arrived. -/
def Group.barsAt (g : Group) (b : Nat) : Option (List (Option DWord × Bool)) :=
  if g.live = 0 then none
  else
    let here := g.front.entries.filterMap fun e => match e.hold with
      | .bar k m lax => if k = b then some (e.mask, m, lax) else none
      | _ => none
    if here.foldl (fun acc p => acc ||| p.1) 0 = g.live then some (here.map (·.2)) else none

/-- The groups of a team that have arrived at a barrier. -/
def State.arrivedAt (s : State) (team b : Nat) : List (Nat × Group) :=
  s.groups.filter fun p => p.2.team = team && (p.2.barsAt b).isSome

/-- The trap of an arrival that differs from the others (R234). -/
def barTrap (g : Group) : Option Trap :=
  match g.front.entries.find? fun e => e.mask != 0 && e.hold != .free with
  | some e =>
    some { cause := .memberMask, lanes := g.live, addr := e.pc, pc := e.pc, port := 0, followers := 0,
           resume := .entry e.mask e.pc e.beyond }
  | none => none

/-- A barrier of a team opens, or its arrived groups trap where their arrivals differ (R234). -/
def State.openBarrier (s : State) (team b : Nat) : State :=
  let here := s.arrivedAt team b
  let forms := (here.flatMap fun p => (p.2.barsAt b).getD []).eraseDups
  match forms with
  | [] => s
  | [(m, _)] =>
    let wanted (g : Group) : Bool := match m with
      | some m => m.getLsbD g.index
      | none => true
    if s.groups.all fun p =>
        p.2.team != team || p.2.live = 0 || !wanted p.2 || here.any fun q => q.1 = p.1 then
      here.foldl (fun s p => s.onGroup p.1 fun g =>
        (g.front.entries.filter fun e => e.hold != .free).foldl (fun g e => g.release e.mask) g) s
    else s
  | _ =>
    here.foldl (fun s p => match barTrap p.2 with
      | some t => s.takeTrap p.1 t
      | none => s) s

/-- Active lanes wait at barrier b; the barrier may open (R233, R234). -/
def execBar (x : XS) (s : State) : Result :=
  withIssue s x.g fun i =>
    let b := bits 3 0 x.i32.toNat
    let m := if x.i32.getLsbD 4 then some (i.uni x.a) else none
    let out := match m with
      | some m => !m.getLsbD i.grp.index
      | none => false
    checkEntry s i .memberMask (out && i.active != 0) i.slot.pc fun _ =>
      .next ((s.onGroup i.gid fun g =>
        g.holdLanes i.slot i.active (.bar b m (x.i32.getLsbD 5))).openBarrier i.grp.team b)

end Sys2Proof.Machine
end

