-- ==== Sys2Proof/Machine/Lifecycle.lean ====
section
/-! DEFINITION. The end of groups, teams, clusters and grids (03 R31; 05 R53, R58; 09 R102), dependences (05 R59), and
the queues and handles that entries wait for (11 R129, R131; 15 R173; 29 R331). -/

namespace Sys2Proof.Machine

/-! ### Completion records (R53) -/

/-- Translates an address outside any core, as an access at level 2 does; no miss is raised (R53, R65). -/
def State.translateBare (s : State) (space : Nat) (va : DWord) (acc : Access) : State × Xl :=
  if !canonical va then (s, .fault .xlateFault)
  else
    match s.foreman.spaces.lookup space with
    | none => (s, .miss)
    | some root =>
      match walkFrom va.toNat levels s root with
      | (s, .leaf size e) => (s, s.classify size e va.toNat acc)
      | (s, .invalid) => (s, .miss)
      | (s, .malformed) => (s, .fault .xlateFault)
      | (s, .unreadable) => (s, .fault .eccFatal)

/-- Writes bytes of one line for an agent at level 2: at the home, or across the link (R110, R342). -/
def State.writeHome (s : State) (pa : Nat) (bs : List Byte) : State :=
  if inHost pa then (s.flushL2 pa).bankWrite pa bs else s.l2Write pa bs

/-- The completion record of a grid or a rejected message, written with a release at `.sys`, or its report where it cannot
be written (R53, R345); that every address that does not translate counts as such a case is a DESIGN CHOICE (log 90), and so
is where the bytes go that lie behind the end of a page (log 100). -/
def State.complete (s : State) (space : Nat) (va : DWord) (status reason : Nat) (id : BitVec 32) : State :=
  if va = 0 then s
  else
    let bs := leBytes 4 (status + 256 * reason) ++ leBytes 4 id.toNat ++ leBytes 8 s.time
    match s.translateBare space va .write with
    | (s, .ok pa _ _) =>
      if s.cutOff pa then s.report (.notWritten (status + 256 * reason) id)
      else (pieces pa bs.length).foldl (fun s p => s.writeHome p.1 ((bs.drop (p.1 - pa)).take p.2)) s.releaseHome
    | (s, _) => s.report (.notWritten (status + 256 * reason) id)

/-! ### Ends (R31) -/

/-- A grid ends when every cluster was placed and none is left (R31, R53). -/
def State.endGrid (s : State) (gr : Nat) : State :=
  match s.grids.lookup gr with
  | none => s
  | some g =>
    if g.next = g.clusters && !s.clusters.any (fun k => k.2.grid = gr) then
      { s.complete g.space g.completion (if g.failed then 2 else 1) (if g.failed then g.reason else 0) g.id with
        grids := s.grids.drop gr }
    else s

/-- A cluster ends with its last team. -/
def State.endCluster (s : State) (k : Nat) : State :=
  match s.clusters.lookup k with
  | none => s
  | some c =>
    if s.teams.any fun t => t.2.cluster = k then s
    else { s with clusters := s.clusters.drop k }.endGrid c.grid

/-- The gang registers and the latch go with the team that holds the matrix state (R164). -/
def Core.dropLatch (c : Core) (team : Nat) : Core :=
  match c.matrix.latch with
  | some l =>
    if l.arrived.any fun i => i.team = team then { c with matrix := { c.matrix with latch := none } } else c
  | none => c

/-- The queued operations of a team leave queue 4, and the permits that they used (R31, R164; log 37). -/
def Core.dropQueue4 (c : Core) (team : Nat) : Core :=
  let gone (t : Nat) : Bool := c.queue4.any fun o => o.team = team && o.ticket = t
  { c with
    queue4 := c.queue4.filter fun o => o.team != team,
    permits := c.permits.filterMap fun p =>
      let users := p.users.filter fun u => !gone u
      if users = [] && p.users != [] && !(p.explicit && p.held) then none else some { p with users := users } }

/-- The codebook goes with the team that loaded it: a later team of the same indices finds it untagged (R31, R172). -/
def Core.dropCodebook (c : Core) (grid cluster team : Nat) : Core :=
  { c with codebook := c.codebook.filter fun b => !(b.grid = grid && b.cluster = cluster && b.team = team) }

/-- The heads of a team leave their channels, with what the channels do for it. -/
def Core.dropHeads (c : Core) (team : Nat) : Core :=
  let mine (x : Channel) : Bool := x.heads.head?.any fun h => h.issuer.team = team
  { c with channels := c.channels.map fun p =>
      (p.1, { heads := p.2.heads.filter fun h => h.issuer.team != team,
              running := if mine p.2 then none else p.2.running,
              parked := if mine p.2 then none else p.2.parked }) }

/-- The copy chains of a team end with it, and the range-scoreboard entries of their records retire, at the receivers of a
multicast too (R31, R96; log 37). -/
def State.dropChains (s : State) (core team : Nat) : State :=
  let gone := (s.core core).channels.flatMap fun p => (p.2.heads.filter fun h => h.issuer.team = team).map (·.ticket)
  let s : State := { s with cores := s.cores.map fun (p : Nat × Core) =>
    (p.1, { p.2 with scoreboard := p.2.scoreboard.filter fun r => !gone.contains r.ticket }) }
  s.onCore core fun c => c.dropHeads team

/-- The state of a team in its core is released: copy chains, matrix work, latch and codebook (R31). -/
def State.releaseTeam (s : State) (t : Nat) (m : Team) : State :=
  let s := s.dropChains m.core t
  let grid := ((s.grids.lookup m.grid).map fun g => g.id.toNat).getD 0
  let cluster := ((s.clusters.lookup m.cluster).map fun k => k.index).getD 0
  s.onCore m.core fun c => ((c.dropQueue4 t).dropLatch t).dropCodebook grid cluster m.index

/-- A team ends with its last group; its scratchpad and the rest of its state are released and its lent ways come back
(R31, R102). -/
def State.endTeam (s : State) (t : Nat) : State :=
  match s.teams.lookup t with
  | none => s
  | some m =>
    if s.groups.any fun g => g.2.team = t then s
    else
      let s := if m.floorNeed && (s.slice m.core).ways = 8 && m.saved.isNone then s.returnWays m.core else s
      { s.releaseTeam t m with teams := s.teams.drop t }.endCluster m.cluster

/-- The registers of a group are given back to the files of its core (R29). -/
def Core.freed (c : Core) : Core := { c with reused := true }

/-- The watch that an entry's `ccwait` has registered (R338). -/
def Entry.watched (e : Entry) : List Nat :=
  match e.hold with
  | .counter w => [w.ticket]
  | _ => []

/-- Every entry of a group, those of a saved frontier too. -/
def Group.allEntries (g : Group) : List Entry :=
  g.front.entries ++ match g.trap with
    | some t => t.front.entries
    | none => []

/-- The watches of a group's entries end with it. -/
def State.unwatch (s : State) (g : Group) : State :=
  let ts := g.allEntries.flatMap Entry.watched
  { s with watches := s.watches.filter fun w => !ts.contains w.ticket }

/-- A group ends when no lane is live; its registers and its place are freed (R29, R31). -/
def State.endGroup (s : State) (gid : Nat) : State :=
  match s.groups.lookup gid with
  | none => s
  | some g =>
    if g.live = 0 then
      let s := (s.unwatch g).onCore g.core fun c => (c.dropPermits gid).freed
      { s with groups := s.groups.drop gid }.endTeam g.team
    else s

/-- Every group without a live lane ends. -/
def State.endGroups (s : State) : State :=
  ((s.groups.filter fun p => p.2.live = 0).map (·.1)).foldl State.endGroup s

/-! ### Dependences (R58, R59) -/

/-- A grid has triggered: every cluster placed, every group triggered or ended. -/
def State.triggered (s : State) (gr : Nat) : Bool :=
  match s.grids.lookup gr with
  | none => true
  | some g => g.next = g.clusters && s.groups.all fun p => p.2.grid != gr || p.2.triggered

/-- Every producer of a grid has triggered or exited (R58). -/
def State.producersDone (s : State) (gr : Nat) : Bool :=
  match s.grids.lookup gr with
  | none => true
  | some g => g.producers.all s.triggered

/-! ### Queues, handles, counters -/

/-- The calls of a core without a reply yet (R320). -/
def State.callsOf (s : State) (core : Nat) : List Call :=
  ((s.core core).queue5 ++ (s.executors ++ s.walkers ++ s.assays).flatMap (fun p => p.2.queue) ++
    s.replies.map (·.call)).filter fun c => c.core = core

/-- The tickets of the operations that a queue of a core holds (R129). -/
def State.queued (s : State) (core q : Nat) : List Nat :=
  let c := s.core core
  match q with
  | 4 => c.queue4.map (·.ticket)
  | 5 => (s.callsOf core).map (·.ticket)
  | 6 => c.queue6.map (·.ticket)
  | q => (c.channels.at q Channel.initial).heads.map (·.ticket)

/-- The tickets of the `setways` of a team that are not done (R331). -/
def State.waysPending (s : State) (team : Nat) : List Nat :=
  (s.groups.filter fun p => p.2.team = team).flatMap fun p =>
    p.2.allEntries.filterMap fun e => match e.hold with
      | .ways _ own _ => some own
      | _ => none

/-- Whether some of the tickets still stand in a queue of the core or for a `setways` of the team. -/
def State.waitsFor (s : State) (core team : Nat) (ts : List Nat) : Bool :=
  ts.any fun t => (List.range 7).any (fun q => (s.queued core q).contains t) || (s.waysPending team).contains t

/-- The state of a handle: 0 free, 1 filling, 2 full, 3 draining (R173). -/
def State.handle (s : State) (team h : Nat) : Nat :=
  match s.teams.lookup team with
  | some t => t.handles.at h 0
  | none => 0

/-- A handle changes state; an `hwait` that names the new one is over (R173, R319). -/
def State.setHandle (s : State) (team h st : Nat) : State :=
  let s := s.onTeam team fun t => { t with handles := t.handles.put h st }
  { s with groups := s.groups.map fun p =>
      if p.2.team = team then (p.1, p.2.onFronts fun e => match e.hold with
        | .handle k states met => { e with hold := .handle k states (met || (k = h && states.getLsbD st)) }
        | _ => e)
      else p }


/-- The cluster of a team is frozen: its groups issue nothing, its multicasts and its matrix operations stop (R62,
R63). -/
def State.frozenTeam (s : State) (t : Nat) : Bool :=
  match (s.teams.lookup t).bind fun m => s.clusters.lookup m.cluster with
  | some k => k.frozen.isSome
  | none => false

/-- The groups that a core holds, oldest first (R37); the order among groups placed together, and the age of a resumed one, are
a DESIGN CHOICE (log 89). -/
def State.residents (s : State) (core : Nat) : List (Nat × Group) :=
  s.groups.filter fun p => p.2.core = core && p.2.resident

end Sys2Proof.Machine
end

