-- ==== Sys2Proof/Machine/Launch.lean ====
section
/-! DEFINITION. The launch engine (05 R51 to R61; 03 R28 to R30): messages, queues, placement, cancelling. -/

namespace Sys2Proof.Machine

/-! ### The message (R51, R52) -/

/-- Bytes `lo` to `lo + n - 1` of a message as a number. -/
def field (bs : List Byte) (lo n : Nat) : Nat := leNat ((bs.drop lo).take n)

/-- Whether some of the bytes from `lo` are not zero. -/
def nonZero (bs : List Byte) (lo n : Nat) : Bool := field bs lo n != 0

/-- A reserved byte or bit of a launch message is set; a kernel's message has two fields more that are not looked at
(R51, R55). -/
def messageReserved (bs : List Byte) (kernel : Bool) : Bool :=
  nonZero bs 1 3 || 4 ≤ field bs 14 1 || 64 ≤ field bs 15 1 || 4 ≤ field bs 22 1 || 8 ≤ field bs 24 1 ||
    nonZero bs 26 6 || nonZero bs 38 2 || nonZero bs 96 32 || (!kernel && 4096 ≤ field bs 36 2)

/-- The declared vector registers, the groups' width, the teams of a cluster. -/
def messageCount (bs : List Byte) : Nat := 8 * field bs 23 1
def messageWidth (bs : List Byte) : Nat := 8 * 2 ^ (field bs 22 1 % 4)
def messageTeams (bs : List Byte) : Nat := field bs 20 1 % 16 * (field bs 20 1 / 16)

/-- A shape field out of range, an alignment broken, or a difference from the entry record (R52, R212). -/
def messageShape (bs record : List Byte) : Bool :=
  field bs 16 4 = 0 || field bs 20 1 % 16 = 0 || 8 < field bs 20 1 % 16 || field bs 20 1 / 16 = 0 ||
    12 < field bs 20 1 / 16 || 12 < messageTeams bs || field bs 21 1 = 0 || 32 < field bs 21 1 ||
    field bs 23 1 = 0 || 32 < field bs 23 1 || 8 < field bs 25 1 || field bs 40 8 % 256 != 0 ||
    field bs 56 8 % 16 != 0 || messageWidth bs != field record 4 1 || field bs 23 1 != field record 5 1 ||
    field bs 24 1 % 8 != field record 6 1 % 8 || field bs 32 4 < field record 8 4

/-- Reasons 1 to 4 of R52; 0 for none. -/
def State.refusal (s : State) (bs : List Byte) (kernel : Bool) : Nat :=
  if messageReserved bs kernel then 1
  else
    match (s.foreman.objects.lookup (field bs 8 4)).bind fun o => o.entries[field bs 12 2]? with
    | none => 2
    | some (_, record) =>
      if !kernel && (s.foreman.spaces.lookup (field bs 36 2)).isNone then 2
      else if messageShape bs record then 3
      else if 524288 < field bs 21 1 * messageWidth bs * messageCount bs * 4 then 4
      else 0

/-- A live grid by its launch identifier. -/
def State.gridOf (s : State) (id : Nat) : Option Nat := (s.grids.find? fun p => p.2.id.toNat = id).map (·.1)

/-! ### Rectangles (R10, R28, R57) -/

/-- The columns of a rectangle in team order, by its lowest corner (R28). -/
def rectangle (corner rows cols : Nat) : List Nat :=
  (List.range (rows * cols)).map fun t => corner + t / cols * 12 + t % cols

/-- The lowest corners of the rectangles of a shape, in ascending order (R10). -/
def corners (rows cols : Nat) : List Nat :=
  (List.range 384).filter fun c => c % 96 / 12 + rows ≤ 8 && c % 12 + cols ≤ 12

/-- A rectangle of the shape exists among in-service columns (reason 6 of R52). -/
def State.shapeExists (s : State) (rows cols : Nat) : Bool :=
  (corners rows cols).any fun c => (rectangle c rows cols).all fun n => !s.columnsOut.contains n

/-- What a team asks of a core: groups, width, registers, scratchpad bytes, floor need. -/
structure Need where
  groups : Nat
  width : Nat
  count : Nat
  scratch : Nat
  floor : Bool
deriving DecidableEq, Repr

/-- The resident teams of a core. -/
def State.teamsAt (s : State) (core : Nat) : List (Nat × Team) :=
  s.teams.filter fun t => t.2.core = core && t.2.saved.isNone

/-- A core accepts a team (R57). -/
def State.accepts (s : State) (core : Nat) (n : Need) : Bool :=
  let gs := s.residents core
  let ts := s.teamsAt core
  !s.columnsOut.contains core && gs.length + n.groups ≤ 64 &&
    gs.foldl (fun a p => a + p.2.width * p.2.count * 4) 0 + n.groups * n.width * n.count * 4 ≤ 524288 &&
    (n.scratch = 0 || ts.all fun t => t.2.size = 0) && (!n.floor || ts.all fun t => !t.2.floorNeed)

/-- The need of a team of a grid. -/
def Grid.need (g : Grid) : Need :=
  { groups := g.groups, width := g.width, count := g.count, scratch := g.scratch, floor := g.floor }

/-- The corners at which a grid's next cluster can be placed. -/
def State.openCorners (s : State) (g : Grid) : List Nat :=
  (corners g.rows g.cols).filter fun c => (rectangle c g.rows g.cols).all fun n => s.accepts n g.need

/-- What a saved team asks of a core: its live groups (R29, R62). -/
def State.savedNeed (s : State) (g : Grid) (t : Nat) : Option Need :=
  (s.teams.lookup t).map fun m =>
    { g.need with groups := (s.groups.filter fun p => p.2.team = t).length, scratch := m.size, floor := m.floorNeed }

/-- The corners at which a saved cluster can resume (R61). -/
def State.resumeCorners (s : State) (k : Cluster) : List Nat :=
  match s.grids.lookup k.grid with
  | none => []
  | some g =>
    (corners g.rows g.cols).filter fun c =>
      ((rectangle c g.rows g.cols).zip k.teams).all fun p =>
        !s.columnsOut.contains p.1 && ((s.savedNeed g p.2).all fun n => s.accepts p.1 n)

/-- Every producer has a team placed or has exited (R58). -/
def State.mayStart (s : State) (g : Grid) : Bool :=
  g.producers.all fun p => match s.grids.lookup p with
    | none => true
    | some q => 0 < q.next

/-- The corners open to a waiting item. A launch whose shape has lost its last rectangle since it was accepted has none
and goes on waiting (DESIGN CHOICE, log 65). -/
def State.itemCorners (s : State) (i : Item) : List Nat :=
  match i with
  | .launch g => match s.grids.lookup g with
    | some g => if s.mayStart g then s.openCorners g else []
    | none => []
  | .saved k => match s.clusters.lookup k with
    | some k => s.resumeCorners k
    | none => []

/-! ### Queues (R56) -/

def State.queue (s : State) (q : Nat) : Queue := s.queues.at q Queue.initial

def State.setQueue (s : State) (q : Nat) (x : Queue) : State := { s with queues := s.queues.put q x }

/-- The grid of an item, by its key and as it stands. -/
def State.itemKey (s : State) (i : Item) : Option Nat :=
  match i with
  | .launch g => some g
  | .saved k => (s.clusters.lookup k).map fun k => k.grid
def State.itemGrid (s : State) (i : Item) : Option Grid := (s.itemKey i).bind fun g => s.grids.lookup g

/-- The launch at the head of a queue, which a saved cluster of its grid may stand for (R56, R61). -/
def State.headKey (s : State) (q : Nat) : Option Nat := (s.queue q).items.head?.bind s.itemKey

/-- The head launch of a queue is raised (R56). -/
def State.headRaised (s : State) (q : Nat) : Bool := (s.headKey q).any (s.queue q).raised.contains

/-- The priority at which the head of a queue is served: 3 once raised (R56). -/
def State.headPrio (s : State) (q : Nat) : Option (Item × Nat) :=
  match (s.queue q).items with
  | [] => none
  | i :: _ => (s.itemGrid i).map fun g => (i, if s.headRaised q then 3 else g.prio)

/-- Floor slices n and n XOR 1 are both out of service (R26). -/
def State.pairOut (s : State) : Bool := s.slicesOut.any fun n => s.slicesOut.contains (Nat.xor n 1)

/-- A floor slice waits for its remap (R26, R357). One whose pair is out of service has none to wait for: further launches
are refused, and what was accepted before goes on (DESIGN CHOICE, log 77). -/
def State.remapDue (s : State) : Bool :=
  s.slicesOut.any fun n => !s.remapped.contains n && !s.slicesOut.contains (Nat.xor n 1)

/-- The launch engine places and resumes nothing: the link is down (R343), or a slice's remap is due (R357). -/
def State.placesNothing (s : State) : Bool := !s.link.up || s.remapDue

/-- The queue to serve next: the highest priority with a head that can be placed, round-robin within it (R56). -/
def State.serve (s : State) : Option (Nat × Nat × Item) :=
  if s.placesNothing then none else [3, 2, 1, 0].findSome? fun p =>
    let start := s.rr.getD p 0
    ((List.range 64).map fun k => (start + k) % 64).findSome? fun q =>
      match s.headPrio q with
      | some (i, h) => if h = p && !(s.itemCorners i).isEmpty then some (q, p, i) else none
      | none => none

/-- An item joins the tail of a queue; an empty queue's head begins to wait (R56). -/
def State.enqueue (s : State) (q : Nat) (i : Item) : State :=
  let x := s.queue q
  s.setQueue q (if x.items = [] then { x with items := [i], since := s.time, raised := [] }
                else { x with items := x.items ++ [i] })

/-- The turn passes on after a placement; the next wait is counted from now, and the raise of the launch that was served
ends (R56). -/
def State.served (s : State) (q p : Nat) (pop : Bool) : State :=
  let x := s.queue q
  { s.setQueue q { x with items := if pop then x.items.tail else x.items, since := s.time,
                          raised := x.raised.filter fun g => s.headKey q != some g } with
    rr := s.rr.set p ((q + 1) % 64) }

/-- An item leaves a queue; where it was the head, the next one's wait begins (R56). -/
def Queue.leave (x : Queue) (i : Item) (now : Nat) : Queue :=
  { x with items := x.items.filter fun j => j != i, since := if x.items.head? = some i then now else x.since }

/-- The grid of an accepted message. -/
def makeGrid (bs : List Byte) (o : CodeObject) (pc : DWord) (id : BitVec 32) (kernel : Bool) (space prio : Nat)
    (producers : List Nat) : Grid :=
  { id := id, kernel := kernel, object := field bs 8 4, entryPc := pc, trapEntry := o.trapEntry, prio := prio,
    queue := field bs 15 1, clusters := field bs 16 4, rows := field bs 20 1 % 16, cols := field bs 20 1 / 16,
    groups := field bs 21 1, width := messageWidth bs, count := messageCount bs,
    scratch := field bs 24 1 % 4 * 131072, floor := field bs 24 1 / 4 % 2 = 1,
    plimit := BitVec.ofNat 32 (field bs 32 4), space := space, pbase := BitVec.ofNat 64 (field bs 40 8),
    args := BitVec.ofNat 64 (field bs 48 8), completion := BitVec.ofNat 64 (field bs 56 8), producers := producers,
    next := 0, failed := false, reason := 0 }

/-- The live producers that a message names; others count as exited (R54). -/
def State.producersOf (s : State) (bs : List Byte) : List Nat :=
  (List.range (field bs 25 1)).filterMap fun k => s.gridOf (field bs (64 + 4 * k) 4)

/-- An accepted message joins its queue; without any rectangle for its shape it ends at once with reason 6 (R52, R325),
and while a pair of slices is out every launch is refused (R26; log 20). One whose code object was unloaded while its
launch was held is refused with reason 2 (log 76). -/
def State.accept (s : State) (bs : List Byte) (id : BitVec 32) (kernel : Bool) (space prio self : Nat) : State :=
  match (s.foreman.objects.lookup (field bs 8 4)).bind fun o => (o.entries[field bs 12 2]?).map fun e => (o, e.1) with
  | none => s.complete space (BitVec.ofNat 64 (field bs 56 8)) 4 2 id
  | some (o, pc) =>
    if s.pairOut then s.complete space (BitVec.ofNat 64 (field bs 56 8)) 4 0 id
    else if !s.shapeExists (field bs 20 1 % 16) (field bs 20 1 / 16) then
      s.complete space (BitVec.ofNat 64 (field bs 56 8)) 4 6 id
    else
      let producers := s.producersOf bs
      { s with grids := s.grids.put self (makeGrid bs o pc id kernel space prio producers) }.enqueue
        (field bs 15 1) (.launch self)

/-- How many launches wait in a queue (R55). -/
def State.waiting (s : State) (q : Nat) : Nat :=
  ((s.queue q).items.filter fun i => match i with
    | .launch _ => true
    | .saved _ => false).length

/-- The next free launch identifier from the counter on; `fuel` is more than the live ones (R55). -/
def freeId (s : State) : Nat → BitVec 32 → BitVec 32
  | 0, id => id
  | k + 1, id =>
    if (s.gridOf id.toNat).isSome then freeId s k (if id = 0xFFFFFFFF then 0x80000000 else id + 1) else id

/-! ### Cancelling and discarding (R54) -/

/-- The operations of a team leave a core's queues, and its groups their permits; a permit that a call or an install
still uses counts until that is done (R54, R62, R298). Their registers are given back (R29). -/
def Core.forget (c : Core) (team : Nat) (gids : List Nat) : Core :=
  { c.dropHeads team with
    queue4 := c.queue4.filter fun o => o.team != team,
    queue6 := c.queue6.filter fun m => m.issuer.team != team,
    scoreboard := c.scoreboard.filter fun r => r.team != team,
    reused := true,
    permits := c.permits.filterMap fun p =>
      let users := p.users.filter fun u => !c.queue4.any fun o => o.team = team && o.ticket = u
      match p.group with
      | some g =>
        if !gids.contains g then some { p with users := users }
        else { p with users := users }.givenUp
      | none => if users = [] then none else some { p with users := users } }

/-- A cluster is discarded, with its teams and groups and what they had queued; lent ways come back (R54, R102). Its
return-free adds that are not performed yet are dropped with it (DESIGN CHOICE, log 66). -/
def State.discard (s : State) (k : Nat) : State :=
  match s.clusters.lookup k with
  | none => s
  | some c =>
    let gids := (s.groups.filter fun p => p.2.cluster = k).map (·.1)
    let s := c.teams.foldl (fun s t => match s.teams.lookup t with
      | none => s
      | some m =>
        let s := if m.saved.isSome then s else (s.onCore m.core fun c => c.forget t gids).releaseTeam t m
        if m.floorNeed && m.saved.isNone && (s.slice m.core).ways = 8 then s.returnWays m.core else s) s
    let now := s.time
    let s := (s.groups.filter fun p => p.2.cluster = k).foldl (fun s p => s.unwatch p.2) s
    { s with
      groups := s.groups.filter fun p => p.2.cluster != k,
      teams := s.teams.filter fun p => p.2.cluster != k,
      clusters := s.clusters.drop k,
      slots := s.slots.filter fun x => !gids.contains x.group,
      adds := s.adds.filter fun a => !gids.contains a.issuer.group,
      areas := s.areas.filter fun a => !c.teams.any fun t => match s.teams.lookup t with
        | some m => match m.saved with
          | some v => v.area = a.1
          | none => false
        | none => false,
      queues := s.queues.map fun p => (p.1, p.2.leave (.saved k) now) }

/-- A grid is cancelled: resident and saved clusters are discarded, unplaced ones dropped, the record says 3 (R53, R54). -/
def State.cancel (s : State) (gr : Nat) : State :=
  match s.grids.lookup gr with
  | none => s
  | some g =>
    let ks := (s.clusters.filter fun p => p.2.grid = gr).map (·.1)
    let s := ks.foldl State.discard s
    let now := s.time
    let s := { s with grids := s.grids.drop gr,
                      queues := s.queues.map fun (p : Nat × Queue) => (p.1, p.2.leave (.launch gr) now) }
    s.complete g.space g.completion 3 0 g.id

/-! ### Host messages (R51 to R54) -/

/-- A message that the launch engine refuses: its record for kind 1, its report (R52). -/
def State.refuse (s : State) (bs : List Byte) (reason : Nat) (record : Bool) : State :=
  let s := if record then
      s.complete (field bs 36 2 % 4096) (BitVec.ofNat 64 (field bs 56 8)) 4 reason (BitVec.ofNat 32 (field bs 4 4))
    else s
  s.report (.rejected (bs.take 8) reason)

/-- A launch that passes every check of R52, and of R26. -/
def State.mayQueue (s : State) (bs : List Byte) : Bool :=
  s.refusal bs false = 0 && !s.pairOut && field bs 4 4 < 2 ^ 31 && (s.gridOf (field bs 4 4)).isNone &&
    s.shapeExists (field bs 20 1 % 16) (field bs 20 1 / 16)

/-- A message stays at the host: the part is not ready and gives no credit, the link is down, or its queue is full (R55,
R343, R355). -/
def State.keepsOff (s : State) (bs : List Byte) : Bool :=
  !s.ready || !s.link.up || (field bs 0 1 = 1 && s.mayQueue bs && 256 ≤ s.waiting (field bs 15 1))

/-- Takes a message of the launch channel (R51, R52, R54). -/
def State.takeMessage (s : State) (bs : List Byte) : State :=
  if s.keepsOff bs then s
  else match field bs 0 1 with
  | 1 =>
    let reason := s.refusal bs false
    let id := field bs 4 4
    if reason != 0 then s.refuse bs reason true
    else if s.pairOut then s.refuse bs 0 true
    else if 2 ^ 31 ≤ id || (s.gridOf id).isSome then s.refuse bs 5 true
    else if !s.shapeExists (field bs 20 1 % 16) (field bs 20 1 / 16) then s.refuse bs 6 true
    else
      let (s, t) := s.ticket
      s.accept bs (BitVec.ofNat 32 id) false (field bs 36 2) (field bs 14 1) t
  | 2 =>
    if nonZero bs 1 3 || nonZero bs 8 120 then s.refuse bs 1 false
    else match s.gridOf (field bs 4 4) with
      | some gr => s.cancel gr
      | none => s
  | _ => s.refuse bs 1 false

def execLaunchMessage (bs : List Byte) (s : State) : Result := .next (s.takeMessage bs)

/-- A cancel arrives on the launch channel like any message (R54). -/
def execCancelMessage (bs : List Byte) (s : State) : Result := .next (s.takeMessage bs)

/-! ### Placement (R28, R30, R57) -/

/-- The datapath base of a new group: the range of its width that meets the lanes of the fewest resident groups, the
lowest of these (R30). -/
def datapathBase (width : Nat) (taken : List (Nat × Nat)) : Nat :=
  let meets (b : Nat) : Nat := (taken.filter fun r => r.1 < b + width && b < r.1 + r.2).length
  ((List.range (64 / width)).map fun j => width * j).foldl
    (fun best b => if meets b < meets best then b else best) 0

/-- Places group `g` of a team (R30, R31, R34, R57). -/
def State.placeGroup (s : State) (gr : Grid) (gk k kIndex t tIndex core g : Nat) : State :=
  let (s, id) := s.ticket
  let base := datapathBase gr.width ((s.residents core).map fun p => (p.2.base, p.2.width))
  let slot := (kIndex * (gr.rows * gr.cols) + tIndex) * gr.groups + g
  let live := lanesBelow gr.width
  let new : Group :=
    { team := t, cluster := k, grid := gk, index := g, width := gr.width, count := gr.count, base := base, core := core,
      space := gr.space, gridId := gr.id, clus := BitVec.ofNat 32 kIndex, teamIndex := tIndex, plimit := gr.plimit,
      pbase := gr.pbase + BitVec.ofNat 64 (slot * gr.plimit.toNat * gr.width * 4), args := gr.args,
      trapEntry := gr.trapEntry, resident := true, vregs := [], uregs := [], preds := [], live := live,
      front := { entries := [Entry.make 128 gr.entryPc live], parked := [], pool := [], waits := [] }, trap := none,
      returns := [], spilled := [], rep := 0, tmask := 0, tcause := 0, taddr := 0, gang := 0, triggered := false,
      raises := 0, flights := [], fresh := !(s.core core).reused }
  { s with groups := s.groups.put id new }

/-- A team comes to a core: where it changes the split, L1 is cleaned and invalidated first, so that its sets start empty
under the new number of ways (R91); the matrix state starts afresh for the team that needs the floor (R157, R163). -/
def State.openCore (s : State) (core : Nat) (scratch : Nat) (floor : Bool) : State :=
  let s := if scratch = 0 then s else (s.cleanL1 core fun _ => true).onCore core fun c => { c with l1 := [] }
  if floor then s.onCore core fun c => { c with matrix := Matrix.initial } else s

/-- Places team `tIndex` of a cluster; its groups acquire at `.dev` before their first instruction (R57, R325). -/
def State.placeTeam (s : State) (gr : Grid) (gk k kIndex tIndex core : Nat) : State × Nat :=
  let (s, t) := s.ticket
  let s := s.openCore core gr.scratch gr.floor
  let new : Team :=
    { grid := gk, cluster := k, index := tIndex, core := core, scratch := [], size := gr.scratch, floorNeed := gr.floor,
      handles := [], saved := none }
  let s := { s with teams := s.teams.put t new }
  let s := (List.range gr.groups).foldl (fun s g => s.placeGroup gr gk k kIndex t tIndex core g) s
  (s.acquireAt core 4 0 none, t)

/-- Places the next cluster of a grid on the rectangle at a corner (R57). -/
def State.placeCluster (s : State) (gk corner : Nat) : State :=
  match s.grids.lookup gk with
  | none => s
  | some gr =>
    let (s, k) := s.ticket
    let new : Cluster :=
      { grid := gk, index := gr.next, corner := corner, teams := [], resident := true, since := s.time,
        arrived := s.time, frozen := none }
    let s := { s with clusters := s.clusters.put k new }
    let (s, ts) := ((rectangle corner gr.rows gr.cols).zipIdx).foldl (fun (s, ts) p =>
      let (s, t) := s.placeTeam gr gk k gr.next p.2 p.1
      (s, ts ++ [t])) (s, ([] : List Nat))
    (s.onCluster k fun c => { c with teams := ts }).onGrid gk fun g => { g with next := g.next + 1 }

/-- Which of the open rectangles is used is not fixed: the hint where it is open, else the first one (R57). -/
def chooseCorner (hint : Nat) (open' : List Nat) : Nat := if open'.contains hint then hint else open'.headD 0

/-- The launch engine places the next cluster of the head launch it serves (R56, R57). -/
def execClusterPlacement (corner : Nat) (s : State) : Result :=
  match s.serve with
  | some (q, p, .launch g) =>
    let s := s.placeCluster g (chooseCorner corner (s.itemCorners (.launch g)))
    let last := match s.grids.lookup g with
      | some g => g.next = g.clusters
      | none => true
    .next (s.served q p last)
  | _ => .next s

/-- The head launch of a queue has waited 64 ms since it reached the head or since its last cluster was placed (R56;
log 67). -/
def State.raiseDue (s : State) (q : Nat) : Bool :=
  (s.headKey q).isSome && decide ((s.queue q).since + 6400000 ≤ s.time)

/-- A head launch that has waited 64 ms is raised to priority 3, until its next cluster is placed (R56). -/
def execLaunchRaised (q : Nat) (s : State) : Result :=
  .next (match s.headKey q with
    | some g =>
      if s.raiseDue q && !s.headRaised q then s.setQueue q { s.queue q with raised := (s.queue q).raised ++ [g] } else s
    | none => s)

end Sys2Proof.Machine
end

