-- ==== Sys2Proof/Machine/NearMem.lean ====
section
/-! DEFINITION. Memory-side calls and return-free adds (13 R134 to R154; 23 R277 to R286): `mcall`, `nadd`, `nfence`, the
row steps of the bank executors, the walker and the assay engine, and the replies. -/

namespace Sys2Proof.Machine

/-! ### The command word (R135, R278) -/

def cmdCode (w : DWord) : Nat := bits 3 0 w.toNat
def cmdInt (w : DWord) : Bool := bits 5 4 w.toNat = 1
def cmdAcquires (w : DWord) : Bool := w.getLsbD 6
def cmdScope (w : DWord) : Nat := bits 12 10 w.toNat
def cmdRows (w : DWord) : Nat := bits 18 13 w.toNat + 1
def cmdCount (w : DWord) : Nat := bits 28 19 w.toNat + 1
def cmdSub (w : DWord) : Nat := bits 31 29 w.toNat

/-- The largest sub-operation of a command. -/
def cmdSubs (code : Nat) : Nat :=
  match code with
  | 5 => 2
  | 6 => 5
  | _ => 0

/-- The cases of R136 and R278 that lie in the command word alone. -/
def cmdBad (w : DWord) : Bool :=
  let c := cmdCode w
  if 10 ≤ c then true
  else if 8 ≤ c then bits 63 7 w.toNat != 0 || bits 5 4 w.toNat != 0
  else
    bits 63 32 w.toNat != 0 || 2 ≤ bits 5 4 w.toNat || 5 ≤ cmdScope w || 5 ≤ bits 9 7 w.toNat ||
      cmdSubs c < cmdSub w || (c = 7 && cmdInt w)

/-- Which operands a command reads or writes (R278). -/
def readsY (code : Nat) : Bool := code = 0 || code = 1 || code = 2 || code = 7
def writesX (code : Nat) : Bool := code = 3 || code = 4 || code = 8 || code = 9
def writesY (code : Nat) : Bool := code = 1 || code = 2 || code = 7
def mayWriteZ (code : Nat) : Bool := code = 0 || code = 5 || code = 6

/-- The operands of a lane that a command uses: which (0 X, 1 Y, 2 Z), address, access (R136, R278). -/
def Issue.callOperands (i : Issue) (a : Nat) (w : DWord) (l : Nat) : List (Nat × DWord × Access) :=
  let c := cmdCode w
  let x := i.grp.vpair i.gid l a
  let y := i.grp.vpair i.gid l (a + 2)
  let z := i.grp.vpair i.gid l (a + 4)
  [(0, x, if writesX c then Access.write else .read)] ++
    (if readsY c then [(1, y, if writesY c then Access.write else .read)] else []) ++
    (if mayWriteZ c && z != 0 then [(2, z, Access.write)] else [])

/-- Checks one property of every operand; the address named is that of the lowest lane's first one that fails, in the order X,
Y, Z (R230, R280). -/
def checkOperand (s : State) (i : Issue) (c : Cause) (ops : Nat → List (Nat × DWord × Access))
    (bad : DWord → Bool) (k : Unit → Result) : Result :=
  let first (l : Nat) : Option DWord := ((ops l).find? fun o => bad o.2.1).map fun o => o.2.1
  checkLanes s i c (fun l => (first l).isSome) (fun l => (first l).getD 0) k

/-- Checks one property of the operands in the order X, Y, Z (R280). -/
def checkOperands (s : State) (i : Issue) (c : Cause) (ops : Nat → List (Nat × DWord × Access))
    (bad : Nat → DWord → Bool) (k : Unit → Result) : Result :=
  let fails (n l : Nat) : Bool := (ops l).any fun o => o.1 = n && bad n o.2.1
  let addr (n l : Nat) : DWord := match (ops l).find? fun o => o.1 = n with
    | some o => o.2.1
    | none => 0
  checkLanes s i c (fails 0) (addr 0) fun _ =>
  checkLanes s i c (fails 1) (addr 1) fun _ =>
  checkLanes s i c (fails 2) (addr 2) k

/-! ### Permits of the column (R139, R168) -/

/-- The permit that an operation of a group uses or waits for, and whether it is granted: the group's explicit one, an
implicit one that nothing uses yet, or one requested now (R139, R168). -/
def State.wantPermit (s : State) (core gid : Nat) : State × Nat × Bool :=
  let c := s.core core
  match c.permits.find? fun p => p.explicit && p.held && p.group = some gid with
  | some p => (s, p.ticket, p.granted)
  | none =>
    match c.permits.find? fun p => !p.explicit && p.held && p.group = some gid && p.users = [] with
    | some p => (s, p.ticket, p.granted)
    | none =>
      let (s, t) := s.ticket
      let new : Permit :=
        { ticket := t, group := some gid, explicit := false, granted := false, held := true, users := [] }
      (s.onCore core fun c => { c with permits := c.permits ++ [new] }, t, false)

/-- Operations begin to use a permit. -/
def Core.usePermit (c : Core) (t : Nat) (users : List Nat) : Core :=
  { c with permits := c.permits.map fun p => if p.ticket = t then { p with users := p.users ++ users } else p }

/-- An operation is done with its permit; an implicit permit, or one that its group has given up, goes with its last
user (R139, R316). -/
def Core.leavePermit (c : Core) (user : Nat) : Core :=
  { c with permits := c.permits.filterMap fun p =>
      if p.users.contains user then
        let rest := p.users.filter fun u => u != user
        if rest = [] && (!p.explicit || !p.held) then none else some { p with users := rest }
      else some p }

/-! ### Sending calls (R138) -/

def Call.code (c : Call) : Nat := cmdCode c.command

/-- The engine that a call goes to. -/
def State.engineOf (s : State) (c : Call) : Engine :=
  match c.code with
  | 8 => s.walkers.at (s.stackOf c.x) Engine.initial
  | 9 => s.assays.at (s.stackOf c.x) Engine.initial
  | _ => s.executors.at (s.bankOf c.x) Engine.initial

/-- A call joins the queue of its engine. -/
def State.deliver (s : State) (c : Call) : State :=
  let e := s.engineOf c
  let e := { e with queue := e.queue ++ [c] }
  match c.code with
  | 8 => { s with walkers := s.walkers.put (s.stackOf c.x) e }
  | 9 => { s with assays := s.assays.put (s.stackOf c.x) e }
  | _ => { s with executors := s.executors.put (s.bankOf c.x) e }

/-- Waiting calls of a core go to their engines in order, until the queue of one of them is full: the command that an engine
runs counts among its sixteen, and later calls stay behind one that waits (DESIGN CHOICE, log 84). -/
def State.feedFrom (core : Nat) : List Call → State → State
  | [], s => s
  | c :: r, s =>
    if (s.engineOf c).queue.length < 16 then
      State.feedFrom core r
        ((s.deliver c).onCore core fun k => { k with queue5 := k.queue5.filter fun d => d.ticket != c.ticket })
    else s

/-- A core's waiting calls go to their engines. -/
def State.feedCore (s : State) (core : Nat) : State := State.feedFrom core (s.core core).queue5 s

/-- Every core's waiting calls. -/
def State.feed (s : State) : State := (s.cores.map (·.1)).foldl State.feedCore s

/-! ### The order of queue 5 (R129) -/

/-- The physical bytes that a call accesses, as first address and length; none for a walk or a pass, whose bytes its
records name. -/
def Call.touches (c : Call) : Option (List (Nat × Nat)) :=
  if 8 ≤ c.code then none
  else
    let rows (a : Nat) : Nat × Nat := (a, 2048 * (cmdRows c.command - 1) + 4 * cmdCount c.command)
    some ([rows c.x] ++ (if readsY c.code then [rows c.y] else []) ++ c.z.toList.map fun z => (z, 4))

/-- Two calls may access one byte. -/
def Call.meets (a b : Call) : Bool :=
  match a.touches, b.touches with
  | some xs, some ys => xs.any fun x => ys.any fun y => x.1 < y.1 + y.2 && y.1 < x.1 + x.2
  | _, _ => true

/-- A call that has not begun waits for an earlier one of its core that may access one of its bytes and has not been
performed (R129). -/
def State.earlier (s : State) (c : Call) : Bool :=
  let standing := (s.core c.core).queue5 ++ (s.executors ++ s.walkers ++ s.assays).flatMap fun p => p.2.queue
  standing.any fun d => d.core = c.core && d.ticket < c.ticket && d.meets c

/-- A reply leaves its engine, whose queue has room again (R137, R138). -/
def State.answer (s : State) (c : Call) (v : Word) (ecc : Option Nat) : State :=
  let r : Reply := { call := c, value := v, ecc := ecc }
  { s with replies := s.replies ++ [r] }.feed

/-- An issuing group takes the trap of an engine's fault before its next instruction; where it has ended, no lane of it
live, its launch is marked failed (R171, R315). -/
def State.engineTrap (s : State) (i : Issuer) (c : Cause) (addr : DWord) : State :=
  if (s.groups.lookup i.group).any fun g => g.live != 0 then
    s.takeTrap i.group { cause := c, lanes := i.mask, addr := addr, pc := i.pc, port := i.port, followers := 0,
                         resume := .unchanged }
  else s.onGrid i.grid fun g => { g with failed := true }

/-! ### mcall (R277 to R280) -/

/-- The first row of an operand that lies outside what R280 order 8 allows. -/
def extentFails (w va : DWord) (pa : Nat) : Option DWord :=
  if 512 < va.toNat % 2048 / 4 + cmdCount w then some va
  else
    (List.range (cmdRows w)).findSome? fun k =>
      if pa / 0x200000 != (pa + 2048 * k) / 0x200000 then some (va + BitVec.ofNat 64 (2048 * k)) else none

/-- The rejoin address. -/
def XS.rejoin (x : XS) (pc : DWord) : DWord := pc + (x.i32.setWidth 24).signExtend 64 * 4

/-- The first register of the operand block. -/
def Src.index : Src → Nat
  | .v n => n.toNat
  | .g n => n.toNat
  | _ => 0

/-- The permit for a call: used where granted, otherwise the entry waits for it (R139). -/
def withPermit (needed : Bool) (s : State) (i : Issue) (k : State → Option Nat → Result) : Result :=
  if needed then
    match s.wantPermit i.grp.core i.gid with
    | (s, t, true) => k s (some t)
    | (s, t, false) =>
      .next (s.onGroup i.gid fun g => g.onEntry i.slot.mask fun e => { e with hold := .permit t, len := i.slot.words })
  else k s none

/-- The calls of the active lanes are placed in queue 5 and the lanes enter the waiting pool (R44, R279). -/
def State.sendCalls (s : State) (i : Issue) (x : XS) (w : DWord) (permit : Option Nat)
    (pa : Nat → Nat → Nat) (z : Nat → Option Nat) : State :=
  let a := Src.index x.a
  let ls := lanes i.active
  let (s, calls) := ls.foldl (fun (s, out) l =>
    let (s, t) := s.ticket
    let c : Call :=
      { ticket := t, core := i.grp.core, issuer := i.issuer, lane := l, command := w, x := pa l 0, y := pa l 1,
        z := z l, vx := i.grp.vpair i.gid l a, a := i.grp.vreg i.gid l (a + 6), d := x.d.n.toNat, permit := permit,
        start := 0, tally := 0, kept := [] }
    (s, out ++ [c])) (s, ([] : List Call))
  let m := i.uni x.c &&& i.grp.lanesAll
  let waiting : List Pooled := calls.map fun (c : Call) =>
    { lane := c.lane, ticket := c.ticket, rejoin := XS.rejoin x i.slot.pc, prio := BitVec.ofNat 8 (x.i32.toNat / 2 ^ 24),
      mask := m, origin := i.slot.pc }
  let s := s.onCore i.grp.core fun c =>
    { (match permit with
       | some t => c.usePermit t (calls.map fun (c : Call) => c.ticket)
       | none => c) with queue5 := c.queue5 ++ calls }
  let s := s.onGroup i.gid fun g =>
    let g := (g.transfer i.slot 0 []).leave i.active
    { g with front := { g.front with pool := g.front.pool ++ waiting } }
  s.feedCore i.grp.core

/-- What the operand of a lane translates to: 0 X, 1 Y, 2 Z; none where the command does not use it. -/
def operandXl (ops : Nat → List (Nat × DWord × Access)) (f : Found) (l n : Nat) : Option Xl :=
  (((ops l).zip (f.filter fun p => p.1.lane = l)).find? fun p => p.1.1 = n).map fun p => p.2.2

/-- The physical address of an operand. -/
def operandPa (ops : Nat → List (Nat × DWord × Access)) (f : Found) (l n : Nat) : Nat :=
  ((operandXl ops f l n).map Xl.pa).getD 0

/-- An operand that translates into a bank-contiguous frame of main DRAM (R24). -/
def bankFrame (o : Option Xl) : Bool :=
  match o with
  | some (.ok p _ bc) => inDram p && bc
  | _ => false

/-- An operand lies where R280 does not allow it: X and Y in one bank's frames, Z in the same memory stack. -/
def State.misplaced (s : State) (ops : Nat → List (Nat × DWord × Access)) (f : Found) (l n : Nat) : Bool :=
  let pa := operandPa ops f l
  (operandXl ops f l n).isSome && (match n with
    | 0 => !bankFrame (operandXl ops f l 0)
    | 1 => !bankFrame (operandXl ops f l 1) || s.bankOf (pa 1) != s.bankOf (pa 0)
    | _ => !inDram (pa 2) || s.stackOf (pa 2) != s.stackOf (pa 0))

/-- The first row of a lane's operands that reaches too far. -/
def operandBeyond (w : DWord) (ops : Nat → List (Nat × DWord × Access)) (f : Found) (l : Nat) : Option DWord :=
  (ops l).findSome? fun o =>
    if o.1 < 2 && cmdCode w < 8 then extentFails w o.2.1 (operandPa ops f l o.1) else none

def execMcall (x : XS) (s : State) : Result :=
  withIssue s x.g fun i =>
    if i.active = 0 then .next (s.retire i id)
    else
      let w := i.uni x.b
      let c := cmdCode w
      let ops := i.callOperands (Src.index x.a) w
      let pcAt (_ : Nat) : DWord := i.slot.pc
      checkEntry s i .illegalField (cmdBad w) i.slot.pc fun _ =>
      checkLanes s i .memberMask (fun l => !(i.uni x.c).getLsbD l) pcAt fun _ =>
      checkLanes s i .illegalField (fun l =>
        let a := (i.grp.vreg i.gid l ((Src.index x.a) + 6)).toNat
        c = 8 && (a = 0 || 65536 < a)) pcAt fun _ =>
      checkOperands s i .atomicAlign ops (fun n va => va.toNat % (if n = 0 && 8 ≤ c then 64 else 4) != 0) fun _ =>
      checkOperand s i .xlateFault ops (fun va => !canonical va) fun _ =>
      let (s, f) := s.translateAll i.grp.core i.grp.space ((lanes i.active).flatMap fun l =>
        (ops l).map fun o => { lane := l, va := o.2.1, acc := o.2.2 })
      checkFound s i f fun _ =>
      let found (l : Nat) : Bool := Found.whole f l
      let first (l : Nat) : DWord := match (ops l).find? fun o => s.misplaced ops f l o.1 with
        | some o => o.2.1
        | none => 0
      checkLanes s i .protection (fun l => found l && (ops l).any fun o => s.misplaced ops f l o.1) first fun _ =>
      checkLanes s i .protection (fun l => found l && (operandBeyond w ops f l).isSome)
        (fun l => (operandBeyond w ops f l).getD 0) fun _ =>
      checkMiss s i f fun _ =>
      withPermit (c < 8 && 16 < cmdRows w) s i fun s permit =>
        .next (s.sendCalls i x w permit (operandPa ops f) fun l => (operandXl ops f l 2).map Xl.pa)

/-! ### Row steps (R140 to R145) -/

/-- Element arithmetic of a command's type (R142). -/
def elemAdd (int : Bool) (a b : Word) : Word := if int then a + b else fadd a b
def elemMul (int : Bool) (a b : Word) : Word := if int then a * b else fmul a b
def elemFma (int : Bool) (a b c : Word) : Word := if int then a * b + c else ffma a b c
def elemMax (int : Bool) (a b : Word) : Word := if int then (if a.toInt < b.toInt then b else a) else fmax a b
def elemMin (int : Bool) (a b : Word) : Word := if int then (if b.toInt < a.toInt then b else a) else fmin a b

/-- The operator with which partials are formed and combined: 0 add, 1 max, 2 min. -/
def partialStep (sub : Nat) (int : Bool) (a b : Word) : Word :=
  match sub with
  | 0 => elemAdd int a b
  | 1 => elemMax int a b
  | _ => elemMin int a b

/-- The identity of an operation (R142). -/
def partialStart (sub : Nat) (int : Bool) : Word :=
  match sub, int with
  | 1, false => 0xFF800000
  | 2, false => 0x7F800000
  | 1, true => 0x80000000
  | 2, true => 0x7FFFFFFF
  | _, _ => 0

/-- The sub-operation with which a command reduces; `dot` adds. -/
def reduces (c : Call) : Nat := if c.code = 5 then cmdSub c.command else 0

/-- `n` elements of the arrays. -/
def elements (m : Memory) (pa : Nat) : Nat → List Word
  | 0 => []
  | n + 1 => BitVec.ofNat 32 (m.readNat pa 4) :: elements m (pa + 4) n

/-- The bytes of a list of elements. -/
def elementBytes (xs : List Word) : List Byte := xs.flatMap fun x => leBytes 4 x.toNat

/-- The pairwise combination of partials (R142). -/
def combinePairs (op : Word → Word → Word) : List Word → List Word
  | a :: b :: r => op a b :: combinePairs op r
  | r => r

/-- The test of `cmpscan` (R141). -/
def scanTest (c : Call) (x : Word) : Bool :=
  if cmdInt c.command then condInt (cmdSub c.command) x.toInt c.a.toInt
  else condFloat (cmdSub c.command) (Flt.f32.value x.toNat) (Flt.f32.value c.a.toNat)

/-- The physical addresses of the segments that row step `k` reads (R140). -/
def Call.segments (c : Call) (k : Nat) : List Nat :=
  (if c.code = 4 then [] else [c.x + 2048 * k]) ++ (if readsY c.code then [c.y + 2048 * k] else [])

/-- Whether a line of a physical range cannot be read (R356; log 16). -/
def State.badRead (s : State) (pa n : Nat) : Bool := s.badLines.any fun b => pa < (b + 1) * 128 && b * 128 < pa + n

/-- What row step `k` of a call writes: address and elements (R141). -/
def Call.written (c : Call) (m : Memory) (k : Nat) : List (Nat × List Word) :=
  let n := cmdCount c.command
  let int := cmdInt c.command
  let x := elements m (c.x + 2048 * k) n
  let y := elements m (c.y + 2048 * k) n
  match c.code with
  | 1 => [(c.y + 2048 * k, (x.zip y).map fun p => elemFma int c.a p.1 p.2)]
  | 2 => [(c.y + 2048 * k, (x.zip y).map fun p => elemAdd int p.1 p.2)]
  | 3 => [(c.x + 2048 * k, x.map (elemMul int c.a))]
  | 4 => [(c.x + 2048 * k, List.replicate n c.a)]
  | 7 => [(c.y + 2048 * k, (x.zip y).map fun p => elemAdd int p.1 p.2)]
  | _ => []

/-- The partials, first match and count after row step `k` (R141, R142). -/
def Engine.stepped (e : Engine) (c : Call) (m : Memory) (k : Nat) : Engine :=
  let n := cmdCount c.command
  let int := cmdInt c.command
  let x := elements m (c.x + 2048 * k) n
  let y := elements m (c.y + 2048 * k) n
  let fold (f : Word → Word → Word → Word) : List Word :=
    ((x.zip y).zipIdx).foldl (fun ps p => ps.set (p.2 % 16) (f (ps.getD (p.2 % 16) 0) p.1.1 p.1.2)) e.partials
  let hits := (x.zipIdx.filter fun p => scanTest c p.1).map fun p => 512 * k + p.2
  match c.code with
  | 0 => { e with partials := fold fun p a b => elemFma int a b p, step := k + 1 }
  | 5 => { e with partials := fold fun p a _ => partialStep (reduces c) int p a, step := k + 1 }
  | 6 => { e with first := e.first.or hits.head?, tally := e.tally + hits.length, step := k + 1 }
  | _ => { e with step := k + 1 }

/-- The reply value and the word for Z (R141, R142). -/
def Engine.result (e : Engine) (c : Call) : Word × Word :=
  let op := partialStep (reduces c) (cmdInt c.command)
  match c.code with
  | 0 | 5 =>
    let v := (combinePairs op (combinePairs op (combinePairs op (combinePairs op e.partials)))).headD 0
    (v, v)
  | 6 => (match e.first with
    | some i => BitVec.ofNat 32 i
    | none => 0xFFFFFFFF, BitVec.ofNat 32 e.tally)
  | _ => (0, 0)

/-- The engine takes its first command (R138, R142). -/
def Engine.begun (e : Engine) (c : Call) : Engine :=
  if e.running then e
  else
    { e with running := true, step := c.start, tally := c.tally, first := none,
             partials := List.replicate 16 (partialStart (reduces c) (cmdInt c.command)) }

/-- The command is over. -/
def Engine.ended (e : Engine) : Engine :=
  { Engine.initial with queue := e.queue.tail, refreshUntil := e.refreshUntil }

/-- A return-free add is performed at its bank (R150). One whose word cannot be read adds nothing, and the lane that sent it
takes `ECC_FATAL` as for an engine's fault (R356; DESIGN CHOICE, log 16). -/
def State.performAdd (s : State) (a : Add) : State :=
  let s : State := { s with adds := s.adds.filter fun b => b.ticket != a.ticket }
  if s.badRead a.pa 4 then s.engineTrap a.issuer .eccFatal a.va
  else s.bankWrite a.pa (leBytes 4 (fadd (BitVec.ofNat 32 (s.mem.readNat a.pa 4)) a.value).toNat)

/-- The oldest add that waits at a bank. -/
def State.bankAdd (s : State) (bank : Nat) : Option Add := s.adds.find? fun a => s.bankOf a.pa = bank

/-- A step boundary of a bank at which something is queued: where nothing has been served since the last step, the oldest
add is (R146; log 73). -/
def State.boundary (s : State) (bank : Nat) (e : Engine) : State :=
  match s.bankAdd bank with
  | some a => if e.running && e.served = 0 then s.performAdd a else s
  | none => s

/-- One row step of the executor of a bank, where its command in progress is of this code, an earlier call of its core
does not hold it back and refresh does not hold the bank. After the last step Z is written and the reply leaves; the
executor's acquire and release move no bytes, since it reads and writes at the arrays (R115, R129, R137, R140 to
R146). -/
def State.rowStep (s : State) (code bank : Nat) : State :=
  let e := s.executors.at bank Engine.initial
  match e.queue with
  | [] => s
  | c :: _ =>
    if c.code != code || s.cycles < e.refreshUntil || (!e.running && s.earlier c) then s
    else
      let s := s.boundary bank e
      let e := { e.begun c with served := 0 }
      let k := e.step
      if (c.segments k).any fun pa => s.badRead pa (4 * cmdCount c.command) then
        ({ s with executors := s.executors.put bank e.ended }.answer c 0 (some (2048 * k)))
      else
        let e := e.stepped c s.mem k
        let s := (c.written s.mem k).foldl (fun s p => s.bankWrite p.1 (elementBytes p.2)) s
        if e.step < cmdRows c.command then { s with executors := s.executors.put bank e }
        else
          let (v, z) := e.result c
          let s := match c.z with
            | some a => s.bankWrite a (leBytes 4 z.toNat)
            | none => s
          ({ s with executors := s.executors.put bank e.ended }.answer c (v) none)

def execDot (bank : Nat) (s : State) : Result := .next (s.rowStep 0 bank)
def execAxpy (bank : Nat) (s : State) : Result := .next (s.rowStep 1 bank)
def execAddv (bank : Nat) (s : State) : Result := .next (s.rowStep 2 bank)
def execScale (bank : Nat) (s : State) : Result := .next (s.rowStep 3 bank)
def execFill (bank : Nat) (s : State) : Result := .next (s.rowStep 4 bank)
def execRed (bank : Nat) (s : State) : Result := .next (s.rowStep 5 bank)
def execCmpscan (bank : Nat) (s : State) : Result := .next (s.rowStep 6 bank)
def execVadd (bank : Nat) (s : State) : Result := .next (s.rowStep 7 bank)

/-- Refresh takes a bank for 255 cycles at a step boundary (R145). -/
def execRefresh (bank : Nat) (s : State) : Result :=
  let e := s.executors.at bank Engine.initial
  .next (if s.cycles < e.refreshUntil then s
    else { s with executors := s.executors.put bank { e with refreshUntil := s.cycles + 255 } })

/-! ### The embedding walker (R147 to R149) -/

/-- How a unit's own access ends: done, refused, or an uncorrectable error (R149, R154). -/
inductive Reached (α : Type) where
  | ok (x : α)
  | refused
  | ecc
deriving DecidableEq, Repr

/-- A unit translates an address under a root table for main DRAM (R147, R282). A table that cannot be read counts as one that
does not translate (DESIGN CHOICE, log 51). -/
def State.unitTranslate (s : State) (space : Nat) (va : DWord) (acc : Access) : State × Option Nat :=
  match s.translateBare space va acc with
  | (s, .ok pa _ _) => (s, if inDram pa then some pa else none)
  | (s, _) => (s, none)

/-- A unit reads four bytes at the bank arrays. -/
def State.unitRead (s : State) (space : Nat) (va : DWord) : State × Reached Word :=
  match s.unitTranslate space va .read with
  | (s, none) => (s, .refused)
  | (s, some pa) => (s, if s.badRead pa 4 then .ecc else .ok (BitVec.ofNat 32 (s.mem.readNat pa 4)))

/-- A lookup record (R147). -/
structure Lookup where
  indices : DWord
  count : Nat
  length : Nat
  pooling : Nat
  table : DWord
  weights : DWord
  output : DWord
  rows : Nat
deriving DecidableEq, Repr

/-- The record of 64 bytes. -/
def lookupOf (bs : List Byte) : Lookup :=
  { indices := BitVec.ofNat 64 (leNat (bs.take 8)), count := leNat ((bs.drop 8).take 4),
    length := leNat ((bs.drop 12).take 2), pooling := leNat ((bs.drop 14).take 1),
    table := BitVec.ofNat 64 (leNat ((bs.drop 16).take 8)), weights := BitVec.ofNat 64 (leNat ((bs.drop 24).take 8)),
    output := BitVec.ofNat 64 (leNat ((bs.drop 32).take 8)), rows := leNat ((bs.drop 40).take 4) }

/-- Status 3 (R149): a reserved field, the pooling, an alignment, or a count or length outside its range (log 26). -/
def lookupBad (bs : List Byte) (r : Lookup) : Bool :=
  leNat ((bs.drop 15).take 1) != 0 || leNat ((bs.drop 48).take 16) != 0 || 4 ≤ r.pooling || r.indices.toNat % 4 != 0 ||
    r.table.toNat % 4 != 0 || r.output.toNat % 4 != 0 || (r.pooling = 3 && r.weights.toNat % 4 != 0) ||
    r.length = 0 || 1024 < r.length || 1048576 < r.count

/-- One element pooled (R148). -/
def poolStep (pooling : Nat) (w acc t : Word) : Word :=
  match pooling with
  | 2 => fmax acc t
  | 3 => ffma w t acc
  | _ => fadd acc t

/-- Pools one table row into the accumulators, element by element; `va` is the row's next element. -/
def State.poolRow (s : State) (space pooling : Nat) (w : Word) : DWord → List Word → State × Reached (List Word)
  | _, [] => (s, .ok [])
  | va, a :: r =>
    match s.unitRead space va with
    | (s, .ok t) =>
      match State.poolRow s space pooling w (va + 4) r with
      | (s, .ok out) => (s, .ok (poolStep pooling w a t :: out))
      | (s, e) => (s, e)
    | (s, .refused) => (s, .refused)
    | (s, .ecc) => (s, .ecc)

/-- Pools the rows that `n` indices name, from index number `j` on; ends with a status other than 0, or the sums. -/
def State.poolAll (s : State) (space : Nat) (r : Lookup) : Nat → Nat → List Word → State × Nat × List Word
  | 0, _, acc => (s, 0, acc)
  | n + 1, j, acc =>
    match s.unitRead space (r.indices + BitVec.ofNat 64 (4 * j)) with
    | (s, .refused) => (s, 2, acc)
    | (s, .ecc) => (s, 4, acc)
    | (s, .ok ix) =>
      if r.rows ≤ ix.toNat then (s, 1, acc)
      else
        let (s, w) := if r.pooling = 3 then s.unitRead space (r.weights + BitVec.ofNat 64 (4 * j)) else (s, .ok 0)
        match w with
        | .refused => (s, 2, acc)
        | .ecc => (s, 4, acc)
        | .ok w =>
          match s.poolRow space r.pooling w (r.table + BitVec.ofNat 64 (4 * r.length * ix.toNat)) acc with
          | (s, .ok acc) => State.poolAll s space r n (j + 1) acc
          | (s, .refused) => (s, 2, acc)
          | (s, .ecc) => (s, 4, acc)

/-- Translates the output elements for writing. -/
def State.outputs (s : State) (space : Nat) : Nat → DWord → State × Option (List Nat)
  | 0, _ => (s, some [])
  | n + 1, va =>
    match s.unitTranslate space va .write with
    | (s, none) => (s, none)
    | (s, some pa) =>
      match State.outputs s space n (va + 4) with
      | (s, some out) => (s, some (pa :: out))
      | (s, none) => (s, none)

/-- Performs one record and answers its status (R147 to R149). Where several apply, status 3 comes first and then the one that
the walk meets first: index by index, the index itself, its weight, its row's elements, and after the last index the outputs
(DESIGN CHOICE, log 51). -/
def State.lookup (s : State) (space : Nat) (bs : List Byte) : State × Nat :=
  let r := lookupOf bs
  if lookupBad bs r then (s, 3)
  else
    let start : Word := if r.pooling = 2 then 0xFF800000 else 0
    match s.poolAll space r r.count 0 (List.replicate r.length start) with
    | (s, 0, acc) =>
      let out := if r.count = 0 then List.replicate r.length 0
        else if r.pooling = 1 then acc.map fun x =>
          let q := (Flt.f32.value x.toNat).div (.fin false r.count 0)
          BitVec.ofNat 32 (Flt.f32.rn q.1 q.2)
        else acc
      match s.outputs space r.length r.output with
      | (s, none) => (s, 2)
      | (s, some pas) =>
        ((pas.zip out).foldl (fun s (p : Nat × Word) => s.bankWrite p.1 (leBytes 4 p.2.toNat)) s, 0)
    | (s, st, _) => (s, st)

/-- The walker of a memory stack takes one record of its walk; after the last one the reply leaves (R147, R149). -/
def execWalk (stack : Nat) (s : State) : Result :=
  let e := s.walkers.at stack Engine.initial
  match e.queue with
  | [] => .next s
  | c :: _ =>
    if !e.running && s.earlier c then .next s
    else
    let e := e.begun c
    let pa := c.x + 64 * e.step
    if s.badRead pa 64 then
      .next ({ s with walkers := s.walkers.put stack e.ended }.answer c 0 (some (64 * e.step)))
    else
      let (s, st) := s.lookup c.issuer.space (s.mem.readBytes pa 64)
      let s := s.bankWrite (pa + 44) (leBytes 4 st)
      let e := { e with step := e.step + 1, tally := e.tally + (if st = 0 then 0 else 1) }
      if e.step < c.a.toNat then .next { s with walkers := s.walkers.put stack e }
      else
        .next ({ s with walkers := s.walkers.put stack e.ended }.answer c (BitVec.ofNat 32 e.tally) none)

/-! ### The assay engine (R152 to R154) -/

/-- A pass descriptor (R152). -/
structure Pass where
  source : DWord
  count : Nat
  host : Bool
  all : Bool
  table : DWord
  target : DWord
deriving DecidableEq, Repr

/-- The descriptor of 64 bytes. -/
def passOf (bs : List Byte) : Pass :=
  { source := BitVec.ofNat 64 (leNat (bs.take 8)), count := leNat ((bs.drop 8).take 4),
    host := leNat ((bs.drop 12).take 1) = 1, all := leNat ((bs.drop 13).take 1) = 1,
    table := BitVec.ofNat 64 (leNat ((bs.drop 16).take 8)), target := BitVec.ofNat 64 (leNat ((bs.drop 24).take 8)) }

/-- Status 7 (R152, R154). -/
def passBad (bs : List Byte) (p : Pass) : Bool :=
  p.source.toNat % 65536 != 0 || p.count = 0 || 1048576 < p.count || 2 ≤ leNat ((bs.drop 12).take 1) ||
    2 ≤ leNat ((bs.drop 13).take 1) || leNat ((bs.drop 14).take 2) != 0 || p.table.toNat % 16 != 0 ||
    p.target.toNat % (if p.host then 65536 else 0x200000) != 0 || leNat ((bs.drop 40).take 24) != 0

/-- A digest-table entry: bytes 0 to 15 of the SHA-384 digest (R153). -/
def blockDigest (bs : List Byte) : List Byte := (sha384 bs).take 16

/-- The bytes of block `b` and the address of its table entry, or a status (R153, R154). The entry is translated as a write, also
where the block turns out unchanged (DEDUCED, log 52). -/
def State.passBlock (s : State) (space : Nat) (p : Pass) (b : Nat) : State × Nat × List Byte × Nat :=
  match s.unitTranslate space (p.source + BitVec.ofNat 64 (65536 * b)) .read with
  | (s, none) => (s, 8, [], 0)
  | (s, some pa) =>
    match s.unitTranslate space (p.table + BitVec.ofNat 64 (16 * b)) .write with
    | (s, none) => (s, 8, [], 0)
    | (s, some entry) =>
      if s.badRead pa 65536 || s.badRead entry 16 then (s, 9, [], 0) else (s, 0, s.mem.readBytes pa 65536, entry)

/-- Whether a block is changed (R153). -/
def State.blockChanged (s : State) (p : Pass) (bs : List Byte) (entry : Nat) : Bool :=
  p.all || blockDigest bs != s.mem.readBytes entry 16

/-- The pass ends: status and count are written, then the reply leaves (R152, R154, R282). A pass to the host releases at
`.sys` first (R153). -/
def State.endPass (s : State) (stack : Nat) (e : Engine) (c : Call) (host : Bool) (status : Nat) : State :=
  let s := if host then s.releaseHome else s
  let s := s.bankWrite (c.x + 32) (leBytes 4 status ++ leBytes 4 e.tally)
  ({ s with assays := s.assays.put stack e.ended }.answer c (BitVec.ofNat 32 e.tally) none)

/-- One block of a pass to the host (R153). -/
def State.passToHost (s : State) (stack : Nat) (e : Engine) (c : Call) (p : Pass) : State :=
  match s.passBlock c.issuer.space p e.step with
  | (s, 0, bs, entry) =>
    let next (s : State) (e : Engine) : State :=
      if e.step < p.count then { s with assays := s.assays.put stack e } else s.endPass stack e c true 0
    if s.blockChanged p bs entry then
      match s.translateBare c.issuer.space (p.target + BitVec.ofNat 64 (65536 * e.step)) .write with
      | (s, .ok pa _ _) =>
        if !inHost pa then s.endPass stack e c true 8
        else if !s.link.up then s.endPass stack e c true 9
        else
          next ((s.bankWrite pa bs).bankWrite entry (blockDigest bs))
            { e with step := e.step + 1, tally := e.tally + 1 }
      | (s, _) => s.endPass stack e c true 8
    else next s { e with step := e.step + 1 }
  | (s, st, _, _) => s.endPass stack e c true st

/-- The blocks of the extent that a pass reaches, as the new content of the extent and the mask of changed blocks; or a
status. `old` is the extent's current content. -/
def State.passExtent (s : State) (space : Nat) (p : Pass) (first : Nat) (old : List Byte) :
    State × Nat × List Byte × Nat :=
  (List.range (min 32 (p.count - first))).foldl (fun (s, st, out, mask) j =>
    if st != 0 then (s, st, out, mask)
    else
      match s.passBlock space p (first + j) with
      | (s, 0, bs, entry) =>
        if s.blockChanged p bs entry then
          (s, 0, out.take (65536 * j) ++ bs ++ out.drop (65536 * (j + 1)), mask + 2 ^ j)
        else (s, 0, out, mask)
      | (s, st, _, _) => (s, st, out, mask)) (s, 0, old, 0)

/-- A block of an extent that an install keeps, because it is unchanged or the pass does not reach it, lies in a flash line that
cannot be read (R153, R356; log 16). -/
def State.keptLost (s : State) (pa mask : Nat) : Bool :=
  (List.range 32).any fun j => !mask.testBit j && s.badRead (pa / 0x200000 * 0x200000 + 65536 * j) 65536

/-- One extent of a pass to flash: installed as `finstall` installs where it holds a changed block (R153, R177). Its target is
translated first (DEDUCED, log 52). An
uncorrectable error in the extent's kept blocks stops the pass with status 9 (R154; which of 5 and 9 it is, is a DESIGN CHOICE,
log 16). -/
def State.passToFlash (s : State) (stack : Nat) (e : Engine) (c : Call) (p : Pass) : State :=
  match e.first with
  | some _ => s
  | none =>
    match s.translateBare c.issuer.space (p.target + BitVec.ofNat 64 (65536 * e.step)) .read with
    | (s, .ok pa _ _) =>
      if !inFlash pa then s.endPass stack e c false 8
      else
        let fs := (pa - 0x400000000000) / 0x10000000000
        let f := s.flash.at fs Flash.initial
        let extent := (pa - 0x400000000000) / 0x200000 % 524288
        if 8 ≤ f.installs.length then s
        else
          match s.passExtent c.issuer.space p e.step (s.flashMem.readBytes (s.flashAddr pa) 0x200000) with
          | (s, 0, content, mask) =>
            if mask = 0 then
              let e := { e with step := e.step + 32 }
              if e.step < p.count then { s with assays := s.assays.put stack e } else s.endPass stack e c false 0
            else if s.keptLost pa mask then s.endPass stack e c false 9
            else
              let (s, t) := s.ticket
              let new : Install :=
                { ticket := t, column := c.core, group := some c.issuer.group, extent := extent, source := [],
                  inline := some content, completion := 0, busy := f.installs.any fun i => i.extent = extent,
                  assay := some c.ticket, deadline := none, permit := none, tries := 0 }
              { s with assays := s.assays.put stack { e with first := some mask },
                       flash := s.flash.put fs { f with installs := f.installs ++ [new] } }
          | (s, st, _, _) => s.endPass stack e c false st
    | (s, _) => s.endPass stack e c false 8

/-- The engine of a call and the call, where a pass waits for flash. -/
def State.waitingPass (s : State) (ticket : Nat) : Option (Nat × Engine × Call) :=
  s.assays.findSome? fun p => match p.2.queue with
    | c :: _ => if c.ticket = ticket && p.2.first.isSome then some (p.1, p.2, c) else none
    | [] => none

/-- The bytes of the descriptor that a running pass holds. -/
def Engine.descriptor (e : Engine) : List Byte := elementBytes e.partials

/-- An install of a pass has completed with a code: the entries of its changed blocks are updated, or the pass stops
(R153, R154). The count of blocks streamed takes those whose entries were updated (DESIGN CHOICE, log 86). -/
def State.passInstalled (s : State) (ticket : Nat) (content : List Byte) (code : Nat) : State :=
  match s.waitingPass ticket with
  | none => s
  | some (stack, e, c) =>
    let p := passOf e.descriptor
    let mask := e.first.getD 0
    let e := { e with first := none }
    if code != 0 then s.endPass stack e c false code
    else
      let (s, n, whole) := (List.range 32).foldl (fun (s, n, whole) j =>
        if whole && mask.testBit j then
          match s.unitTranslate c.issuer.space (p.table + BitVec.ofNat 64 (16 * (e.step + j))) .write with
          | (s, some entry) =>
            (s.bankWrite entry (blockDigest ((content.drop (65536 * j)).take 65536)), n + 1, true)
          | (s, none) => (s, n, false)
        else (s, n, whole)) (s, 0, true)
      let e := { e with step := e.step + 32, tally := e.tally + n }
      if !whole then s.endPass stack e c false 8
      else if e.step < p.count then { s with assays := s.assays.put stack e } else s.endPass stack e c false 0

/-- The assay engine of a memory stack takes the next block, or the next extent, of its pass (R153). -/
def execAssay (stack : Nat) (s : State) : Result :=
  let e := s.assays.at stack Engine.initial
  match e.queue with
  | [] => .next s
  | c :: _ =>
    if !e.running && s.earlier c then .next s
    else
    let fresh := !e.running && c.kept = []
    let e := if fresh then { e.begun c with partials := elements s.mem c.x 16 }
      else if e.running then e else { e.begun c with partials := c.kept }
    let p := passOf e.descriptor
    if fresh && s.badRead c.x 64 then
      .next ({ s with assays := s.assays.put stack e.ended }.answer c 0 (some 0))
    else if fresh && passBad e.descriptor p then .next (s.endPass stack e c false 7)
    else .next (if p.host then s.passToHost stack e c p else s.passToFlash stack e c p)

/-! ### Replies (R137, R144, R279) -/

/-- The scope and unit that a call's release code names (R135). -/
def State.replyScope (s : State) (c : Call) : Nat × Nat :=
  if 8 ≤ c.code then (9, 0)
  else match cmdScope c.command with
    | 2 => (7, s.bankOf c.x / 64)
    | 3 => (8, s.bankOf c.x / 2048)
    | 4 => (9, 0)
    | _ => (6, s.bankOf c.x)

/-- A lane leaves the waiting pool and parks at its rejoin address (R44). -/
def Front.replied (f : Front) (ticket : Nat) : Front :=
  match f.pool.find? fun p => p.ticket = ticket with
  | none => f
  | some p =>
    { f with pool := f.pool.filter fun q => q.ticket != ticket,
             parked := f.parked ++
               [{ lane := p.lane, rejoin := p.rejoin, prio := p.prio, mask := p.mask, origin := p.origin }] }

/-- The same in a saved frontier. -/
def Group.replied (g : Group) (ticket : Nat) : Group :=
  { g with front := g.front.replied ticket, trap := g.trap.map fun t => { t with front := t.front.replied ticket } }

/-- A reply arrives: the register, the caller's acquire, the lane parks; an uncorrectable error makes the group trap
(R137, R144, R279). A reply to a group that is gone is discarded (R54). -/
def execMcallReply (ticket : Nat) (s : State) : Result :=
  match s.replies.find? fun r => r.call.ticket = ticket with
  | none => .next s
  | some r =>
    let c := r.call
    let s := { s with replies := s.replies.filter fun q => q.call.ticket != ticket }.onCore c.core fun k =>
      k.leavePermit ticket
    match s.groups.lookup c.issuer.group with
    | none => .next s
    | some g =>
      match r.ecc with
      | none =>
        let s := if cmdAcquires c.command then
            s.acquireAt g.core (s.replyScope c).1 (s.replyScope c).2 none else s
        .next (s.onGroup c.issuer.group fun g =>
          ((g.setV c.lane c.d r.value).replied ticket).settle c.issuer.group)
      | some off =>
        let s := s.onGroup c.issuer.group fun g => g.replied ticket
        .next (if g.live.getLsbD c.lane then
          s.takeTrap c.issuer.group
            { cause := .eccFatal, lanes := laneBit c.lane, addr := c.vx + BitVec.ofNat 64 off, pc := c.issuer.pc,
              port := c.issuer.port, followers := 0, resume := .unchanged }
        else s)

/-! ### Return-free adds (R150, R151, R283 to R285) -/

/-- The adds that a core holds. -/
def State.addsOf (s : State) (core : Nat) : List Add := s.adds.filter fun a => a.core = core

def execNadd (x : XM) (s : State) : Result :=
  withIssue s x.g fun i =>
    let va := i.address x
    checkLanes s i .xlateFault (fun l => !canonical (va l)) va fun _ =>
    checkLanes s i .atomicAlign (fun l => (va l).toNat % 4 != 0) va fun _ =>
    let (s, f) := s.translateAll i.grp.core i.grp.space ((lanes i.active).map fun l =>
      { lane := l, va := va l, acc := .write })
    checkFound s i f fun _ =>
    let pa (l : Nat) : Nat := match f.find? fun p => p.1.lane = l with
      | some p => p.2.pa
      | none => 0
    checkLanes s i .protection (fun l => inHost (pa l)) va fun _ =>
    checkMiss s i f fun _ =>
      if 256 < (s.addsOf i.grp.core).length + (lanes i.active).length then .next s
      else
        let s := (lanes i.active).foldl (fun s l =>
          let (s, t) := s.ticket
          let new : Add := { ticket := t, core := i.grp.core, issuer := { i.issuer with mask := laneBit l }, va := va l,
                             pa := pa l, value := BitVec.ofNat 32 (i.raw .f32 l x.b) }
          { s with adds := s.adds ++ [new] }) s
        .next (s.retire i id)

/-- The return-free unit of a memory stack performs its oldest add (R150); a bank whose executor runs serves four between
two row steps (R146). -/
def execNaddPerform (stack : Nat) (s : State) : Result :=
  match s.adds.find? fun a => s.stackOf a.pa = stack with
  | none => .next s
  | some a =>
    let bank := s.bankOf a.pa
    let e := s.executors.at bank Engine.initial
    .next (if !e.running then s.performAdd a
      else if 4 ≤ e.served then s
      else { s.performAdd a with executors := s.executors.put bank { e with served := e.served + 1 } })

/-- `nfence` waits for every earlier add of its active lanes (R151, R285). -/
def execNfence (gd : Guard) (s : State) : Result :=
  withIssue s gd fun i =>
    let ts := (s.adds.filter fun a => a.issuer.group = i.gid && i.active &&& a.issuer.mask != 0).map (·.ticket)
    if ts = [] then .next (s.retire i id)
    else .next (s.onGroup i.gid fun g => g.holdAt i.slot (.adds ts))

end Sys2Proof.Machine
end

