-- ==== Sys2Proof/Machine/Special.lean ====
section
/-! DEFINITION. The special functions of 21 R247. The manual gives their error and their special inputs and no bits:
each is a free function of its input (log 11) that is taken where it lies within the stated error of a reference value
computed here in fixed point; where it does not, the reference rounded to nearest stands for it. -/

namespace Sys2Proof.Machine

/-- Fraction bits of the reference computation. -/
def fxBits : Nat := 320

/-- 1.0 in fixed point. -/
def fxOne : Nat := 2 ^ 320

/-- a × b in fixed point. -/
def fxMul (a b : Nat) : Nat := a * b / fxOne

/-- atan (1 / n): alternating terms, k of them from index i with 1 / n^(2i+1) in hand. -/
def fxAtan (n : Nat) : Nat → Nat → Int → Int
  | 0, _, _ => 0
  | k + 1, i, p => (if i % 2 = 0 then p else -p) / ((2 * i + 1 : Nat) : Int) + fxAtan n k (i + 1) (p / ((n * n : Nat) : Int))

/-- π by Machin's formula. -/
def fxPi : Nat := (16 * fxAtan 5 75 0 (fxOne / 5 : Nat) - 4 * fxAtan 239 25 0 (fxOne / 239 : Nat)).toNat

/-- 2 × atanh z: k odd terms from index i with z^(2i+1) in hand. -/
def fxAtanh2 (z2 : Nat) : Nat → Nat → Nat → Nat
  | 0, _, _ => 0
  | k + 1, i, p => 2 * p / (2 * i + 1) + fxAtanh2 z2 k (i + 1) (fxMul p z2)

/-- ln x for x from 1 to 2. -/
def fxLn (x : Nat) : Nat :=
  let z := (x - fxOne) * fxOne / (x + fxOne)
  fxAtanh2 (fxMul z z) 105 0 z

/-- ln 2. -/
def fxLn2 : Nat := fxLn (2 * fxOne)

/-- e^x for x from 0 to 1: k terms from index i with x^i / i! in hand. -/
def fxExpSeries (x : Nat) : Nat → Nat → Nat → Nat
  | 0, _, _ => 0
  | k + 1, i, p => p + fxExpSeries x k (i + 1) (fxMul p x / (i + 1))

def fxExp (x : Nat) : Nat := fxExpSeries x 75 0 fxOne

/-- e^−t for t ≥ 0. -/
def fxExpNeg (t : Nat) : Nat :=
  if 512 * fxOne ≤ t then 0
  else
    let n := t / fxLn2 + 1
    fxExp (n * fxLn2 - t) / 2 ^ n

/-- cos x (j = 0) or sin x (j = 1) for x from 0 to 2: k terms with x^j / j! in hand. -/
def fxTrig (x2 : Nat) : Nat → Nat → Int → Int
  | 0, _, _ => 0
  | k + 1, j, p => p + fxTrig x2 k (j + 2) (-(p * (x2 : Int) / (fxOne : Int) / (((j + 1) * (j + 2) : Nat) : Int)))

/-- A magnitude mag × 2^exp in fixed point; what lies below the last bit is dropped. -/
def fxOf (mag : Nat) (exp : Int) : Nat :=
  let e := exp + 320
  if 0 ≤ e then mag * 2 ^ e.toNat else mag / 2 ^ (-e).toNat

/-- A fixed-point number as a value. -/
def fxVal (neg : Bool) (x : Nat) : Val := .fin neg x (-320)

/-- 2^a for a finite a that is no integer. -/
def refExp2 (neg : Bool) (mag : Nat) (exp : Int) : Val :=
  let x := fxOf mag exp
  let n := x / fxOne
  if 2 ^ 320 * 400 ≤ x then .fin false 1 (if neg then -400 else 400)
  else
    let f := x % fxOne
    if neg then .fin false (fxExp (fxMul (fxOne - f) fxLn2)) (-320 - (n : Int) - 1)
    else .fin false (fxExp (fxMul f fxLn2)) ((n : Int) - 320)

/-- log₂ of a positive value that is no power of two. -/
def refLog2 (mag : Nat) (exp : Int) : Val :=
  let l := Nat.log2 mag
  let x := mag * 2 ^ (320 - l)
  let y : Int := ((fxLn x * fxOne / fxLn2 : Nat) : Int) + (((l : Int) + exp) * (fxOne : Int))
  Val.ofInt y (-320)

/-- sin a or cos a: the argument is reduced modulo π / 2 at 320 bits below the unit and any number above. -/
def refTrig (cosine : Bool) (neg : Bool) (mag : Nat) (exp : Int) : Val :=
  let x := fxOf mag exp
  let half := fxPi / 2
  let q := x * 2 / fxPi
  let r := x - min x (q * fxPi / 2)
  let r := if half < r then half else r
  let k := (q + (if cosine then 1 else 0)) % 4
  let v := if k % 2 = 0 then fxTrig (fxMul r r) 45 1 (r : Int) else fxTrig (fxMul r r) 45 0 (fxOne : Int)
  let v := if k < 2 then v else -v
  Val.ofInt (if neg && !cosine then -v else v) (-320)

/-- 1 / (1 + e^−x) for a signed fixed-point x. -/
def fxSigmoid (x : Int) : Nat :=
  let e := fxExpNeg x.natAbs
  if 0 ≤ x then fxOne * fxOne / (fxOne + e) else e * fxOne / (fxOne + e)

/-- tanh of a magnitude: (1 − e^−2a) / (1 + e^−2a). -/
def refTanh (neg : Bool) (mag : Nat) (exp : Int) : Val :=
  let e := fxExpNeg (2 * fxOf mag exp)
  fxVal neg ((fxOne - e) * fxOne / (fxOne + e))

def refSigmoid (neg : Bool) (mag : Nat) (exp : Int) : Val :=
  fxVal false (fxSigmoid (signed neg (fxOf mag exp)))

def refSilu (neg : Bool) (mag : Nat) (exp : Int) : Val :=
  let x := fxOf mag exp
  fxVal neg (fxMul x (fxSigmoid (signed neg x)))

/-- 0.5 a (1 + tanh u) = a / (1 + e^−2u) with u = 0.797 884 56 (a + 0.044 715 a³). -/
def refGelu (neg : Bool) (mag : Nat) (exp : Int) : Val :=
  let x := fxOf mag exp
  let u := (x + fxMul (fxMul x x) x * 44715 / 1000000) * 79788456 / 100000000
  fxVal neg (fxMul x (fxSigmoid (signed neg (2 * u))))

/-- The unit in the last place of FP32 at a value. -/
def ulpExp (mag : Nat) (exp : Int) : Int := max ((Nat.log2 mag : Int) + exp - 23) (-149)

/-- The candidate lies within `bound` × 2^`unit` of the reference, less the reference's own error. -/
def within (c : Word) (ref : Val) (bound : Nat) (unit : Int) (sameSign : Bool) : Bool :=
  match Flt.f32.value c.toNat with
  | .fin n m e =>
    ((Val.fin n m e).add ref.neg).abs.lt (.fin false (bound * 2 ^ 60 - 1) (unit - 60)) && (!sameSign || n == ref.isNeg)
  | _ => false

/-- The free result, where it lies within the error; otherwise the reference rounded to nearest (log 11). -/
def settleSpecial (code : Nat) (a : Word) (ref : Val) (ulps : Option Nat) : Word :=
  let c := Config.special code a
  let ok := match ulps, ref with
    | some k, .fin _ m e => within c ref k (ulpExp m e) true
    | _, _ => within c ref 1 (-22) false
  if ok then c else BitVec.ofNat 32 (Flt.f32.rn ref true)

/-- An FP32 encoding. -/
def enc32 (v : Val) : Word := BitVec.ofNat 32 (Flt.f32.rn v)

/-- Whether mag × 2^exp is an integer. -/
def isInteger (mag : Nat) (exp : Int) : Bool := 0 ≤ exp || mag % 2 ^ (-exp).toNat = 0

/-- 2^a: exact for integer a; an overflowing result gives +∞ (R247). -/
def fexp2 (a : Word) : Word :=
  match Flt.f32.value a.toNat with
  | .nan => enc32 .nan
  | .inf n => if n then 0 else enc32 (.inf false)
  | .fin n m e =>
    if isInteger m e then enc32 (.fin false 1 (max (-400) (min 400 (signed n (fxOf m e / fxOne)))))
    else
      let ref := refExp2 n m e
      if Flt.f32.rn ref true = 0x7F800000 then enc32 (.inf false) else settleSpecial 0x60 a ref (some 1)

/-- log₂ a: exact at powers of two (R247). -/
def flog2 (a : Word) : Word :=
  match Flt.f32.value a.toNat with
  | .nan => enc32 .nan
  | .inf n => enc32 (if n then .nan else .inf false)
  | .fin n m e =>
    if m = 0 then enc32 (.inf true)
    else if n then enc32 .nan
    else if m = 2 ^ Nat.log2 m then enc32 (Val.ofInt ((Nat.log2 m : Int) + e) 0)
    else settleSpecial 0x61 a (refLog2 m e) (some 1)

/-- sin a, absolute error 2^−22 (R247). -/
def fsin (a : Word) : Word :=
  match Flt.f32.value a.toNat with
  | .nan => enc32 .nan
  | .inf _ => enc32 .nan
  | .fin n m e => if m = 0 then a else settleSpecial 0x62 a (refTrig false n m e) none

/-- cos a, absolute error 2^−22 (R247). -/
def fcos (a : Word) : Word :=
  match Flt.f32.value a.toNat with
  | .nan => enc32 .nan
  | .inf _ => enc32 .nan
  | .fin n m e => settleSpecial 0x63 a (refTrig true n m e) none

/-- tanh a (R247). -/
def ftanh (a : Word) : Word :=
  match Flt.f32.value a.toNat with
  | .nan => enc32 .nan
  | .inf n => enc32 (.fin n 1 0)
  | .fin n m e => if m = 0 then a else settleSpecial 0x64 a (refTanh n m e) (some 2)

/-- 1 / (1 + e^−a) (R247). -/
def fsig (a : Word) : Word :=
  match Flt.f32.value a.toNat with
  | .nan => enc32 .nan
  | .inf n => if n then 0 else enc32 (.fin false 1 0)
  | .fin n m e => settleSpecial 0x65 a (refSigmoid n m e) (some 2)

/-- a / (1 + e^−a) (R247); ±0 gives itself (log 11). -/
def fsilu (a : Word) : Word :=
  match Flt.f32.value a.toNat with
  | .nan => enc32 .nan
  | .inf n => enc32 (if n then .fin true 0 0 else .inf false)
  | .fin n m e => if m = 0 then a else settleSpecial 0x66 a (refSilu n m e) (some 2)

/-- The tanh form of GELU (R247); ±0 gives itself (log 11). -/
def fgelu (a : Word) : Word :=
  match Flt.f32.value a.toNat with
  | .nan => enc32 .nan
  | .inf n => enc32 (if n then .fin true 0 0 else .inf false)
  | .fin n m e => if m = 0 then a else settleSpecial 0x67 a (refGelu n m e) (some 2)

end Sys2Proof.Machine
end

