-- ==== Sys2Proof/Machine/Matrix.lean ====
section
/-! DEFINITION. The matrix engine, its epilogue, power permits and `qfence` (15 R155 to R168; 27 R302 to R316, R320;
11 R131; 07 R81 to R86). -/

namespace Sys2Proof.Machine

/-! ### Permits (R167, R316) -/

/-- The group's explicit permit. -/
def Core.explicitPermit (c : Core) (gid : Nat) : Option Permit :=
  c.permits.find? fun p => p.explicit && p.held && p.group = some gid

def execPermit (gd : Guard) (s : State) : Result :=
  withIssue s gd fun i =>
    if i.active = 0 || ((s.core i.grp.core).explicitPermit i.gid).isSome then .next (s.retire i id)
    else
      let (s, t) := s.ticket
      let new : Permit :=
        { ticket := t, group := some i.gid, explicit := true, granted := false, held := true, users := [] }
      .next ((s.onCore i.grp.core fun c => { c with permits := c.permits ++ [new] }).retire i id)

/-- The release form; an entry that waits for a withdrawn request stands at its instruction again. -/
def execPermitRel (gd : Guard) (s : State) : Result :=
  withIssue s gd fun i =>
    match (s.core i.grp.core).explicitPermit i.gid with
    | none => .next (s.retire i id)
    | some p =>
      if i.active = 0 then .next (s.retire i id)
      else
        let s := s.onCore i.grp.core fun c =>
          { c with permits := c.permits.filterMap fun q => if q.ticket = p.ticket then q.givenUp else some q }
        .next (s.retire i fun g => g.onFronts fun e =>
          if e.hold = .permit p.ticket then { e with hold := .free, len := 0 } else e)

/-- How many permits a column holds at once (R167). -/
def Core.permitLimit (c : Core) : Nat := if 15 ≤ c.swallow then 1 else if 8 ≤ c.swallow then 2 else 4

/-- The permit unit grants the oldest request while it may (R167). -/
def execPermitGrant (core : Nat) (s : State) : Result :=
  let c := s.core core
  match c.permits.find? fun p => !p.granted with
  | none => .next s
  | some p =>
    if c.permitLimit ≤ (c.permits.filter fun q => q.granted).length then .next s
    else
      let s := s.setCore core { c with permits := c.permits.map fun q =>
        if q.ticket = p.ticket then { q with granted := true } else q }
      let wake (g : Group) : Group := g.onFronts fun e =>
        if e.hold = .permit p.ticket then { e with hold := .free, len := 0 } else e
      .next { s with groups := s.groups.map fun (q : Nat × Group) => (q.1, wake q.2) }

/-- The permit of an operation of queue 4 and whether it is granted: the explicit one of the lowest-numbered issuing
group that holds one, else of the lowest that has requested one, else an implicit one of its own (R168, R309). -/
def State.opPermit (s : State) (core : Nat) (op : Op4) : State × Bool :=
  let c := s.core core
  match c.permits.find? fun p => p.users.contains op.ticket with
  | some p => (s, p.granted)
  | none =>
    let of' (granted : Bool) : Option Permit := (List.range 32).findSome? fun k =>
      op.issuers.findSome? fun i =>
        if (s.groups.lookup i.group).any fun g => g.index = k then
          c.permits.find? fun p => p.explicit && p.held && p.group = some i.group && p.granted = granted
        else none
    match (of' true).or (of' false) with
    | some p => (s.onCore core fun c => c.usePermit p.ticket [op.ticket], p.granted)
    | none =>
      let (s, t) := s.ticket
      let new : Permit :=
        { ticket := t, group := none, explicit := false, granted := false, held := true, users := [op.ticket] }
      (s.onCore core fun c => { c with permits := c.permits ++ [new] }, false)

/-! ### qfence (R131, R320) -/

def execQfence (x : XS) (s : State) : Result :=
  withIssue s x.g fun i =>
    let ts := ((List.range 7).filter fun q => x.i32.getLsbD q).flatMap (s.queued i.grp.core)
    if i.active = 0 || ts = [] then .next (s.retire i id)
    else .next (s.onGroup i.gid fun g => g.holdAt i.slot (.queues ts))

/-! ### Placing work in queue 4 (R302, R303) -/

/-- The issuing team's scratchpad. -/
def State.scratchOf (s : State) (team : Nat) : Memory :=
  match s.teams.lookup team with
  | some t => t.scratch
  | none => []

/-- A team without floor-scratchpad need (R164). -/
def State.noFloor (s : State) (team : Nat) : Bool :=
  match s.teams.lookup team with
  | some t => !t.floorNeed
  | none => true

/-- An operation joins queue 4. -/
def State.place4 (s : State) (core team : Nat) (by' : List Issuer) (work : Work4) : State × Nat :=
  let (s, t) := s.ticket
  let op : Op4 := { ticket := t, team := team, issuers := by', work := work, parked := none }
  (s.onCore core fun c => { c with queue4 := c.queue4 ++ [op] }, t)

/-- Runs an instruction that acts once for its entry; the work it places retires it (R302). -/
def onceFor (x : XS) (s : State) (k : Issue → Result) : Result :=
  withIssue s x.g fun i => if i.active = 0 then .next (s.retire i id) else k i

/-- Places the work and moves on. -/
def State.placed4 (s : State) (i : Issue) (work : Work4) : State :=
  (s.place4 i.grp.core i.grp.team [i.issuer] work).1.retire i id

def State.onMatrix (s : State) (core : Nat) (f : Matrix → Matrix) : State :=
  s.onCore core fun c => { c with matrix := f c.matrix }

/-- The oldest operation of queue 4. -/
def State.head4 (s : State) (core : Nat) : Option Op4 := (s.core core).queue4.head?

/-- The oldest operation is done; its permit goes back. -/
def State.pop4 (s : State) (core : Nat) : State :=
  s.onCore core fun c => match c.queue4 with
    | [] => c
    | o :: r => { c with queue4 := r }.leavePermit o.ticket

/-- Rewrites the oldest operation. -/
def State.set4 (s : State) (core : Nat) (op : Op4) : State :=
  s.onCore core fun c => { c with queue4 := op :: c.queue4.tail }

/-- The address of the first of some flawed words that a list of reads, as offset and length, meets (R356; log 16). -/
def flawAmong (ws : List Nat) (reads : List (Nat × Nat)) : Option Nat :=
  (ws.find? fun w => reads.any fun r => wordHit r.1 r.2 [w]).map fun w => 4 * w

/-! ### gang (R304) -/

/-- The groups of a mask. -/
def gangSize (m : Nat) : Nat := ((List.range 32).filter fun k => m.testBit k).length

def execGang (x : XS) (s : State) : Result :=
  onceFor x s fun i =>
    let m := i.scalar x.a
    let missing := (List.range 32).any fun k =>
      m.testBit k && !s.groups.any fun p => p.2.team = i.grp.team && p.2.index = k && p.2.live != 0
    checkEntry s i .protection (m != 0 && s.noFloor i.grp.team) i.slot.pc fun _ =>
    checkEntry s i .illegalField (2 ^ 32 ≤ m) i.slot.pc fun _ =>
    checkEntry s i .illegalField (m != 0 && (gangSize m < 2 || 6 < gangSize m)) i.slot.pc fun _ =>
    checkEntry s i .illegalField (m != 0 && !m.testBit i.grp.index) i.slot.pc fun _ =>
    checkEntry s i .illegalField missing i.slot.pc fun _ =>
      .next (s.retire i fun g => { g with gang := BitVec.ofNat 32 m })

/-! ### segtab (R162, R305) -/

/-- Entry `k` of a table in scratchpad. -/
def segEntry (m : Memory) (off k : Nat) : Nat := m.readNat (off + 8 * k) 8

def segBad (e : Nat) : Bool := bits 15 0 e = 0 || 512 < bits 15 0 e || bits 63 25 e != 0

def execSegtab (x : XS) (s : State) : Result :=
  onceFor x s fun i =>
    let off := i.scalar x.a
    let n := i.scalar x.b
    let m := s.scratchOf i.grp.team
    let bad := (List.range n).find? fun k => segBad (segEntry m off k)
    checkEntry s i .protection (s.noFloor i.grp.team) i.slot.pc fun _ =>
    checkEntry s i .segtabRange (n = 0 || 16 < n) i.slot.pc fun _ =>
    checkEntry s i .atomicAlign (off % 8 != 0) (BitVec.ofNat 64 off) fun _ =>
    checkEntry s i .protection (s.ownScratch i < off + 8 * n) (BitVec.ofNat 64 off) fun _ =>
    checkEntry s i .eccFatal (wordHit off (8 * n) (s.scratchFlaws i.grp.team)) (BitVec.ofNat 64 off) fun _ =>
    checkEntry s i .segtabRange bad.isSome (BitVec.ofNat 64 (off + 8 * bad.getD 0)) fun _ =>
      let table := (List.range n).map fun k =>
        (bits 15 0 (segEntry m off k), bits 24 16 (segEntry m off k))
      let s := s.onMatrix i.grp.core fun m => { m with issueTable := table }
      .next (s.placed4 i (.segtab table))

/-- The table takes effect in queue order (R162). -/
def execSegtabApply (core : Nat) (s : State) : Result :=
  match s.head4 core with
  | some op => match op.work with
    | .segtab table => .next ((s.onMatrix core fun m => { m with table := table }).pop4 core)
    | _ => .next s
  | none => .next s

/-! ### Latches (R155 to R157, R306) -/

/-- The formats: 0 E4M3, 1 E5M2, 2 BF16, 3 FP16 (R307). -/
def matFlt (f : Nat) : Flt :=
  match f with
  | 0 => .e4m3
  | 1 => .e5m2
  | 2 => .bf16
  | _ => .f16

/-- Bytes of an element. -/
def matSize (f : Nat) : Nat := if f < 2 then 1 else 2

/-- A half-tile before anything is latched (R157). -/
def Half.initial : Half := { fmt := 0, data := [], scale := 0x3F800000 }

def Matrix.half (m : Matrix) (buffer h : Nat) : Half := m.halves.at (2 * buffer + h) Half.initial

/-- The non-zero bytes of a run of memory, from offset 0. -/
def window (m : Memory) (lo n : Nat) : Memory :=
  (m.filter fun c => lo ≤ c.1 && c.1 < lo + n).map fun c => (c.1 - lo, c.2)

/-- A half-tile of tile `t` as it is read from the floor scratchpad (R156). -/
def loadHalf (floor : Memory) (fmt h t : Nat) (old : Half) : Half :=
  if fmt < 2 then
    { fmt := fmt, data := window floor (t * 0x4000 + h * 0x2000) 0x2000,
      scale := if h = 0 then BitVec.ofNat 32 (floor.readNat (0x7FC000 + 4 * t) 4) else old.scale }
  else { fmt := fmt, data := window floor (t * 0x4000) 0x4000, scale := old.scale }

/-- What of the floor scratchpad half `h` of tile `t` is read from (R156, R157). -/
def halfReads (fmt h t : Nat) : List (Nat × Nat) :=
  if fmt < 2 then (t * 0x4000 + h * 0x2000, 0x2000) :: (if h = 0 then [(0x7FC000 + 4 * t, 4)] else [])
  else [(t * 0x4000, 0x4000)]

/-- Latches half `h` of a buffer. -/
def Matrix.latchHalf (m : Matrix) (floor : Memory) (fmt h buffer t : Nat) : Matrix :=
  { m with halves := m.halves.put (2 * buffer + h) (loadHalf floor fmt h t (m.half buffer h)) }

/-- A `wload` format code as that of an `mma`. -/
def wloadFmt (f : Nat) : Nat :=
  match f with
  | 12 => 0
  | 13 => 1
  | 11 => 2
  | _ => 3

/-- `wload` (R306). Its traps name no address, so that `$taddr` holds the instruction's (R302), with `FLOOR_ABSENT` too, of
which R102 says that it traps as an access to `.f` does (DESIGN CHOICE, log 101). -/
def execWload (x : XS) (s : State) : Result :=
  onceFor x s fun i =>
    let t := i.scalar x.a
    let fmt := wloadFmt (bits 5 2 x.i32.toNat)
    let h := bits 1 1 x.i32.toNat
    let b := bits 0 0 x.i32.toNat
    checkEntry s i .floorAbsent (s.waysFor i.grp.core i.grp.team = 16) i.slot.pc fun _ =>
    checkEntry s i .illegalField (510 < t || (h = 1 && 2 ≤ fmt)) i.slot.pc fun _ =>
      let s := s.onMatrix i.grp.core fun m => { m with issueFormats := m.issueFormats.put (2 * b + h) fmt }
      .next (s.placed4 i (.wload fmt h b t))

/-- The latch load in its turn: its permit, then the load (R168, R306); a word of the tile that cannot be read ends it, and
its issuers trap (R356; log 16). -/
def execWloadLatch (core : Nat) (s : State) : Result :=
  match s.head4 core with
  | some op => match op.work with
    | .wload fmt h b t =>
      match s.opPermit core op with
      | (s, false) => .next s
      | (s, true) => match flawAmong (s.floorFlaws core) (halfReads fmt h t) with
        | some a => .next (op.issuers.foldl (fun s i => s.engineTrap i .eccFatal (BitVec.ofNat 64 a)) (s.pop4 core))
        | none => .next ((s.onMatrix core fun m => m.latchHalf (s.slice core).floor fmt h b t).pop4 core)
    | _ => .next s
  | none => .next s

/-! ### Parameters and checks of mma (R158, R307, R308) -/

/-- The parameters of an operation (R158, R307). -/
structure MmaParams where
  a : Nat
  stride : Nat
  m : Nat
  k : Nat
  scale : Nat
  tile : Nat
  row : Nat
  handle : Nat
deriving DecidableEq, Repr

/-- The four registers. -/
def mmaParams (p : List DWord) : MmaParams :=
  let w (n : Nat) : Nat := (p.getD n 0).toNat
  { a := bits 31 0 (w 0), stride := bits 63 32 (w 0), m := bits 15 0 (w 1), k := bits 31 16 (w 1),
    scale := bits 63 32 (w 1), tile := bits 15 0 (w 2), row := bits 31 16 (w 2), handle := bits 5 0 (w 3) }

def mmaAf (f : BitVec 32) : Nat := bits 1 0 f.toNat
def mmaWf (f : BitVec 32) : Nat := bits 3 2 f.toNat
def mmaZero (f : BitVec 32) : Bool := f.getLsbD 4
def mmaPre (f : BitVec 32) : Bool := f.getLsbD 5
def mmaSeg (f : BitVec 32) : Bool := f.getLsbD 6
def mmaEpi (f : BitVec 32) : Bool := f.getLsbD 7
def mmaHdl (f : BitVec 32) : Bool := f.getLsbD 8

/-- K elements of a block. -/
def mmaBlock (f : BitVec 32) : Nat := if mmaAf f < 2 then 128 else 64

/-- ⌈K / 128⌉ or ⌈K / 64⌉ (R159). -/
def mmaBlocks (f : BitVec 32) (p : MmaParams) : Nat := (p.k + mmaBlock f - 1) / mmaBlock f

/-- A row's byte length. -/
def mmaRow (f : BitVec 32) (p : MmaParams) : Nat := p.k * matSize (mmaAf f)

/-- Order 1 of R308. -/
def mmaIllegal (f : BitVec 32) (ws : List DWord) (p : MmaParams) : Bool :=
  bits 63 32 (ws.getD 2 0).toNat != 0 || bits 63 6 (ws.getD 3 0).toNat != 0 || p.m = 0 || 512 < p.m || p.k = 0 ||
    8192 < p.k || p.a % 64 != 0 || p.stride % 64 != 0 || p.stride < mmaRow f p ||
    (mmaAf f < 2 && p.scale % 4 != 0) || 510 < p.tile || 511 < p.row

/-- The words of a program before its `end`. -/
def Epilogue.body (e : Epilogue) : List Word := e.words.takeWhile fun w => w.toNat / 2 ^ 26 != 0

/-- The first address of a scratchpad slot that reaches beyond the scratchpad for m rows (R308). -/
def slotBeyond (e : Epilogue) (size m : Nat) : Option DWord :=
  e.body.findSome? fun w =>
    let code := w.toNat / 2 ^ 26
    let sl := e.slots.getD (w.toNat % 4) { base := 0, stride := 0, scale := 0 }
    let last := sl.base.toNat + (m - 1) * sl.stride.toNat
    if code = 12 then
      if size < last + 128 then some sl.base
      else if size < sl.scale.toNat + 4 * m then some sl.scale
      else none
    else if code = 14 && !w.getLsbD 2 then (if size < last + 512 then some sl.base else none)
    else none

/-- The offset that order 4 of R308 refuses. -/
def mmaBeyond (f : BitVec 32) (p : MmaParams) (size : Nat) (e : Option Epilogue) : Option DWord :=
  if size < p.a + (p.m - 1) * p.stride + mmaRow f p then some (BitVec.ofNat 64 p.a)
  else if mmaAf f < 2 && size < p.scale + 4 * p.m * mmaBlocks f p then some (BitVec.ofNat 64 p.scale)
  else if 512 < p.row + p.m then some (BitVec.ofNat 64 p.row)
  else if mmaEpi f then e.bind fun e => slotBeyond e size p.m
  else none

/-- The segments of an operation: rows and tile (R160, R162). -/
def mmaSegments (f : BitVec 32) (p : MmaParams) (table : List (Nat × Nat)) : List (Nat × Nat) :=
  if mmaSeg f then table else [(p.m, p.tile)]

/-- The formats that the buffers hold once the operation has latched its blocks (R303, R306). -/
def formatsAfter (fs : Store Nat) (f : BitVec 32) (nb segments : Nat) : Store Nat :=
  let put (fs : Store Nat) (b : Nat) : Store Nat :=
    let fs := fs.put (2 * b) (mmaWf f)
    if mmaWf f < 2 then fs.put (2 * b + 1) (mmaWf f) else fs
  let fs := if !mmaPre f || 1 < segments || 3 ≤ nb then put fs 0 else fs
  if 2 ≤ nb then put fs 1 else fs

/-- The operation is placed in queue 4, once per gang (R309). -/
def State.placeMma (s : State) (core team : Nat) (by' : List Issuer) (f : BitVec 32) (ws : List DWord) : State :=
  let p := mmaParams ws
  let c := s.core core
  let s := s.onMatrix core fun m => { m with
    issueFormats := formatsAfter m.issueFormats f (mmaBlocks f p) (mmaSegments f p c.matrix.issueTable).length }
  (s.place4 core team by' (.mma { flags := f, params := ws, claimed := false, started := false, segment := 0, block := 0, drain := false,
                                  row := 0, held := none })).1

/-- Entries of a group that stand at the address of its arrival go past it when the latch opens (R161). -/
def Group.coveredAt (g : Group) (pc : DWord) : Group :=
  { g with front := { g.front with entries := g.front.entries.map fun e =>
      if e.hold = .free && e.pc = pc && !e.repeating then Entry.make e.prio (e.after.getD (pc + 12)) e.mask else e } }

/-- The latch opens: every arrival goes on, and so do the entries it covers (R161). -/
def State.openLatch (s : State) (core : Nat) (l : Latch) (f : BitVec 32) : State :=
  let team := match l.arrived with
    | i :: _ => i.team
    | [] => 0
  let s := s.onMatrix core fun m => { m with latch := none }
  let s := l.arrived.foldl (fun s i => s.onGroup i.group fun g =>
    (g.passHold fun h => h = .latch).coveredAt i.pc) s
  s.placeMma core team l.arrived f l.params

/-- A group that has a gang arrives at the latch (R161). -/
def State.arrive (s : State) (i : Issue) (x : XS) (ws : List DWord) : State :=
  let core := i.grp.core
  let s := s.onGroup i.gid fun g => g.holdAt i.slot .latch
  match (s.core core).matrix.latch with
  | none =>
    let new : Latch := { gang := i.grp.gang, instr := .mma x, params := ws, arrived := [i.issuer] }
    s.onMatrix core fun m => { m with latch := some new }
  | some l =>
    let l' := { l with arrived := l.arrived ++ [i.issuer] }
    let s := s.onMatrix core fun m => { m with latch := some l' }
    if l.gang != i.grp.gang || l.params != ws || l.instr != .mma x then s.breakLatch core s.serial
    else if (List.range 32).all fun k => !l.gang.getLsbD k || l'.arrived.any fun a =>
        (s.groups.lookup a.group).any fun g => g.index = k then s.openLatch core l' x.i32
    else s

/-- `mma` (R307 to R309). Another entry of a group whose arrival waits at the latch stays where it is; a team without floor
need has issued no epilogue program and latched nothing (R164). -/
def execMma (x : XS) (s : State) : Result :=
  onceFor x s fun i =>
    let f := x.i32
    let n := Src.index x.a
    let ws := (List.range 4).map fun k => i.grp.ureg i.gid (n + k)
    let p := mmaParams ws
    let c := s.core i.grp.core
    let nb := mmaBlocks f p
    let x' := if s.noFloor i.grp.team then Matrix.initial else c.matrix
    let beyond := mmaBeyond f p (s.ownScratch i) x'.issueEpilogue
    let table := x'.issueTable
    let latched := x'.issueFormats.at 0 0
    if c.matrix.latch.any fun l => l.arrived.any fun a => a.group = i.gid then .next s else
    checkEntry s i .illegalField (mmaIllegal f ws p) i.slot.pc fun _ =>
    checkEntry s i .illegalField ((mmaHdl f && s.handle i.grp.team p.handle != 0) ||
      (mmaEpi f && x'.issueEpilogue.isNone) || (mmaPre f && matSize latched != matSize (mmaWf f))) i.slot.pc fun _ =>
    checkEntry s i .floorAbsent (s.waysFor i.grp.core i.grp.team = 16) i.slot.pc fun _ =>
    checkEntry s i .protection beyond.isSome (beyond.getD 0) fun _ =>
    checkEntry s i .protection (!mmaSeg f && 510 < p.tile + nb - 1) i.slot.pc fun _ =>
    checkEntry s i .segtabRange (mmaSeg f && (table.foldl (fun a e => a + e.1) 0 != p.m ||
      table.any fun e => 510 < e.2 + nb - 1)) i.slot.pc fun _ =>
      if i.grp.gang = 0 then .next ((s.placeMma i.grp.core i.grp.team [i.issuer] f ws).retire i id)
      else .next (s.arrive i x ws)

/-! ### K blocks (R81 to R86, R160) -/

/-- Element `k` of a row of A. -/
def aElement (m : Memory) (f : Nat) (at' k : Nat) : Val :=
  (matFlt f).value (m.readNat (at' + k * matSize f) (matSize f))

/-- Weight (k, j) of a latched block. -/
def Matrix.weight (m : Matrix) (buffer k j : Nat) : Val :=
  let f := (m.half buffer 0).fmt
  let h := m.half buffer (k / 64)
  (matFlt f).value (h.data.readNat ((k % 64 * 128 + j) * matSize f) (matSize f))

/-- The exact sum of a block; a last, shorter block is completed with +0 (R85). -/
def blockSum (n full : Nat) (a w : Nat → Val) : Val :=
  exactSum (((List.range n).map fun k => (a k).mul (w k)) ++ if n < full then [.fin false 0 0] else [])

/-- One accumulator element after a block (R83, R84). -/
def accumulate (eight : Bool) (acc : Word) (sum : Val) (sa sb : Word) : Word :=
  let s32 := BitVec.ofNat 32 (Flt.f32.rn sum)
  if eight then fadd acc (fmul s32 (fmul sa sb)) else fadd acc s32

/-- Runs K block `kb` of a segment whose first row of A is `first`, of `rows` rows, from a buffer (R160). -/
def Matrix.runBlock (x : Matrix) (scratch : Memory) (f : BitVec 32) (p : MmaParams) (first rows kb : Nat) : Matrix :=
  let af := mmaAf f
  let full := mmaBlock f
  let n := min full (p.k - kb * full)
  let buffer := kb % 2
  let sb := (x.half buffer 0).scale
  let cell (acc : Store Word) (i j : Nat) : Store Word :=
    let key := (p.row + first + i) * 128 + j
    let row := p.a + (first + i) * p.stride
    let sa := BitVec.ofNat 32 (scratch.readNat (p.scale + 4 * ((first + i) * mmaBlocks f p + kb)) 4)
    let sum := blockSum n full (fun k => aElement scratch af row (kb * full + k)) (fun k => x.weight buffer k j)
    acc.put key (accumulate (af < 2) (acc.at key 0) sum sa sb)
  { x with acc := (List.range rows).foldl (fun acc i => (List.range 128).foldl (fun acc j => cell acc i j) acc) x.acc }

/-- Latches a tile for a block with the instruction's weight format (R160). -/
def Matrix.latchTile (x : Matrix) (floor : Memory) (fmt buffer t : Nat) : Matrix :=
  let x := x.latchHalf floor fmt 0 buffer t
  if fmt < 2 then x.latchHalf floor fmt 1 buffer t else x

/-- What a latched tile is read from in the floor scratchpad. -/
def tileReads (fmt t : Nat) : List (Nat × Nat) := halfReads fmt 0 t ++ if fmt < 2 then halfReads fmt 1 t else []

/-- What a K block reads of the scratchpad: its part of each row of A, and the rows' scales (R160). -/
def blockReads (f : BitVec 32) (p : MmaParams) (first rows kb : Nat) : List (Nat × Nat) :=
  let full := mmaBlock f
  let size := matSize (mmaAf f)
  (List.range rows).flatMap fun i =>
    (p.a + (first + i) * p.stride + kb * full * size, min full (p.k - kb * full) * size) ::
      (if mmaAf f < 2 then [(p.scale + 4 * ((first + i) * mmaBlocks f p + kb), 4)] else [])

/-! ### The epilogue (R165, R166, R314, R315) -/

/-- What an epilogue row works on. -/
structure EpiRow where
  w : List Word
  q : Word
  y : List Byte
deriving DecidableEq, Repr

/-- How a store of the epilogue, or a row, ends; `held` is a row that waits at a store (R315). -/
inductive EpiEnd where
  | ok (s : State)
  | miss (s : State) (va : DWord)
  | fault (s : State) (c : Cause) (va : DWord)
  | held (s : State) (va : DWord) (h : EpiHeld)

/-- Writes bytes at a virtual address for the engine: translated by line, at the level-2 homes (R315). -/
def State.epiGlobal (s : State) (core space : Nat) (va : DWord) (bs : List Byte) : EpiEnd :=
  (pieces va.toNat bs.length).foldl (fun r p => match r with
    | .ok s =>
      let a := BitVec.ofNat 64 p.1
      match s.translate core space a .write with
      | (s, .ok pa _ _) =>
        if s.unreadable pa then .fault s .eccFatal a
        else .ok (s.l2Write pa ((bs.drop (p.1 - va.toNat)).take p.2))
      | (s, .miss) => .miss s a
      | (s, .fault c) => .fault s c a
    | r => r) (.ok s)

/-- The FP32 constants and the vectors of `sclv` and `bias`. -/
def epiVector (m : Memory) (off : Nat) : List Word := elements m off 128

/-- The fresh scale (R166). -/
def epiScale (limit amax : Word) : Word :=
  match Flt.f32.value amax.toNat with
  | .nan => 0x3F800000
  | .inf _ => 0x3F800000
  | .fin _ m _ =>
    if m = 0 then 0x3F800000
    else
      let q := fdiv amax limit
      if q = 0 then 0x3F800000 else q

/-- A quantised element. -/
def epiQuant (t : Ty) (toInf : Bool) (q w : Word) : Byte :=
  BitVec.ofNat 8 (convertVal t false toInf (Flt.f32.value (fdiv w q).toNat))

/-- `clamp` of one element; a NaN gives ck, the default NaN where ck is a NaN too (R74). -/
def epiClamp (lo hi w : Word) : Word :=
  if Flt.f32.value w.toNat = .nan then (if Flt.f32.value lo.toNat = .nan then 0x7FC00000 else lo)
  else fmin (fmax w lo) hi

/-- The largest magnitude by R76. -/
def epiMax (w : List Word) : Word :=
  match w.map fun x => BitVec.ofNat 32 (Flt.f32.abs x.toNat) with
  | [] => 0
  | x :: r => r.foldl fmax x

/-- The arithmetic micro-ops (R314). -/
def epiArith (e : Epilogue) (scratch : Memory) (code opd : Nat) (r : EpiRow) : EpiRow :=
  let c (k : Nat) : Word := e.consts.getD k 0
  let quant (t : Ty) (limit : Word) (toInf : Bool) : EpiRow :=
    let q := epiScale limit r.q
    { r with q := q, y := r.w.map (epiQuant t toInf q) }
  match code with
  | 1 => { r with w := r.w.map fun x => fmul x (c opd) }
  | 2 => { r with w := (r.w.zip (epiVector scratch opd)).map fun p => fmul p.1 p.2 }
  | 3 => { r with w := (r.w.zip (epiVector scratch opd)).map fun p => fadd p.1 p.2 }
  | 4 => { r with w := r.w.map fun x => fmax x 0 }
  | 5 => { r with w := r.w.map fgelu }
  | 6 => { r with w := r.w.map fsilu }
  | 7 => { r with w := r.w.map (epiClamp (c opd) (c (opd + 1))) }
  | 8 => { r with q := epiMax r.w }
  | 9 => quant .e4m3 0x43E00000 false
  | 10 => quant .e5m2 0x47600000 false
  | _ => quant .e5m2 0x47600000 true

/-- The stores (R314). -/
def State.epiStore (s : State) (core team space : Nat) (e : Epilogue) (code opd row : Nat) (r : EpiRow) : EpiEnd :=
  let sl := e.slots.getD (opd % 4) { base := 0, stride := 0, scale := 0 }
  let at' := sl.base + BitVec.ofNat 64 (row * sl.stride.toNat)
  let scaleAt := sl.scale + BitVec.ofNat 64 (4 * row)
  let own (s : State) (a : DWord) (bs : List Byte) : State :=
    s.onTeam team fun t => { t with scratch := t.scratch.writeBytes a.toNat bs }
  let words := elementBytes r.w
  match code with
  | 12 => .ok (own (own s at' r.y) scaleAt (leBytes 4 r.q.toNat))
  | 13 => match s.epiGlobal core space at' r.y with
    | .ok s => s.epiGlobal core space scaleAt (leBytes 4 r.q.toNat)
    | r => r
  | _ => if opd / 4 % 2 = 1 then s.epiGlobal core space at' words else .ok (own s at' words)

/-- One row of the program (R314); a store that misses holds the row there (R315), and a vector that cannot be read stops it
(R356; log 16). -/
def State.epiRow (core team space : Nat) (e : Epilogue) (row : Nat) : List Word → State → EpiRow → EpiEnd
  | [], s, _ => .ok s
  | w :: ws, s, r =>
    let code := w.toNat / 2 ^ 26
    let opd := w.toNat % 2 ^ 26
    if 12 ≤ code then
      match s.epiStore core team space e code opd row r with
      | .ok s => State.epiRow core team space e row ws s r
      | .miss s va => .held s va { rest := w :: ws, w := r.w, q := r.q, y := r.y }
      | x => x
    else if (code = 2 || code = 3) && wordHit opd 512 (s.scratchFlaws team) then
      .fault s .eccFatal (BitVec.ofNat 64 opd)
    else State.epiRow core team space e row ws s (epiArith e (s.scratchOf team) code opd r)


/-- A fault stops the operation: its handle is free again, its permit returns, its issuers trap (R315). -/
def State.stopMma (s : State) (core : Nat) (op : Op4) (m : MmaOp) (c : Cause) (va : DWord) : State :=
  let s := if mmaHdl m.flags then s.setHandle op.team (mmaParams m.params).handle 0 else s
  op.issuers.foldl (fun s i => s.engineTrap i c va) (s.pop4 core)

/-- A miss record of an engine's access (R108). -/
def State.engineMiss (s : State) (i : Issuer) (core : Nat) (va : DWord) (acc : Access) : State × Nat :=
  let id : BitVec 32 := match s.grids.lookup i.grid with
    | some g => g.id
    | none => 0
  s.miss core i.space id va acc

/-! ### The operation (R160, R309) -/

/-- The operation is done: the handle turns full, the permit returns (R173, R309). -/
def State.endMma (s : State) (core : Nat) (op : Op4) (m : MmaOp) : State :=
  let s := if mmaHdl m.flags then s.setHandle op.team (mmaParams m.params).handle 2 else s
  s.pop4 core

/-- The start: the handle turns filling once it is free, then the permit is awaited; `.zero` clears the rows (R309). A gang's
permit too is taken here, at the head of queue 4, and not as its latch opens (DESIGN CHOICE, log 103). -/
def State.startMma (s : State) (core : Nat) (op : Op4) (m : MmaOp) : State :=
  let p := mmaParams m.params
  if !m.claimed && mmaHdl m.flags && s.handle op.team p.handle != 0 then s
  else
    let s := if !m.claimed && mmaHdl m.flags then s.setHandle op.team p.handle 1 else s
    let op := { op with work := .mma { m with claimed := true } }
    match s.opPermit core op with
    | (s, false) => s.set4 core op
    | (s, true) =>
      let s := if mmaZero m.flags then s.onMatrix core fun x =>
          { x with acc := x.acc.filter fun c => c.1 / 128 < p.row || p.row + p.m ≤ c.1 / 128 } else s
      s.set4 core { op with work := .mma { m with claimed := true, started := true } }

/-- The next K block: latch and compute (R160); a word that it cannot read stops the operation (R356; log 16). -/
def State.blockMma (s : State) (core : Nat) (op : Op4) (m : MmaOp) : State :=
  let p := mmaParams m.params
  let segs := mmaSegments m.flags p (s.core core).matrix.table
  match segs[m.segment]? with
  | none => s.endMma core op m
  | some (rows, tile) =>
    let first := (segs.take m.segment).foldl (fun a e => a + e.1) 0
    let keep := mmaPre m.flags && m.segment = 0 && m.block = 0
    let lost := (if keep then none
      else flawAmong (s.floorFlaws core) (tileReads (mmaWf m.flags) (tile + m.block))).or
        (flawAmong (s.scratchFlaws op.team) (blockReads m.flags p first rows m.block))
    match lost with
    | some a => s.stopMma core op m .eccFatal (BitVec.ofNat 64 a)
    | none =>
    let s := s.onMatrix core fun x =>
      let x := if keep then x else
        x.latchTile (s.slice core).floor (mmaWf m.flags) (m.block % 2) (tile + m.block)
      x.runBlock (s.scratchOf op.team) m.flags p first rows m.block
    let m := if m.block + 1 < mmaBlocks m.flags p then { m with block := m.block + 1 }
      else { m with block := 0, segment := m.segment + 1 }
    if m.segment < segs.length then s.set4 core { op with work := .mma m }
    else if mmaEpi m.flags then s.set4 core { op with work := .mma { m with drain := true } }
    else s.endMma core op m

/-- The next row of the epilogue (R314, R315). -/
def State.drainMma (s : State) (core : Nat) (op : Op4) (m : MmaOp) : State :=
  let p := mmaParams m.params
  let x := (s.core core).matrix
  match x.epilogue with
  | none => s.endMma core op m
  | some e =>
    let w := (List.range 128).map fun j => x.acc.at ((p.row + m.row) * 128 + j) 0
    let space := match op.issuers with
      | i :: _ => i.space
      | [] => 0
    let h := m.held.getD { rest := e.body, w := w, q := 0, y := [] }
    match State.epiRow core op.team space e m.row h.rest s { w := h.w, q := h.q, y := h.y } with
    | .ok s =>
      if m.row + 1 < p.m then s.set4 core { op with work := .mma { m with row := m.row + 1, held := none } }
      else s.endMma core op m
    | .held s va h =>
      match op.issuers with
      | i :: _ =>
        let (s, t) := s.engineMiss i core va .write
        s.set4 core { op with work := .mma { m with held := some h }, parked := some (t, va) }
      | [] => s
    | .miss s _ => s
    | .fault s c va => s.stopMma core op m c va

/-- One phase of the oldest operation of queue 4: its start, a K block, or a row of the epilogue (R160, R309); after a
save, which releases permits, it asks for its permit again. While its team's cluster is frozen it stops at the K-block
boundary and only an epilogue drains (R62). -/
def execMmaOperation (core : Nat) (s : State) : Result :=
  match s.head4 core with
  | some op => match op.work with
    | .mma m =>
      if op.parked.isSome || (s.frozenTeam op.team && !m.drain) then .next s
      else if !m.started then .next (s.startMma core op m)
      else match s.opPermit core op with
        | (s, false) => .next s
        | (s, true) => .next (if m.drain then s.drainMma core op m else s.blockMma core op m)
    | _ => .next s
  | none => .next s

/-! ### Accumulator access (R310) -/

/-- Elements by the count code. -/
def accCount (x : XS) : Nat := 2 ^ (bits 1 0 x.i32.toNat)

/-- A descriptor with non-zero unnamed bits. -/
def accBad (d : Nat) : Bool := bits 15 9 d != 0 || bits 63 23 d != 0

def execAccrd (x : XS) (s : State) : Result :=
  onceFor x s fun i =>
    let d := i.scalar x.a
    let n := accCount x
    let r := bits 8 0 d
    checkEntry s i .protection (s.noFloor i.grp.team) i.slot.pc fun _ =>
    checkEntry s i .illegalField (accBad d) (BitVec.ofNat 64 d) fun _ =>
    checkEntry s i .protection (511 < r + n - 1) (BitVec.ofNat 64 d) fun _ =>
      let (s, t) := s.place4 i.grp.core i.grp.team [i.issuer] (.accrd r (bits 22 16 d) n x.d.n.toNat)
      .next ((s.retire i id).onGroup i.gid fun g => g.inFlight i.slot t x.la.toNat i.done [(false, x.d.n.toNat, n)])

/-- The reads of the active lanes in queue order (R310). -/
def execAccrdPerform (core : Nat) (s : State) : Result :=
  match s.head4 core with
  | some op => match op.work with
    | .accrd r cb n d =>
      let acc := (s.core core).matrix.acc
      let s := op.issuers.foldl (fun s i => s.onGroup i.group fun g =>
        ((List.range n).foldl (fun g k => (lanes i.mask).foldl (fun g l =>
          g.setV l (d + k) (acc.at ((r + k) * 128 + (cb + l) % 128) 0)) g) g).landed op.ticket) s
      .next (s.pop4 core)
    | _ => .next s
  | none => .next s

def execAccwr (x : XS) (s : State) : Result :=
  onceFor x s fun i =>
    let d := i.scalar x.a
    let n := accCount x
    let r := bits 8 0 d
    let cb := bits 22 16 d
    checkEntry s i .protection (s.noFloor i.grp.team) i.slot.pc fun _ =>
    checkEntry s i .illegalField (accBad d) (BitVec.ofNat 64 d) fun _ =>
    checkEntry s i .protection (511 < r + n - 1) (BitVec.ofNat 64 d) fun _ =>
      let source (k l : Nat) : Word := match x.b with
        | .v b => i.grp.vreg i.gid l (b.toNat + k)
        | b => BitVec.ofNat 32 (i.raw .f32 l b)
      let cells := (lanes i.active).flatMap fun l => (List.range n).map fun k =>
        ((r + k) * 128 + (cb + l) % 128, source k l)
      .next (s.placed4 i (.accwr cells))

def execAccwrPerform (core : Nat) (s : State) : Result :=
  match s.head4 core with
  | some op => match op.work with
    | .accwr cells =>
      .next ((s.onMatrix core fun m =>
        { m with acc := cells.foldl (fun a c => a.put c.1 c.2) m.acc }).pop4 core)
    | _ => .next s
  | none => .next s

def execAccz (x : XS) (s : State) : Result :=
  onceFor x s fun i =>
    let a := i.scalar x.a
    let b := i.scalar x.b
    checkEntry s i .protection (s.noFloor i.grp.team) i.slot.pc fun _ =>
    checkEntry s i .illegalField (b = 0 || 512 < b) (BitVec.ofNat 64 a) fun _ =>
    checkEntry s i .protection (511 < a + b - 1) (BitVec.ofNat 64 a) fun _ =>
      .next (s.placed4 i (.accz a b))

def execAcczPerform (core : Nat) (s : State) : Result :=
  match s.head4 core with
  | some op => match op.work with
    | .accz a b =>
      .next ((s.onMatrix core fun m =>
        { m with acc := m.acc.filter fun c => c.1 / 128 < a || a + b ≤ c.1 / 128 }).pop4 core)
    | _ => .next s
  | none => .next s

/-! ### epld (R311 to R313) -/

/-- The largest assigned code. -/
def epiWordBad (size : Nat) (w : Word) : Bool :=
  let code := w.toNat / 2 ^ 26
  let opd := w.toNat % 2 ^ 26
  match code with
  | 1 => 8 ≤ opd
  | 2 | 3 => 2 ^ 19 ≤ opd || opd % 4 != 0 || size < opd + 512
  | 7 => 7 ≤ opd
  | 12 | 13 => 4 ≤ opd
  | 14 => 8 ≤ opd
  | _ => 15 ≤ code || opd != 0

/-- The program that a block of scratchpad holds (R311). -/
def epilogueAt (m : Memory) (off : Nat) : Epilogue :=
  { words := elements m off 32, consts := elements m (off + 128) 8,
    slots := (List.range 4).map fun k =>
      { base := BitVec.ofNat 64 (m.readNat (off + 160 + 24 * k) 8),
        stride := BitVec.ofNat 32 (m.readNat (off + 168 + 24 * k) 4),
        scale := BitVec.ofNat 64 (m.readNat (off + 176 + 24 * k) 8) } }

/-- The first word of a program that a test refuses, by its index. -/
def epiFirst (ws : List Word) (bad : Nat → Word → Bool) : Option Nat :=
  (ws.zipIdx.find? fun p => bad p.2 p.1).map (·.2)

def execEpld (x : XS) (s : State) : Result :=
  onceFor x s fun i =>
    let off := i.scalar x.a
    let size := s.ownScratch i
    let m := s.scratchOf i.grp.team
    let e := epilogueAt m off
    let ws := e.body
    let quantised (k : Nat) : Bool := (ws.take k).any fun w => 9 ≤ w.toNat / 2 ^ 26 && w.toNat / 2 ^ 26 ≤ 11
    let slotBad (w : Word) : Bool :=
      let k := w.toNat % 4
      let sl := e.slots.getD k { base := 0, stride := 0, scale := 0 }
      12 ≤ w.toNat / 2 ^ 26 && (sl.base.toNat % 64 != 0 || sl.stride.toNat % 64 != 0 || sl.scale.toNat % 4 != 0 ||
        m.readNat (off + 172 + 24 * k) 4 != 0)
    let word3 := epiFirst ws fun _ w => epiWordBad size w
    let word4 := epiFirst ws fun k w => (w.toNat / 2 ^ 26 = 12 || w.toNat / 2 ^ 26 = 13) && !quantised k
    let word5 := epiFirst ws fun _ w => slotBad w
    let at' (k : Option Nat) : DWord := BitVec.ofNat 64 (off + 4 * k.getD 0)
    checkEntry s i .protection (s.noFloor i.grp.team) i.slot.pc fun _ =>
    checkEntry s i .atomicAlign (off % 64 != 0) (BitVec.ofNat 64 off) fun _ =>
    checkEntry s i .protection (size < off + 256) (BitVec.ofNat 64 off) fun _ =>
    checkEntry s i .eccFatal (wordHit off 256 (s.scratchFlaws i.grp.team)) (BitVec.ofNat 64 off) fun _ =>
    checkEntry s i .illegalField (ws.length = 32) (BitVec.ofNat 64 off) fun _ =>
    checkEntry s i .illegalField word3.isSome (at' word3) fun _ =>
    checkEntry s i .illegalField word4.isSome (at' word4) fun _ =>
    checkEntry s i .illegalField word5.isSome (at' word5) fun _ =>
      let s := s.onMatrix i.grp.core fun m => { m with issueEpilogue := some e }
      .next (s.placed4 i (.epld e))

def execEpldApply (core : Nat) (s : State) : Result :=
  match s.head4 core with
  | some op => match op.work with
    | .epld e => .next ((s.onMatrix core fun m => { m with epilogue := some e }).pop4 core)
    | _ => .next s
  | none => .next s

end Sys2Proof.Machine
end

