-- ==== Sys2Proof/Machine/Copy.lean ====
section
/-! DEFINITION. The copy engine, the codebook and buffer handles (15 R169 to R173; 27 R317 to R319; 09 R96). -/

namespace Sys2Proof.Machine

/-! ### Records (R169) -/

/-- A transfer record. -/
structure Record where
  next : Nat
  owner : Bool
  kind : Nat
  dims : Nat
  source : Nat
  dest : Nat
  transform : Bool
  multicast : Bool
  handle : Option Nat
  teams : Nat
  src : Nat
  dst : Nat
  length : Nat
  counts : List Nat
  srcStrides : List Int
  dstStrides : List Int
deriving DecidableEq, Repr

/-- A signed 32-bit field. -/
def field32 (bs : List Byte) (lo : Nat) : Int := (BitVec.ofNat 32 (field bs lo 4)).toInt

/-- The 64 bytes of a record. -/
def recordOf (bs : List Byte) : Record :=
  let c := field bs 8 2
  { next := field bs 0 8, owner := bits 0 0 c = 1, kind := bits 2 1 c, dims := bits 4 3 c, source := bits 6 5 c,
    dest := bits 8 7 c, transform := bits 9 9 c = 1, multicast := bits 10 10 c = 1,
    handle := if bits 11 11 c = 1 then some (bits 5 0 (field bs 10 1)) else none, teams := bits 11 0 (field bs 12 2),
    src := field bs 16 8, dst := field bs 24 8, length := field bs 32 4, counts := [field bs 36 2, field bs 38 2],
    srcStrides := [field32 bs 40, field32 bs 44], dstStrides := [field32 bs 48, field32 bs 52] }

/-- `ILLEGAL_FIELD` of a record (R171, R318; log 27). -/
def recordBad (bs : List Byte) (r : Record) : Bool :=
  let reserved := bits 15 12 (field bs 8 2) != 0 || bits 7 6 (field bs 10 1) != 0 || field bs 11 1 != 0 ||
    bits 15 12 (field bs 12 2) != 0 || field bs 14 2 != 0 || field bs 56 8 != 0 || r.next % 64 != 0
  let counts := (r.counts.take (r.dims - 1)).any fun c => c = 0
  reserved || r.dims = 0 || r.length = 0 || 16777216 < r.length || 2 ≤ r.kind ||
    (if r.kind = 1 then
      r.source != 0 || r.src % 64 != 0 || r.length != 4096 || r.dims != 1 || r.dest != 0 || r.dst != 0 ||
        field bs 36 4 != 0 || field bs 40 16 != 0 || r.handle.isSome || field bs 10 1 != 0 || r.multicast ||
        field bs 12 2 != 0 || r.transform
     else counts || (r.multicast && r.dest != 1))

/-- Destination bytes for a source byte (R172, R318). -/
def Record.width (r : Record) : Nat := if r.transform then 16 else 1

/-- The elements in ascending order: source address and address of the first destination byte (R170). -/
def Record.elements (r : Record) : List (Int × Int) :=
  let n (k : Nat) : Nat := if k + 1 < r.dims then r.counts.getD k 1 else 1
  (List.range (n 1)).flatMap fun (i2 : Nat) => (List.range (n 0)).flatMap fun (i1 : Nat) =>
    let s : Int := r.src + i1 * r.srcStrides.getD 0 0 + i2 * r.srcStrides.getD 1 0
    let d : Int := r.dst + i1 * r.dstStrides.getD 0 0 + i2 * r.dstStrides.getD 1 0
    (List.range r.length).map fun (b : Nat) => (s + b, d + b * r.width)

/-! ### Places (R92, R93, R103, R107) -/

/-- Where one byte lies. -/
inductive Place where
  | mem (pa : Nat)
  | scratch (team off : Nat)
  | floor (off : Nat)
  | miss (va : DWord)
  | fault (c : Cause)
deriving DecidableEq, Repr

/-- The team that a cluster-scratchpad address of a team's cluster names (R93). -/
def State.clusterTeam (s : State) (team : Nat) (a : Int) : Option Nat :=
  ((s.teams.lookup team).bind fun t => s.clusters.lookup t.cluster).bind fun k =>
    if a < 0 || 8388608 ≤ a then none else k.teams[(a / 524288).toNat]?

/-- A byte of a team's scratchpad; a team that has ended has none (log 82), and a word with an uncorrectable error faults
(R356; log 16). -/
def State.scratchByte (s : State) (team : Option Nat) (a : Int) : Place :=
  match team.bind fun t => (s.teams.lookup t).map fun m => (t, m.size) with
  | some (t, size) =>
    if !(0 ≤ a && a < size) then .fault .protection
    else if wordHit a.toNat 1 (s.scratchFlaws t) then .fault .eccFatal
    else .scratch t a.toNat
  | none => .fault .protection

/-- The place of one byte: 0 global, 1 scratchpad, 2 floor, 3 cluster scratchpad (R169). -/
def State.place (s : State) (core : Nat) (i : Issuer) (space : Nat) (a : Int) (acc : Access) : State × Place :=
  match space with
  | 0 =>
    let va := BitVec.ofInt 64 a
    match s.translate core i.space va acc with
    | (s, .ok pa _ _) => (s, .mem pa)
    | (s, .miss) => (s, .miss va)
    | (s, .fault c) => (s, .fault c)
  | 1 => (s, s.scratchByte (some i.team) a)
  | 2 =>
    (s, if s.waysFor core i.team = 16 then .fault .floorAbsent
        else if !(0 ≤ a && a < 0x800000) then .fault .protection
        else if wordHit a.toNat 1 (s.floorFlaws core) then .fault .eccFatal
        else .floor a.toNat)
  | _ => (s, s.scratchByte (s.clusterTeam i.team a) (a % 524288))

/-- The places of a list of bytes. -/
def State.places (s : State) (core : Nat) (i : Issuer) (space : Nat) (acc : Access) (as : List Int) :
    State × List Place :=
  as.foldl (fun (s, out) a =>
    let (s, p) := s.place core i space a acc
    (s, out ++ [p])) (s, [])

/-- Reads the byte at a place: global memory at its level-2 home (R129). -/
def State.readPlace (s : State) (core : Nat) (p : Place) : State × Byte :=
  match p with
  | .mem pa =>
    let (s, bs) := s.l2Read pa 1
    (s, bs.headD 0)
  | .scratch t off => (s, (s.scratchOf t).read off)
  | .floor off => (s, (s.slice core).floor.read off)
  | _ => (s, 0)

/-- Writes the byte at a place. -/
def State.writePlace (s : State) (core : Nat) (p : Place) (b : Byte) : State :=
  match p with
  | .mem pa => s.l2Write pa [b]
  | .scratch t off => s.onTeam t fun t => { t with scratch := t.scratch.write off b }
  | .floor off => s.setSlice core { s.slice core with floor := (s.slice core).floor.write off b }
  | _ => s

/-- Why a byte cannot be read or written as its turn comes: the line of a global one may not be readable then (R171, R345,
R356). -/
def State.placeFault (s : State) (p : Place) : Option Cause :=
  match p with
  | .fault c => some c
  | .mem pa => if s.unreadable pa then some .eccFatal else none
  | _ => none

/-- Writes bytes at places in order; ends at the first fault. -/
def State.putAll (s : State) (core : Nat) : List (Place × Byte) → State × Option Cause
  | [] => (s, none)
  | (p, b) :: rest =>
    match s.placeFault p with
    | some c => (s, some c)
    | none => State.putAll (s.writePlace core p b) core rest

/-- Reads the bytes at places in order; ends at the first fault. -/
def State.readAll (s : State) (core : Nat) (out : List Byte) : List Place → State × Except Cause (List Byte)
  | [] => (s, .ok out)
  | p :: rest =>
    match s.placeFault p with
    | some c => (s, .error c)
    | none =>
      let (s, b) := s.readPlace core p
      State.readAll s core (out ++ [b]) rest

/-- The first miss among places, where it comes before any fault. -/
def firstStop (ps : List Place) : Option DWord :=
  match ps.find? fun p => match p with
    | .miss _ => true
    | .fault _ => true
    | _ => false with
  | some (.miss va) => some va
  | _ => none

/-! ### Channels (R169 to R172, R317, R318) -/

def State.channel (s : State) (core ch : Nat) : Channel := (s.core core).channels.at ch Channel.initial

def State.setChannel (s : State) (core ch : Nat) (x : Channel) : State :=
  s.onCore core fun c => { c with channels := c.channels.put ch x }

/-- Frees the scoreboard entries of a record (R96). -/
def State.clearRanges (s : State) (ticket : Nat) : State :=
  { s with cores := s.cores.map fun (p : Nat × Core) =>
      (p.1, { p.2 with scoreboard := p.2.scoreboard.filter fun r => r.ticket != ticket }) }

/-- A record fault stops the channel and its group traps (R171). -/
def State.recordFault (s : State) (core ch : Nat) (h : Head) (c : Cause) : State :=
  ((s.setChannel core ch Channel.initial).clearRanges h.ticket).engineTrap h.issuer c h.record

/-- A restartable miss holds the channel (R108, R171). -/
def State.parkChannel (s : State) (core ch : Nat) (i : Issuer) (va : DWord) (acc : Access) : State :=
  let (s, t) := s.engineMiss i core va acc
  s.setChannel core ch { s.channel core ch with parked := some (t, va) }

/-- The oldest chain of a channel ends. -/
def State.endChain (s : State) (core ch : Nat) : State :=
  let x := s.channel core ch
  s.setChannel core ch { heads := x.heads.tail, running := none, parked := none }

/-- The record is done: its owner bit is cleared at its home, and the channel goes on with the next one (R170, R317). -/
def State.endRecord (s : State) (core ch : Nat) (h : Head) (run : Running) : State :=
  let r := recordOf run.bytes
  let s := s.l2Write (run.pa + 8) (leBytes 2 (field run.bytes 8 2 - 1))
  let s := s.clearRanges h.ticket
  if r.next = 0 then s.endChain core ch
  else
    let x := s.channel core ch
    s.setChannel core ch { heads := { h with record := BitVec.ofNat 64 r.next, shares := none } :: x.heads.tail,
                           running := none, parked := none }

/-- The handle of a record is full for some teams (R170). -/
def State.filled (s : State) (r : Record) (ts : List Nat) : State :=
  match r.handle with
  | some k => ts.foldl (fun (s : State) t => s.setHandle t k 2) s
  | none => s

/-- A record whose bytes have moved is done, with its handle full for the teams that remain; where its own line cannot be
reached any more its owner bit cannot be cleared, and the channel stops with the handle filling (R170, R171, R345). -/
def State.closeRecord (s : State) (core ch : Nat) (h : Head) (run : Running) : State :=
  if s.unreadable run.pa then s.recordFault core ch h .eccFatal
  else (s.filled (recordOf run.bytes) run.shares).endRecord core ch h run

/-- The teams that receive a record: those of a multicast's mask (on resumption those still filling, R63), the team of a
cluster-scratchpad destination, which is that of its first byte (DEDUCED, log 56), else the issuing team (R170). -/
def State.receivers (s : State) (h : Head) (r : Record) : List Nat :=
  if r.multicast then
    h.shares.getD (((s.teams.lookup h.issuer.team).bind fun t => s.clusters.lookup t.cluster).elim [] fun k =>
      ((List.range 12).filter fun j => r.teams.testBit j).filterMap fun j => k.teams[j]?)
  else if r.dest = 3 then [(s.clusterTeam h.issuer.team r.dst).getD h.issuer.team]
  else [h.issuer.team]

/-- A multicast names a team that the cluster does not have. -/
def State.badTeams (s : State) (h : Head) (r : Record) : Bool :=
  r.multicast && h.shares.isNone && ((List.range 12).filter fun j => r.teams.testBit j).length != (s.receivers h r).length

/-- The extent of a list of byte addresses. -/
def extent (as : List Int) : Nat × Nat :=
  match as with
  | [] => (0, 0)
  | a :: r => ((r.foldl min a).toNat, (r.foldl max a + 1).toNat)

/-- Cluster-scratchpad addresses by the team whose scratchpad each lies in, as offsets there (R93). -/
def State.perTeam (s : State) (team : Nat) (as : List Int) : List (Nat × List Int) :=
  let ts := (as.filterMap fun a => s.clusterTeam team a).eraseDups
  ts.map fun t => (t, (as.filter fun a => s.clusterTeam team a = some t).map fun a => a % 524288)

/-- The scoreboard entries of a record: one for each team whose scratchpad it touches (R96). -/
def State.rangesOf (s : State) (h : Head) (r : Record) : List Range :=
  let es := r.elements
  let src := es.map (·.1)
  let dst := es.flatMap fun e => (List.range r.width).map fun (j : Nat) => e.2 + (j : Int)
  let one (team : Nat) (as : List Int) (w : Bool) : Range :=
    { team := team, lo := (extent as).1, hi := (extent as).2, writes := w, ticket := h.ticket }
  let sources : List (Nat × List Int) := match r.source with
    | 1 => [(h.issuer.team, src)]
    | 3 => s.perTeam h.issuer.team src
    | _ => []
  let dests : List (Nat × List Int) := match r.dest with
    | 1 => (s.receivers h r).map fun t => (t, dst)
    | 3 => s.perTeam h.issuer.team dst
    | _ => []
  (dests.map fun d => one d.1 (d.2 ++ (sources.filter fun x => x.1 = d.1).flatMap (·.2)) true) ++
    (sources.filter fun x => !dests.any fun d => d.1 = x.1).map fun x => one x.1 x.2 false

/-- The core of a team. -/
def State.coreOf (s : State) (team : Nat) : Option Nat := (s.teams.lookup team).map (·.core)

/-- Every scoreboard that a record needs has a free entry (R96). -/
def State.roomFor (s : State) (rs : List Range) : Bool :=
  rs.all fun r => match s.coreOf r.team with
    | some n => (s.core n).scoreboard.length < 16
    | none => true

/-- Enters the ranges in the scoreboards. -/
def State.enterRanges (s : State) (rs : List Range) : State :=
  rs.foldl (fun s r => match s.coreOf r.team with
    | some n => s.onCore n fun c => { c with scoreboard := c.scoreboard ++ [r] }
    | none => s) s

/-- The scoreboards hold an entry of the record, which a save has kept (R66, R96). -/
def State.entered (s : State) (r : Range) : Bool :=
  match s.coreOf r.team with
  | some n => (s.core n).scoreboard.any fun x => x.ticket = r.ticket && x.team = r.team
  | none => false

/-- The tag of a team: grid, cluster and team index (R172). -/
def State.tagOf (s : State) (team : Nat) : Option (Nat × Nat × Nat) :=
  (s.teams.lookup team).bind fun t => (s.clusters.lookup t.cluster).bind fun k =>
    (s.grids.lookup t.grid).map fun g => (g.id.toNat, k.index, t.index)

/-- The codebook carries the tag of the issuing team (R171, R172). -/
def State.tagged (s : State) (core team : Nat) : Bool :=
  match (s.core core).codebook, s.tagOf team with
  | some b, some (g, k, t) => b.grid = g && b.cluster = k && b.team = t
  | _, _ => false

/-- The start of a record: it is read at its home, checked, waits for its handles and for scoreboard entries, and sets
its handles to filling (R96, R169 to R171). `kind` is the kind that the calling event performs. Where several causes of R171
apply, the first in the order of this definition is taken (DESIGN CHOICE, log 104). -/
def State.startRecord (s : State) (core ch : Nat) (h : Head) (kind : Nat) : State :=
  match s.translate core h.issuer.space h.record .read with
  | (s, .miss) => s.parkChannel core ch h.issuer h.record .read
  | (s, .fault c) => s.recordFault core ch h c
  | (s, .ok pa _ _) =>
    if s.unreadable pa then s.recordFault core ch h .eccFatal
    else
      let (s, bs) := s.l2Read pa 64
      let r := recordOf bs
      if !r.owner then s.endChain core ch
      else if (if r.kind = 1 then 1 else 0) != kind then s
      else if recordBad bs r then s.recordFault core ch h .illegalField
      else match (s.translate core h.issuer.space h.record .write).2 with
      | .fault c => s.recordFault core ch h c
      | _ =>
      if (r.source = 2 || r.dest = 2) && s.waysFor core h.issuer.team = 16 then
        s.recordFault core ch h .floorAbsent
      else if r.transform && !s.tagged core h.issuer.team then s.recordFault core ch h .codebookTag
      else if s.badTeams h r then s.recordFault core ch h .protection
      else
        let to' := s.receivers h r
        let ranges := if r.kind = 1 then [] else (s.rangesOf h r).filter fun x => !s.entered x
        let free := h.shares.isSome || r.handle.all fun k => to'.all fun t => s.handle t k = 0
        if !free || !s.roomFor ranges then s
        else
          let s := match r.handle with
            | some k => to'.foldl (fun (s : State) t => s.setHandle t k 1) s
            | none => s
          let x := s.channel core ch
          let run : Running := { record := h.record, pa := pa, bytes := bs, shares := to', data := none }
          (s.setChannel core ch { x with running := some run }).enterRanges ranges

/-- What one source byte becomes at the destination (R172). -/
def State.transformed (s : State) (core : Nat) (r : Record) (b : Byte) : List Byte :=
  if r.transform then
    match (s.core core).codebook with
    | some c => (c.bytes.drop (16 * b.toNat)).take 16
    | none => []
  else [b]

/-- Moves bytes from places to places in order; ends at the first fault. -/
def State.moveAll (s : State) (core : Nat) (r : Record) : List (Place × List Place) → State × Option Cause
  | [] => (s, none)
  | (p, qs) :: rest =>
    match s.placeFault p with
    | some c => (s, some c)
    | none =>
      let (s, b) := s.readPlace core p
      match s.putAll core (qs.zip (s.transformed core r b)) with
      | (s, none) => State.moveAll s core r rest
      | stopped => stopped

/-- Splits a list into runs of `n`. -/
def runs {α : Type} (n : Nat) : Nat → List α → List (List α)
  | 0, _ => []
  | k + 1, xs => xs.take n :: runs n k (xs.drop n)

/-- The bytes of a record that is no multicast move in ascending element order (R170); a transform needs the team's
codebook when it moves its bytes as well (R171). -/
def State.moveRecord (s : State) (core ch : Nat) (h : Head) (run : Running) : State :=
  let r := recordOf run.bytes
  let es := r.elements
  if r.transform && !s.tagged core h.issuer.team then s.recordFault core ch h .codebookTag else
  let (s, ps) := s.places core h.issuer r.source .read (es.map (·.1))
  let (s, qs) := s.places core h.issuer r.dest .write
    (es.flatMap fun e => (List.range r.width).map fun (j : Nat) => e.2 + (j : Int))
  let moves := ps.zip (runs r.width es.length qs)
  match firstStop (moves.flatMap fun m => m.1 :: m.2) with
  | some va => s.parkChannel core ch h.issuer va (if ps.contains (.miss va) then .read else .write)
  | none =>
    match s.moveAll core r moves with
    | (s, some c) => s.recordFault core ch h c
    | (s, none) => s.closeRecord core ch h run

/-- A multicast reads its source once, a transform through the team's codebook (R170, R171). -/
def State.readShares (s : State) (core ch : Nat) (h : Head) (run : Running) : State :=
  let r := recordOf run.bytes
  if r.transform && !s.tagged core h.issuer.team then s.recordFault core ch h .codebookTag else
  let (s, ps) := s.places core h.issuer r.source .read (r.elements.map (·.1))
  match firstStop ps with
  | some va => s.parkChannel core ch h.issuer va .read
  | none =>
    match s.readAll core [] ps with
    | (s, .error c) => s.recordFault core ch h c
    | (s, .ok bs) =>
      let x := s.channel core ch
      s.setChannel core ch { x with running := some { run with data := some (bs.flatMap (s.transformed core r)) } }

/-- One receiver's share of a multicast is written; after the last one the record is done (R63, R170). -/
def State.writeShare (s : State) (core ch : Nat) (h : Head) (run : Running) (data : List Byte) : State :=
  let r := recordOf run.bytes
  match run.shares with
  | [] => s.closeRecord core ch h run
  | t :: rest =>
    let qs := (r.elements.flatMap fun e => (List.range r.width).map fun (j : Nat) => e.2 + (j : Int)).map fun a =>
      s.scratchByte (some t) a
    match s.putAll core (qs.zip data) with
    | (s, some c) => s.recordFault core ch h c
    | (s, none) =>
      if rest = [] then s.closeRecord core ch h { run with shares := [t] }
      else
        let s := s.filled r [t]
        s.setChannel core ch { s.channel core ch with running := some { run with shares := rest } }

/-- One phase of the record at the head of a channel: its start, then its bytes, for a multicast one share at a time
(R169 to R171). While the team's cluster is frozen no record starts and a multicast stops (R62, R63). -/
def execCopyRecord (core ch : Nat) (s : State) : Result :=
  let x := s.channel core ch
  match x.heads with
  | [] => .next s
  | h :: _ =>
    let frozen := s.frozenTeam h.issuer.team
    if x.parked.isSome then .next s
    else match x.running with
      | none => .next (if frozen then s else s.startRecord core ch h 0)
      | some run =>
        let r := recordOf run.bytes
        if r.kind = 1 || (frozen && r.multicast) then .next s
        else if !r.multicast then .next (s.moveRecord core ch h run)
        else match run.data with
          | none => .next (s.readShares core ch h run)
          | some data => .next (s.writeShare core ch h run data)

/-- A codebook setup record: its start, unless the team's cluster is frozen (R62), then the load with the tag of the
issuing team (R172, R318). -/
def execCodebookSetup (core ch : Nat) (s : State) : Result :=
  let x := s.channel core ch
  match x.heads with
  | [] => .next s
  | h :: _ =>
    if x.parked.isSome then .next s
    else match x.running with
      | none => .next (if s.frozenTeam h.issuer.team then s else s.startRecord core ch h 1)
      | some run =>
        let r := recordOf run.bytes
        if r.kind != 1 then .next s
        else
          let (s, ps) := s.places core h.issuer 0 .read (r.elements.map (·.1))
          match firstStop ps with
          | some va => .next (s.parkChannel core ch h.issuer va .read)
          | none =>
            match s.readAll core [] ps with
            | (s, .error c) => .next (s.recordFault core ch h c)
            | (s, .ok bs) =>
              let book := (s.tagOf h.issuer.team).map fun (g, k, t) =>
                ({ bytes := bs, grid := g, cluster := k, team := t } : Codebook)
              .next (if s.unreadable run.pa then s.recordFault core ch h .eccFatal
                else (s.onCore core fun c => { c with codebook := book }).endRecord core ch h run)

/-- `cpgo` (R317). While the channel holds four heads, the one it walks among them (DESIGN CHOICE, log 91), the entry stays.
Its traps name no address, so that `$taddr` holds the instruction's (R302). -/
def execCpgo (x : XS) (s : State) : Result :=
  onceFor x s fun i =>
    let ch := bits 1 0 x.i32.toNat
    let va := i.uni x.a
    checkEntry s i .illegalField (va = 0) i.slot.pc fun _ =>
    checkEntry s i .xlateFault (!canonical va) i.slot.pc fun _ =>
    checkEntry s i .atomicAlign (va.toNat % 64 != 0) i.slot.pc fun _ =>
      let c := s.channel i.grp.core ch
      if 4 ≤ c.heads.length then .next s
      else
        let (s, t) := s.ticket
        let new : Head := { ticket := t, issuer := i.issuer, record := va, shares := none }
        .next ((s.setChannel i.grp.core ch { c with heads := c.heads ++ [new] }).retire i id)

/-! ### Buffer handles (R173, R319) -/

def execHwait (x : XS) (s : State) : Result :=
  onceFor x s fun i =>
    let h := i.scalar x.a
    let states := x.i32.setWidth 4
    checkEntry s i .illegalField (63 < h) i.slot.pc fun _ =>
      if states.getLsbD (s.handle i.grp.team h) then .next (s.retire i id)
      else .next (s.onGroup i.gid fun g => g.holdAt i.slot (.handle h states false))

def execHrel (x : XS) (s : State) : Result :=
  onceFor x s fun i =>
    let h := i.scalar x.a
    let st := s.handle i.grp.team h
    checkEntry s i .illegalField (63 < h) i.slot.pc fun _ =>
    checkEntry s i .illegalField (st < 2) i.slot.pc fun _ =>
      .next ((s.setHandle i.grp.team h (if st = 2 then 3 else 0)).retire i id)

def execHstat (x : XS) (s : State) : Result :=
  withIssue s x.g fun i =>
    if i.active = 0 then .next (s.retire i id)
    else
      let h := i.scalar x.a
      let st := s.handle i.grp.team h
      checkEntry s i .illegalField (63 < h) i.slot.pc fun _ =>
        .next (s.retire i fun g =>
          if x.d.uni then g.writeU .n32 x.d.n.toNat st
          else g.writeLanes i.active .n32 x.d.n.toNat fun _ => st)

end Sys2Proof.Machine
end

