-- ==== Sys2Proof/Machine/Settle.lean ====
section
/-! DEFINITION. What a core looks at when its cycle begins: the holds whose wait is over (03 R34; 11 R131; 13 R151;
15 R161, R173; 29 R325, R326, R331, R338), groups that ended, and the entries that combine (03 R34). -/

namespace Sys2Proof.Machine

/-- The trap of an entry whose translation the host has failed for some of its lanes (R108, R230). -/
def deniedTrap (e : Entry) (va : DWord) (lanes : LaneMask) (port : Nat) : Trap :=
  { cause := .xlateFault, lanes := lanes, addr := va, pc := e.pc, port := port, followers := e.done,
    resume := .entry e.mask e.pc e.beyond }

/-- An entry whose translation the host has failed traps, once the long-latency instructions before it have completed,
whose own traps would come first (R108, R203). -/
def State.takeDenied (s : State) (gid : Nat) : State :=
  match s.groups.lookup gid with
  | none => s
  | some g =>
    let due (e : Entry) : Bool := (match e.hold with
      | .denied _ _ _ => true
      | _ => false) && !g.flights.any fun f => f.mask &&& e.mask != 0
    match g.front.entries.find? due with
    | none => s
    | some e => match e.hold with
      | .denied va m port =>
        (s.onGroup gid fun g => g.onEntry e.mask fun e => { e with hold := .free }).takeTrap gid (deniedTrap e va m port)
      | _ => s

/-- A held entry continues past its instruction, in a saved frontier where `saved` says so (R34, R47). -/
def Group.carryOn (g : Group) (saved : Bool) (e : Entry) : Group :=
  if saved then
    let on (f : Front) : Front :=
      { f with entries := f.entries.map fun x => if x = e then Entry.make e.prio e.beyond e.mask else x }
    { g with trap := g.trap.map fun t => { t with front := on t.front } }
  else g.release e.mask

/-- A queued child launch gets its identifier and joins its queue (R55, R325). -/
def State.launchChild (s : State) (g : Group) (bs : List Byte) : State × BitVec 32 :=
  let own := match s.grids.lookup g.grid with
    | some d => d.prio
    | none => 0
  let id := freeId s (s.grids.length + 1) s.nextLaunch
  let (s, t) := s.ticket
  let s := { s with nextLaunch := if id = 0xFFFFFFFF then 0x80000000 else id + 1 }
  (s.accept bs id true g.space (min (field bs 14 1) own) t, id)

/-- An instruction that has issued and does not need its entry completes even while its frontier is saved: a `launch`
that waits for room, and a `setways` (R47, R325, R331). -/
def State.wakeIssued (s : State) (core gid : Nat) (saved : Bool) (e : Entry) : State :=
  match s.groups.lookup gid with
  | none => s
  | some g =>
    let go (s : State) : State := s.onGroup gid fun g => g.carryOn saved e
    match e.hold with
    | .ways n own ts =>
      if s.waitsFor core g.team (ts.filter (· != own)) then s
      else if (s.slice core).ways = n then go s
      else go (if n = 8 then s.surrender core else s.returnWays core)
    | .launch bs d =>
      if 256 ≤ s.waiting (field bs 15 1) then s
      else
        let (s, id) := s.launchChild g bs
        go (s.onGroup gid fun g => g.setU d (id.setWidth 64))
    | _ => s

/-- A `ccwait` ends: the value last compared goes to its register, then the acquire (R338). -/
def State.endCounterWait (s : State) (core gid : Nat) (e : Entry) (w : CounterWait) (v : DWord) : State :=
  let s := s.onGroup gid fun g => (g.setU w.d v).release e.mask
  { s with watches := s.watches.filter fun x => x.ticket != w.ticket }.acquireAt core (if w.sys then 5 else 4) 0 none

/-- One held entry whose wait is over continues; a `finstall` that waited for room is run again (DESIGN CHOICE, log 107). -/
def State.wake (s : State) (core gid : Nat) (e : Entry) : State :=
  match s.groups.lookup gid with
  | none => s
  | some g =>
    let go (s : State) : State := s.onGroup gid fun g => g.release e.mask
    match e.hold with
    | .handle _ _ met => if met then go s else s
    | .queues ts => if s.waitsFor core g.team ts then s else go s
    | .adds ts => if s.adds.any fun a => ts.contains a.ticket then s else go s
    | .waitdep => if s.producersDone g.grid then (go s).acquireAt core 4 0 none else s
    | .counter w => match s.watches.find? fun x => x.ticket = w.ticket with
      | some x => if x.met || w.expired then s.endCounterWait core gid e w x.last else s
      | none => s
    | .ways _ _ _ | .launch _ _ => s.wakeIssued core gid false e
    | .stack f =>
      if 8 ≤ (s.flash.at f Flash.initial).installs.length then s
      else s.onGroup gid fun g => g.onEntry e.mask fun e => { e with hold := .free, len := 0 }
    | .denied _ _ _ => s.takeDenied gid
    | _ => s

/-- The latch of a core can never open once a named group has ended (R161). -/
def State.checkLatch (s : State) (core : Nat) : State :=
  match (s.core core).matrix.latch with
  | none => s
  | some l =>
    let team := match l.arrived with
      | i :: _ => i.team
      | [] => 0
    if (List.range 32).all fun k =>
        !l.gang.getLsbD k || s.groups.any fun p => p.2.team = team && p.2.index = k && p.2.live != 0 then s
    else s.breakLatch core s.serial

/-- What a core settles before it selects: ended groups, the latch, rejoining lanes, barriers, waits that are over,
entries that combine. -/
def State.settleCore (s : State) (core : Nat) : State :=
  let s := (s.endGroups).checkLatch core
  let s := (s.residents core).foldl (fun s p => s.onGroup p.1 fun g => g.settle p.1) s
  let s := ((s.residents core).map fun p => p.2.team).eraseDups.foldl (fun s t =>
    (List.range 16).foldl (fun s b => s.openBarrier t b) s) s
  let s := (s.residents core).foldl (fun s p =>
    p.2.front.entries.foldl (fun s e => s.wake core p.1 e) s) s
  let s := (s.residents core).foldl (fun s p => match p.2.trap with
    | some t => t.front.entries.foldl (fun s e => s.wakeIssued core p.1 true e) s
    | none => s) s
  (s.residents core).foldl (fun s p => s.onGroup p.1 fun g => g.merge (s.heldBack g)) s


end Sys2Proof.Machine
end

