-- ==== Sys2Proof/Machine/Events.lean ====
section
/-! DEFINITION. Steps inside a core that no instruction starts: the starvation guard (03 R40), an instruction line that
arrives (R39, 29 R333), the rejoin deadlock (03 R45), a walk (09 R109), and the host's answers to a miss (R108). -/

namespace Sys2Proof.Machine

/-- The entry has waited long enough to be raised (R40). -/
def Entry.due (e : Entry) : Bool := 32 ≤ e.passes && e.raised.isNone

/-- The entry that holds a lane is raised, after those of its group raised before it (R40). -/
def execEntryRaised (gid lane : Nat) (s : State) : Result :=
  .next (s.onGroup gid fun g =>
    let hit (e : Entry) : Bool := e.mask.getLsbD lane && e.due
    let lift (e : Entry) : Entry := if hit e then { e with raised := some g.raises } else e
    if g.front.entries.any hit then
      { g with raises := g.raises + 1, front := { g.front with entries := g.front.entries.map lift } }
    else g)

/-- A line that was asked for arrives from its level-2 home; where its translation has gone or the line cannot be read,
nothing arrives and the entry asks again (R39, R333, R356). -/
def execIcacheLineArrival (core line : Nat) (s : State) : Result :=
  match (s.core core).fetching.find? fun p => p.2 = line with
  | none => .next s
  | some (space, _) =>
    let s := s.onCore core fun c => { c with fetching := c.fetching.filter fun p => p != (space, line) }
    match s.translate core space (BitVec.ofNat 64 (line * 128)) .fetch with
    | (s, .ok pa _ _) =>
      if s.unreadable pa then .next s
      else
      let (s, bs) := s.l2Read (pa / 128 * 128) 128
      let new : ILine := { space := space, line := line, data := bs }
      .next (s.onCore core fun c =>
        { c with icache := new :: c.icache.filter fun l => !(l.space = space && l.line = line) })
    | (s, _) => .next s

/-- No lane of the group has a memory-side reply outstanding, in a saved frontier neither; a lane that is parked on
translation there counts as having one (R45, R108). In trap mode the waits of the saved frontier at a barrier, a `waitdep`
or a handle do not count: there each live lane stands in the handler's frontier too (DESIGN CHOICE, log 79). -/
def Group.noReplies (g : Group) : Bool :=
  g.front.pool = [] && match g.trap with
    | some t => t.front.pool = [] && !t.front.entries.any fun e => match e.hold with
      | .xlate _ _ _ _ => true
      | _ => false
    | none => true

/-- Every live lane is parked or in a member-mask wait, no reply is outstanding, and nothing can be released (R45). -/
def Group.stuck (g : Group) : Bool :=
  g.live != 0 && g.front.entries = [] && g.noReplies && (g.front.parked != [] || g.front.waits != []) &&
    !g.front.parked.any g.mayRejoin && !g.front.waits.any fun w => w.done g.live

/-- Where a lane is stuck: the address for `$taddr` and the instruction that parked or holds it (R45). -/
def Group.stuckAt (g : Group) (l : Nat) : DWord × DWord :=
  match g.front.parked.find? fun p => p.lane = l with
  | some p => (p.rejoin, p.origin)
  | none => match g.front.waits.find? fun w => w.arrived.getLsbD l with
    | some w => (w.pc, w.pc)
    | none => (0, 0)

/-- `REJOIN_STUCK`; no port raises it, and the port bit of `$tcause` is 0 (R45; DESIGN CHOICE, log 72). -/
def execRejoinStuck (gid : Nat) (s : State) : Result :=
  match s.groups.lookup gid with
  | none => .next s
  | some g =>
    if g.stuck && g.resident then
      let (addr, origin) := g.stuckAt ((lanes g.live).headD 0)
      .next (s.takeTrap gid { cause := .rejoinStuck, lanes := g.live, addr := addr, pc := origin, port := 0,
                              followers := 0, resume := .stuck })
    else .next s

/-- A walk for a 64 KiB page that the core's translation cache does not hold (R109). -/
def execTranslationWalk (core space page : Nat) (s : State) : Result :=
  if canonical (BitVec.ofNat 64 (page * 65536)) && page < 2 ^ 48 && ((s.core core).leafOf space (page * 65536)).isNone then
    .next (s.walk core space (page * 65536)).1
  else .next s

/-- Rewrites the operations of queue 4 and the channels that wait for the answer to a miss. -/
def Core.answered (c : Core) (ticket : Nat) : Core :=
  let mine (p : Option (Nat × DWord)) : Bool := p.any fun q => q.1 = ticket
  { c with
    queue4 := c.queue4.map fun o => if mine o.parked then { o with parked := none } else o,
    channels := c.channels.map fun (p : Nat × Channel) =>
      (p.1, if mine p.2.parked then { p.2 with parked := none } else p.2) }

/-- Whether an entry waits for the answer to a miss. -/
def Entry.misses (e : Entry) (ticket : Nat) : Bool :=
  match e.hold with
  | .xlate t _ _ _ => t = ticket
  | _ => false

/-- Retry: what waited goes back to its instruction and walks again; an entry that a trap has saved does so after trap
return (R108). -/
def execXlateRetry (ticket : Nat) (s : State) : Result :=
  let free (e : Entry) : Entry := if e.misses ticket then { e with hold := .free, len := 0 } else e
  .next { s with
    groups := s.groups.map fun (p : Nat × Group) => (p.1, p.2.onFronts free),
    cores := s.cores.map fun (p : Nat × Core) => (p.1, p.2.answered ticket) }

/-- An entry whose translation the host has failed (R108). -/
def Entry.deny (e : Entry) (ticket : Nat) : Entry :=
  match e.hold with
  | .xlate t va m port => if t = ticket then { e with hold := .denied va m port } else e
  | _ => e

/-- The engines of a core that the host's Fail reaches (R108, R171, R315). -/
def State.failEngines (s : State) (core ticket : Nat) : State :=
  let c := s.core core
  let s := match c.queue4 with
    | op :: _ => match op.work, op.parked with
      | .mma m, some (t, va) => if t = ticket then s.stopMma core { op with parked := none } m .xlateFault va else s
      | _, _ => s
    | [] => s
  c.channels.foldl (fun s (p : Nat × Channel) => match p.2.parked, p.2.heads with
    | some (t, _), h :: _ => if t = ticket then s.recordFault core p.1 h .xlateFault else s
    | _, _ => s) s

/-- Fail: the parked lanes trap with `XLATE_FAULT`; an entry that a trap has saved does so after trap return (R108). -/
def execXlateFail (ticket : Nat) (s : State) : Result :=
  let hit := (s.groups.filter fun p => p.2.front.entries.any fun e => e.misses ticket).map (·.1)
  let s := { s with groups := s.groups.map fun (p : Nat × Group) => (p.1, p.2.onFronts fun e => e.deny ticket) }
  let s := hit.foldl State.takeDenied s
  .next ((s.cores.map (·.1)).foldl (fun s c => s.failEngines c ticket) s)

end Sys2Proof.Machine
end

