-- ==== Sys2Proof/Machine/Flash.lean ====
section
/-! DEFINITION. The flash stacks (17 R174 to R183; 25 R297 to R299): `finstall`, `fstat`, the install engine, locks and the
status record. -/

namespace Sys2Proof.Machine

/-! ### finstall (R297, R298) -/

def State.flashStack (s : State) (f : Nat) : Flash := s.flash.at f Flash.initial

def State.setFlash (s : State) (f : Nat) (x : Flash) : State := { s with flash := s.flash.put f x }

/-- The flash stack of a flash address and the logical extent there (R176). -/
def flashStackOf (pa : Nat) : Nat := (pa - 0x400000000000) / 0x10000000000
def flashExtentOf (pa : Nat) : Nat := (pa - 0x400000000000) / 0x200000 % 524288

/-- `finstall` (R298). Where its stack has no room it stays, and once there is room it runs as a whole again, with its checks
and translations (DESIGN CHOICE, log 107). -/
def execFinstall (x : XS) (s : State) : Result :=
  withIssue s x.g fun i =>
    if i.active = 0 then .next (s.retire i id)
    else
      let gd := i.uni x.a
      let gs := i.uni x.b
      let gc := i.uni x.c
      let j := i.lead
      let lane := (lanes i.active).headD 0
      checkEntry s i .xlateFault (!canonical gd) gd fun _ =>
      checkEntry s i .xlateFault (!canonical gs) gs fun _ =>
      checkEntry s i .xlateFault (!canonical gc) gc fun _ =>
      checkEntry s i .atomicAlign (gd.toNat % 0x200000 != 0) gd fun _ =>
      checkEntry s i .atomicAlign (gs.toNat % 65536 != 0) gs fun _ =>
      checkEntry s i .atomicAlign (gc.toNat % 8 != 0) gc fun _ =>
      let vas := [gd] ++ ((List.range 32).map fun k => gs + BitVec.ofNat 64 (65536 * k)) ++ [gc]
      let (s, f) := s.translateAll i.grp.core i.grp.space (vas.map fun va => { lane := lane, va := va, acc := .read })
      checkFound s j f fun _ =>
      checkMiss s j f fun _ =>
      let pas := f.map fun p => p.2.pa
      let pd := pas.headD 0
      let source := (pas.drop 1).take 32
      let pc := pas.getD 33 0
      checkEntry s i .protection (!inFlash pd) gd fun _ =>
      checkEntry s i .protection (source.any fun pa => !inDram pa) gs fun _ =>
      checkEntry s i .protection
        (inHost pc || (s.translate i.grp.core i.grp.space gc .write).2 = .fault .protection) gc fun _ =>
      checkEntry s i .flashWrite (inFlash pc) gc fun _ =>
        let fl := s.flashStack (flashStackOf pd)
        if 8 ≤ fl.installs.length then
          .next (s.onGroup i.gid fun g => g.onEntry i.slot.mask fun e =>
            { e with hold := .stack (flashStackOf pd), len := i.slot.words })
        else
          let (s, t) := s.ticket
          let new : Install :=
            { ticket := t, column := i.grp.core, group := some i.gid, extent := flashExtentOf pd, source := source,
              inline := none, completion := pc, busy := fl.installs.any fun k => k.extent = flashExtentOf pd,
              assay := none, deadline := none, permit := none, tries := 0 }
          .next ((s.setFlash (flashStackOf pd) { fl with installs := fl.installs ++ [new] }).retire i id)

/-! ### Wear and the free pool (R178, R182) -/

/-- Cycles used by the four erase blocks of a physical extent. -/
def Flash.cycles (f : Flash) (p : Nat) : List Nat := (List.range 4).map fun b => f.wear.at (p * 4 + b) 0

/-- The cycles of an extent's most worn block. -/
def Flash.worst (f : Flash) (p : Nat) : Nat := (f.cycles p).foldl max 0

/-- Whether a physical extent is mapped. -/
def Flash.mapped (f : Flash) (p : Nat) : Bool :=
  (p < 524288 && (f.map.lookup p).isNone) || f.map.any fun m => m.2 = p

/-- The free physical extents. -/
def Flash.free (f : Flash) : List Nat :=
  (List.range 540672).filter fun p => !f.mapped p && !f.gone.contains p

/-- The free extent to program: least worn by its worst block, then by their sum, then the lowest (R178). -/
def Flash.choose (f : Flash) : Option Nat :=
  let key (p : Nat) : Nat := f.worst p * 2 ^ 16 + (f.cycles p).foldl (· + ·) 0
  f.free.foldl (fun best p => match best with
    | none => some p
    | some q => if key p < key q then some p else some q) none

/-- Erasing and programming an extent uses one cycle of each of its blocks. -/
def Flash.worn (f : Flash) (p : Nat) : Flash :=
  { f with wear := (List.range 4).foldl (fun w b => w.put (p * 4 + b) (w.at (p * 4 + b) 0 + 1)) f.wear }

/-! ### Performing an install (R178 to R181) -/

/-- The completion word, or the answer to the pass that asked; the install's permit and its place are given back
(R153, R181, R298). -/
def State.endInstall (s : State) (f : Nat) (n : Install) (code left : Nat) : State :=
  let fl := s.flashStack f
  let s := (s.setFlash f { fl with installs := fl.installs.tail }).onCore n.column fun c => c.leavePermit n.ticket
  match n.assay with
  | some t => s.passInstalled t (n.inline.getD []) code
  | none =>
    s.l2Write n.completion (leBytes 8 (code + 256 + left * 2 ^ 32))

/-- Commit: staging pages and level-2 lines of the extent go, the logical extent switches to the new physical one, the
old one becomes free (R180). -/
def State.commitInstall (s : State) (f : Nat) (n : Install) (p : Nat) (content : List Byte) : State :=
  let lo := 0x400000000000 + (f * 524288 + n.extent) * 0x200000
  let within (pa : Nat) : Bool := lo ≤ pa && pa < lo + 0x200000
  let drop (sl : Slice) : Slice := { sl with supers := mapLines sl.supers fun a l => if within a then none else some l }
  let fl := s.flashStack f
  { s with
    staging := s.staging.filter fun q => !within (q * 65536),
    slices := s.slices.map fun (q : Nat × Slice) => (q.1, drop q.2),
    flashMem := s.flashMem.writeBytes ((f * 0x100000 + p) * 0x200000) content,
    flash := s.flash.put f { fl with map := fl.map.put n.extent p, commits := fl.commits ++ [s.time] } }

/-- Some line of a range cannot be read at its level-2 home (R178, R356). -/
def State.lostLine (s : State) (pa n : Nat) : Bool := (pieces pa n).any fun p => s.unreadable p.1

/-- Erase, program and verify on the best free extent; `failing` are the blocks that fail verify (R178). A repeat that finds no
extent below its budget ends with code 1 (DESIGN CHOICE, log 92), and a repeat programs the bytes that were read the first
time (DESIGN CHOICE, log 106). -/
def State.program (s : State) (f : Nat) (n : Install) (failing : List Nat) : State :=
  let fl := s.flashStack f
  match fl.choose with
  | none => s.endInstall f n 1 0
  | some p =>
    if 3000 ≤ fl.worst p then s.endInstall f n 1 0
    else if n.inline.isNone && n.source.any fun pa => s.lostLine pa 65536 then s.endInstall f n 5 0
    else
      let content := n.inline.getD (n.source.flatMap fun pa => s.peek pa 65536)
      let fl := fl.worn p
      let bad := (failing.filter fun b => b < 4).eraseDups
      if bad = [] then
        let s := (s.setFlash f fl).commitInstall f n p content
        s.endInstall f n 0 (3000 - fl.worst p)
      else
        let fl := { fl with retired := fl.retired ++ bad.map fun b => p * 4 + b, gone := fl.gone ++ [p] }
        if n.tries = 0 then
          s.setFlash f { fl with installs := { n with tries := 1, inline := some content } :: fl.installs.tail }
        else (s.setFlash f fl).endInstall f n 2 0

/-- Some lock names a run that holds an extent (R179). -/
def Flash.isLocked (f : Flash) (e : Nat) : Bool := f.locked.any fun r => r.1 ≤ e && e < r.1 + r.2

/-- The stack's install whose turn it is goes one phase on: busy, locked, its permit, programming (R178, R179, R298). -/
def execFlashInstall (f : Nat) (failing : List Nat) (s : State) : Result :=
  let fl := s.flashStack f
  match fl.installs with
  | [] => .next s
  | n :: rest =>
    match n.permit with
    | none =>
      if n.busy then .next (s.endInstall f n 3 0)
      else if fl.isLocked n.extent then .next (s.endInstall f n 6 0)
      else
        let c := s.core n.column
        let due := s.time + 100000
        let wait (s : State) (t : Nat) : State :=
          s.setFlash f { fl with installs := { n with permit := some t, deadline := some due } :: rest }
        match c.permits.find? fun p => p.explicit && p.held && p.granted && n.group.isSome && p.group = n.group with
        | some p => .next (wait (s.onCore n.column fun c => c.usePermit p.ticket [n.ticket]) p.ticket)
        | none =>
          let (s, t) := s.ticket
          let new : Permit :=
            { ticket := t, group := n.group, explicit := false, granted := false, held := true, users := [n.ticket] }
          .next (wait (s.onCore n.column fun c => { c with permits := c.permits ++ [new] }) t)
    | some t =>
      if (s.core n.column).permits.any fun p => p.ticket = t && p.granted then .next (s.program f n failing)
      else .next s

/-- The install has waited 1 ms for its permit (R178). -/
def execInstallPermitTimeout (f : Nat) (s : State) : Result :=
  match (s.flashStack f).installs with
  | [] => .next s
  | n :: _ =>
    match n.permit, n.deadline with
    | some t, some d =>
      if d ≤ s.time && !((s.core n.column).permits.any fun p => p.ticket = t && p.granted) then
        .next (s.endInstall f n 4 0)
      else .next s
    | _, _ => .next s

/-! ### Locks (R179) and the status record (R183) -/

/-- A run of logical extents, numbered through the stacks, is locked (R179). -/
def execLockExtents (first count : Nat) (s : State) : Result :=
  let f := first / 524288
  let run := (first % 524288, count)
  let fl := s.flashStack f
  s.served? (fun _ => f < 4 && first % 524288 + count ≤ 524288) fun s =>
    s.setFlash f { fl with locked := run :: fl.locked.filter fun r => r != run }

/-- The lock that names a run is lifted; locks of other runs hold, those that share extents with it too (R179; log 75). -/
def execUnlockExtents (first count : Nat) (s : State) : Result :=
  let f := first / 524288
  let run := (first % 524288, count)
  let fl := s.flashStack f
  s.served? (fun _ => f < 4) fun s =>
    s.setFlash f { fl with locked := fl.locked.filter fun r => r != run }

/-- The code of a unit in a prediction (log 13). -/
def Part.number : Part → Nat
  | .column n => 8 * n
  | .slice n => 8 * n + 1
  | .bank n => 8 * n + 2
  | .eraseBlock f n => 8 * (f + 4 * n) + 3
  | .memoryStack n => 8 * n + 4
  | .flashStack n => 8 * n + 5

/-- Seconds since 1970 by the wall clock that the host has given (R183). -/
def State.wallSeconds (s : State) : Nat :=
  match s.foreman.wallClock with
  | some (secs, tick) => secs + (s.time - tick) / 100000000
  | none => 0

/-- The predicted end of life of a flash stack; all ones while fewer than 24 hours of records exist or no install has
committed in the last 30 days (R183, R358; log 13). -/
def State.flashEnd (s : State) (f : Nat) : DWord :=
  let recent := (s.flashStack f).commits.filter fun t => s.time < t + 30 * 8640000000000
  if s.time < 8640000000000 || recent = [] then 0xFFFFFFFFFFFFFFFF
  else Config.endOfLife (Part.number (.flashStack f)) s.wallSeconds recent

/-- The 32-byte record of a flash stack as four words; zeros for a stack out of service (R183, R299). The remaining endurance
is rounded down (DESIGN CHOICE, log 93). -/
def State.flashRecord (s : State) (f : Nat) : List DWord :=
  if s.flashOut.contains f then [0, 0, 0, 0]
  else
    let fl := s.flashStack f
    let free := (fl.free.filter fun p => fl.worst p < 3000).length
    let usable := 4 * (540672 - fl.gone.length)
    let used := (fl.wear.filter fun p => !fl.gone.contains (p.1 / 4)).foldl (fun a p => a + min p.2 3000) 0
    let remaining := (3000 * usable - used) * 65536 / (3000 * usable)
    let day := (fl.commits.filter fun t => s.time < t + 8640000000000).length
    [BitVec.ofNat 64 (free + fl.retired.length * 2 ^ 32), BitVec.ofNat 64 (remaining + day * 2 ^ 32), s.flashEnd f, 0]

/-- `fstat` (R299). -/
def execFstat (x : XS) (s : State) : Result :=
  withIssue s x.g fun i =>
    if i.active = 0 then .next (s.retire i id)
    else
      let f := i.scalar x.a
      checkEntry s i .illegalField (3 < f) i.slot.pc fun _ =>
        .next (s.retire i fun g => (s.flashRecord f).zipIdx.foldl (fun g p => g.setU (x.d.n.toNat + p.2) p.1) g)

/-- The host reads the record of one of the four flash stacks, a status request; none arrives while the link is down (R183,
R343, R355; log 19). -/
def execFlashStatusRead (f : Nat) (s : State) : Result :=
  .next (if s.link.up && f < 4 then s.report (.answer 0 ((s.flashRecord f).flatMap fun w => leBytes 8 w.toNat)) else s)

end Sys2Proof.Machine
end

