-- ==== Sys2Proof/Machine/Preempt.lean ====
section
/-! DEFINITION. Quantum ends, saving a cluster and resuming it (05 R60 to R67; 29 R328). -/

namespace Sys2Proof.Machine

/-! ### Save areas (R65, R66) -/

/-- The section types of a team's save with their versions (R66): section 4 only while `$ways` is 8. Section 9 is listed
also where no base-die work is outstanding (DESIGN CHOICE, log 68). -/
def sections (floor : Bool) : List (Nat × Nat) :=
  [(1, 3), (2, 3), (3, 3)] ++ (if floor then [(4, 3)] else []) ++ [(5, 3), (6, 3), (7, 3), (8, 3), (9, 1)]

/-- The length of a section body, within what a maximal save has room for (R65, R66; log 14). -/
def bodyLength (type team : Nat) : Nat := min (Config.sectionLength type team) (Config.maximalBodies / 9)

/-- The bytes of some section bodies. -/
def bodies (ss : List (Nat × Nat)) (team : Nat) : Nat := (ss.map fun p => bodyLength p.1 team).sum

/-- The bytes of an area: header, directory, bodies (R66; log 14). -/
def areaSize (team : Nat) (floor : Bool) : Nat :=
  let ss := sections floor
  64 + 16 * ss.length + bodies ss team

/-- Header and directory of a save area (R66). -/
def areaImage (g : Grid) (k : Cluster) (t : Nat) (m : Team) (floor trapped filling : Bool) (tick : Nat) : List Byte :=
  let ss := sections floor
  let dir := ss.foldl (fun (bs, off) p =>
    let len := bodyLength p.1 t
    (bs ++ leBytes 2 p.1 ++ leBytes 2 p.2 ++ leBytes 4 0 ++ leBytes 4 off ++ leBytes 4 len, off + len))
    (([] : List Byte), 64 + 16 * ss.length)
  leBytes 4 3 ++ leBytes 4 (areaSize t floor) ++ leBytes 4 ss.length ++
    leBytes 4 (trapped.toNat + 2 * filling.toNat) ++ leBytes 4 g.id.toNat ++ leBytes 4 k.index ++ leBytes 8 tick ++
    leBytes 1 m.index ++ List.replicate 31 0 ++ dir.1

/-- The free pieces of the save pool, as address and length; areas are listed by rising address. -/
def gaps (lo hi : Nat) : List (Nat × Nat) → List (Nat × Nat)
  | [] => [(lo, hi - lo)]
  | (a, n) :: r => (lo, a - lo) :: gaps (a + n) hi r

/-- Takes an area of `n` bytes from the pool, in a free piece of the engine's choice (R65; log 10). -/
def State.takeArea (s : State) (n : Nat) : State × Option Nat :=
  match s.foreman.savePool with
  | none => (s, none)
  | some (base, size) =>
    let room := (gaps base (base + size) s.areas).filter fun g => n ≤ g.2
    if room.isEmpty then (s, none)
    else
      let (s, k) := s.pick room.length
      let a := (room.getD k (0, 0)).1
      ({ s with areas := (s.areas.filter fun x => x.1 < a) ++ [(a, n)] ++ s.areas.filter fun x => a < x.1 }, some a)

/-- Takes an area for every team of a list; none where the pool lacks room for one of them. -/
def State.takeAreas (s : State) (ns : List Nat) : Option (State × List Nat) :=
  ns.foldl (fun acc n => match acc with
    | none => none
    | some (s, out) => match s.takeArea n with
      | (s, some a) => some (s, out ++ [a])
      | (_, none) => none) (some (s, []))

/-! ### Saving (R62, R63, R67) -/

/-- Whether a group of the team waits for a memory-side reply, a window answer or the end of work that a save does not
stop: executor commands, a reply on its way, window messages, a record that is no multicast, a draining epilogue
(R62). -/
def State.mustWait (s : State) (t : Nat) (m : Team) : Bool :=
  let c := s.core m.core
  (s.callsOf m.core).any (fun k => k.issuer.team = t && k.command.toNat % 16 < 8) ||
    s.replies.any (fun r => r.call.issuer.team = t) ||
    c.queue6.any (fun w => w.issuer.team = t) ||
    c.channels.any (fun p => match p.2.heads, p.2.running with
      | h :: _, some r => h.issuer.team = t && !(r.bytes.getD 9 0).getLsbD 2
      | _, _ => false) ||
    (match c.queue4 with
     | o :: _ => o.team = t && (match o.work with
       | .mma p => p.drain
       | _ => false)
     | [] => false)

/-- A call takes its place among others in the order in which they were sent, which their tickets give (R129). -/
def callIn (c : Call) : List Call → List Call
  | [] => [c]
  | x :: r => if c.ticket < x.ticket then c :: x :: r else x :: callIn c r

/-- The walks and passes of a team in the order of queue 5, each with the cursor and the descriptor with which it goes on
(R67, R129). A pass that waits for the install of an extent goes on at that extent's first block. -/
def State.stopped (s : State) (t : Nat) : List Call :=
  let ofEngine (e : Engine) : List Call := e.queue.zipIdx.filterMap fun p =>
    if p.1.issuer.team = t then
      some (if p.2 = 0 && e.running then
          { p.1 with start := e.step, tally := e.tally,
                     kept := if cmdCode p.1.command = 9 then e.partials else [] }
        else p.1)
    else none
  ((s.walkers ++ s.assays).flatMap (fun p => ofEngine p.2) ++
    s.cores.flatMap fun p => p.2.queue5.filter fun c => c.issuer.team = t).foldl (fun out c => callIn c out) []

/-- An engine without the calls of a team. -/
def Engine.without (e : Engine) (t : Nat) : Engine :=
  match e.queue with
  | c :: _ =>
    let q := e.queue.filter fun c => c.issuer.team != t
    if c.issuer.team = t && e.running then { Engine.initial with queue := q, refreshUntil := e.refreshUntil }
    else { e with queue := q }
  | [] => e

/-- The installs that stopped passes wait for have not been performed: they leave their stacks, and their permits go
(R62, R67). -/
def State.dropInstalls (s : State) (cs : List Call) : State :=
  let mine (n : Install) : Bool := n.assay.any fun t => cs.any fun c => c.ticket = t
  let gone := s.flash.flatMap fun p => p.2.installs.filter mine
  let s := gone.foldl (fun s n => s.onCore n.column fun c => c.leavePermit n.ticket) s
  { s with flash := s.flash.map fun (p : Nat × Flash) =>
      (p.1, { p.2 with installs := p.2.installs.filter fun n => !mine n }) }

/-- The channels of a team as a save keeps them: a multicast in progress becomes the next record of its head, with
the shares that are still filling (R63). -/
def keepChannels (cs : Store Channel) (t : Nat) : Store Channel :=
  cs.filterMap fun p =>
    let hs := p.2.heads.zipIdx.filterMap fun q =>
      if q.1.issuer.team = t then
        some (match q.2, p.2.running with
          | 0, some r => { q.1 with record := r.record, shares := some r.shares }
          | _, _ => q.1)
      else none
    if hs.isEmpty then none else some (p.1, { heads := hs, running := none, parked := none })

/-- Writes bytes at their level-2 homes, line by line. -/
def State.l2Fill (s : State) (pa : Nat) (bs : List Byte) : State := s.l2Write pa bs

/-- A group leaves its core: its permits go, an entry parked on translation or waiting for a permit or a place stands at its
instruction again (R62, R108). -/
def Group.rest (g : Group) : Group :=
  { g.onFronts (fun e => match e.hold with
      | .xlate _ _ _ _ | .permit _ | .stack _ => { e with hold := .free, len := 0 }
      | _ => e) with resident := false }

/-- Saves one team into its area (R62, R66, R67). The filling flag stands in the area of the team that owns the channel
(DESIGN CHOICE, log 68). The codebook is saved where it carries the team's tag, and leaves the core with it; one with
another team's tag stays (DESIGN CHOICE, log 80). -/
def State.saveTeam (s : State) (k : Cluster) (tick t area : Nat) : State :=
  match s.teams.lookup t, s.grids.lookup k.grid with
  | some m, some gr =>
    let core := m.core
    let gs := s.groups.filter fun p => p.2.team = t
    let c := s.core core
    let floor := m.floorNeed && (s.slice core).ways = 8
    let channels := keepChannels c.channels t
    let image := areaImage gr k t m floor (gs.any fun p => p.2.trap.isSome)
      (channels.any fun p => p.2.heads.any fun h => h.shares.isSome) tick
    let own := match c.codebook with
      | some b => if b.team = m.index && b.cluster = k.index && b.grid = gr.id.toNat then some b else none
      | none => none
    let saved : Saved :=
      { floor := if floor then some (s.slice core).floor else none, matrix := if m.floorNeed then some c.matrix else none,
        queue4 := c.queue4.filter fun o => o.team = t, channels := channels, codebook := own,
        adds := s.adds.filter fun a => a.issuer.team = t, walks := s.stopped t,
        ranges := c.scoreboard.filter fun r => r.team = t, area := area, image := image }
    let s := (s.dropInstalls saved.walks).releaseAt core 4 0 fun _ => true
    let s := s.l2Fill area (image ++ (List.range (areaSize t floor - image.length)).map fun j =>
      Config.sectionByte t (image.length + j))
    let s := s.onCore core fun c => { (c.forget t (gs.map (·.1))) with
      queue5 := c.queue5.filter fun x => x.issuer.team != t,
      codebook := (if own.isSome then none else c.codebook),
      matrix := if m.floorNeed then Matrix.initial else c.matrix }
    let s := if floor then s.returnWays core else s
    { s with
      groups := s.groups.map fun p => if p.2.team = t then (p.1, p.2.rest) else p,
      teams := s.teams.modify t fun m => { m with saved := some saved },
      walkers := s.walkers.map fun p => (p.1, p.2.without t),
      assays := s.assays.map fun p => (p.1, p.2.without t),
      adds := s.adds.filter fun a => a.issuer.team != t,
      slots := s.slots.filter fun x => !(gs.map (·.1)).contains x.group }
  | _, _ => s

/-- Where a saved cluster waits: at the head of its queue (R60), where its own wait begins and a raised launch that it
displaces stays raised (log 67), ahead of its launch's unplaced clusters, or at the tail (R61). Ahead of them it goes behind
those of its launch that were saved before it (DESIGN CHOICE, log 98). -/
def State.requeue (s : State) (k : Nat) (c : Cluster) (gr : Grid) (head : Bool) : State :=
  let x := s.queue gr.queue
  if head then
    let x := if s.headKey gr.queue = some c.grid then x else { x with since := s.time }
    s.setQueue gr.queue { x with items := .saved k :: x.items }
  else if gr.next < gr.clusters then
    let ahead (i : Item) : List Item := if i = Item.launch c.grid then [.saved k, i] else [i]
    s.setQueue gr.queue { x with items := x.items.flatMap ahead }
  else s.enqueue gr.queue (.saved k)

/-- Writing an area would meet an uncorrectable error (R357). -/
def State.areaBad (s : State) (a n : Nat) : Bool := (pieces a n).any fun p => s.unreadable p.1

/-- Saving a team would read an uncorrectable error: in a register of its groups, its scratchpad, its floor scratchpad, or
a dirty line of its core that the release writes out (R62, R66, R357). -/
def State.teamBad (s : State) (t : Nat) (m : Team) : Bool :=
  let ofTeam (g : Nat) : Bool := (s.groups.lookup g).any fun g => g.team = t
  let dirty (ss : List Super) (la : Nat) : Bool := (findLine ss (la * 128)).any fun l => l.dirty != 0
  s.flaws.any fun f => match f with
    | .vector g _ _ => ofTeam g
    | .uniform g _ => ofTeam g
    | .predicate g _ => ofTeam g
    | .scratch k _ => k = t
    | .floor c _ => c = m.core && m.floorNeed && (s.slice c).ways = 8
    | .l1 c la => c = m.core && dirty (s.core c).l1 la
    | .column c la => c = m.core && dirty (s.core c).column la
    | .line _ => false
    | .slice _ => false

/-- Saves a frozen cluster once nothing has to be awaited and the pool has room (R62, R65); where it lacks room the
cluster unfreezes and a new quantum starts (DESIGN CHOICE, log 69). A save that meets an uncorrectable error fails the
grid (R357). -/
def State.saveCluster (s : State) (k : Nat) : State :=
  match s.clusters.lookup k with
  | none => s
  | some c =>
    match c.frozen, s.grids.lookup c.grid with
    | some (tick, head), some gr =>
      let ts := c.teams.filterMap fun t => (s.teams.lookup t).map fun m => (t, m)
      if ts.any fun p => s.mustWait p.1 p.2 then s
      else
        let sizes := ts.map fun p => areaSize p.1 (p.2.floorNeed && (s.slice p.2.core).ways = 8)
        match s.takeAreas sizes with
        | none => s.onCluster k fun c => { c with frozen := none, since := s.time }
        | some (t, areas) =>
          if (areas.zip sizes).any (fun a => s.areaBad a.1 a.2) || ts.any fun p => s.teamBad p.1 p.2 then
            ((s.onGrid c.grid fun g => { g with failed := true }).discard k).endGrid c.grid
          else
          let s := t
          let s := (ts.zip areas).foldl (fun s p => s.saveTeam c tick p.1.1 p.2) s
          (s.onCluster k fun c => { c with resident := false, frozen := none }).feed.requeue k c gr head
    | _, _ => s

/-- A cluster freezes now and is saved as soon as it can be (R62). -/
def State.freeze (s : State) (k : Nat) (head : Bool) : State :=
  (s.onCluster k fun c => { c with frozen := some (s.time, head) }).saveCluster k

/-! ### Quantum ends (R60, R61, R328) -/

/-- The priority of a cluster's grid. -/
def State.prioOf (s : State) (c : Cluster) : Nat :=
  match s.grids.lookup c.grid with
  | some g => g.prio
  | none => 0

/-- Work of at least a priority waits and cannot be placed on free resources (R61). The waiting work is what stands at
the heads of the queues (DESIGN CHOICE, log 70). -/
def State.crowded (s : State) (p : Nat) : Bool :=
  (List.range 64).any fun q => match s.headPrio q with
    | some (i, h) => p ≤ h && (s.itemCorners i).isEmpty && (match i with
      | .launch g => match s.grids.lookup g with
        | some g => s.mayStart g
        | none => false
      | .saved _ => true)
    | none => false

/-- A team of the cluster stands on a column that has gone out of service, because the pool lacked room (R357). -/
def State.mustLeave (s : State) (k : Nat) : Bool :=
  s.teams.any fun t => t.2.cluster = k && t.2.saved.isNone && s.columnsOut.contains t.2.core

/-- The end of a cluster's quantum: it is saved, or a new quantum starts (R61); while a remap is due it is saved in any
case (R357). -/
def State.endQuantum (s : State) (k : Nat) : State :=
  match s.clusters.lookup k with
  | none => s
  | some c =>
    if s.mustLeave k then s.freeze k true
    else if s.remapDue || s.crowded (s.prioOf c) then s.freeze k false
    else s.onCluster k fun c => { c with since := s.time }

/-- A resident cluster's quantum has run out (R61); one that the host has changed counts for a quantum that runs already
(DESIGN CHOICE, log 99). -/
def State.expired (s : State) (c : Cluster) : Bool :=
  match s.grids.lookup c.grid with
  | some g => c.resident && c.frozen.isNone && c.since + (s.queue g.queue).quantum * 100 ≤ s.time
  | none => false

/-- Quantum end of a cluster: among those that reach it together, the one of lowest priority and then the one
resident longest goes first. A frozen cluster goes on with its save (R61, R62). -/
def execQuantumEnd (k : Nat) (s : State) : Result :=
  match s.clusters.lookup k with
  | none => .next s
  | some c =>
    if c.frozen.isSome then .next (s.saveCluster k)
    else if s.expired c && s.clusters.all fun p =>
        p.1 = k || !s.expired p.2 || s.prioOf c < s.prioOf p.2 ||
          (s.prioOf c = s.prioOf p.2 && c.arrived ≤ p.2.arrived) then
      .next (s.endQuantum k)
    else .next s

/-- A group is held in `waitdep`: all its live lanes stand in entries that are held there (R60; DESIGN CHOICE, log
71). -/
def Group.waitsDep (g : Group) : Bool :=
  g.live != 0 && g.front.entries.foldl (fun m e => if e.hold = .waitdep then m ||| e.mask else m) 0 = g.live

/-- Every live group of a cluster waits for its producers, and a waiting cluster could be placed on one of its cores
were they free (R60). -/
def State.mayEvict (s : State) (k : Nat) (c : Cluster) : Bool :=
  let own := s.groups.filter fun p => p.2.cluster = k && p.2.live != 0
  let free := { s with groups := s.groups.filter fun p => p.2.cluster != k,
                       teams := s.teams.filter fun p => p.2.cluster != k }
  let cores := s.teams.filterMap fun p => if p.2.cluster = k then some p.2.core else none
  !s.placesNothing && c.resident && c.frozen.isNone && !own.isEmpty && own.all (fun p => p.2.waitsDep) &&
    (List.range 64).any fun q => match s.headPrio q with
      | some (i, _) => match s.itemGrid i with
        | some g => (free.itemCorners i).any fun corner =>
            (rectangle corner g.rows g.cols).any fun n => cores.contains n
        | none => false
      | none => false

/-- A cluster whose groups all wait in `waitdep` makes room (R60). -/
def execWaitdepEviction (k : Nat) (s : State) : Result :=
  match s.clusters.lookup k with
  | none => .next s
  | some c =>
    if c.frozen.isSome then .next (s.saveCluster k)
    else .next (if s.mayEvict k c then s.freeze k true else s)

/-! ### Resuming (R62 to R67) -/

/-- The area still holds the header as written and the section types and versions of its directory (R66). -/
def State.areaIntact (s : State) (v : Saved) : Bool :=
  let bs := s.peek v.area v.image.length
  bs.take 64 = v.image.take 64 &&
    (List.range ((v.image.length - 64) / 16)).all fun j =>
      (bs.drop (64 + 16 * j)).take 4 = (v.image.drop (64 + 16 * j)).take 4

/-- A channel with the heads that a save kept behind those it has (DESIGN CHOICE, log 85: also past the four of R169). -/
def Core.addHeads (c : Core) (cs : Store Channel) : Core :=
  { c with channels := cs.foldl (fun m p =>
      let x := m.at p.1 Channel.initial
      m.put p.1 { x with heads := x.heads ++ p.2.heads }) c.channels }

/-- A hold with the names that the operations it waits for have now. -/
def Hold.renamed (f : Nat → Nat) : Hold → Hold
  | .queues ts => .queues (ts.map f)
  | .ways n own ts => .ways n own (ts.map f)
  | h => h

/-- A group with the names that its calls have now, in its waiting pools and its holds. -/
def Group.renamed (g : Group) (f : Nat → Nat) : Group :=
  let pooled (x : Front) : Front := { x with pool := x.pool.map fun p => { p with ticket := f p.ticket } }
  let g := g.onFronts fun e => { e with hold := e.hold.renamed f }
  { g with front := pooled g.front, trap := g.trap.map fun t => { t with front := pooled t.front } }

/-- The stopped walks and passes of a team join queue 5 of a core again, behind the calls that stand there, with what each
is called now (R67, R129). -/
def State.reissue (s : State) (core : Nat) (walks : List Call) : State × Store Nat :=
  walks.foldl (fun (s, names) x =>
    let (s, t) := s.ticket
    (s.onCore core fun c => { c with queue5 := c.queue5 ++ [{ x with core := core, ticket := t }] },
      (names.put x.ticket t))) (s, ([] : Store Nat))

/-- One team comes back on a core: an acquire at `.dev`, its ways, its engines' work, and its walks and passes go to their
engines (R62, R64, R67, R103). Its return-free adds and its range-scoreboard entries come back all at once, beside what
the core has by then (DESIGN CHOICE, log 85). -/
def State.restoreTeam (s : State) (t core : Nat) : State :=
  match s.teams.lookup t with
  | none => s
  | some m =>
    match m.saved with
    | none => s
    | some v =>
      let s := s.openCore core m.size m.floorNeed
      let s := match v.floor with
        | some f =>
          let s := s.surrender core
          s.setSlice core { s.slice core with floor := f }
        | none => s
      let s := s.onCore core fun c => { (c.addHeads v.channels) with
        matrix := v.matrix.getD c.matrix, queue4 := c.queue4 ++ v.queue4, codebook := v.codebook.or c.codebook,
        scoreboard := c.scoreboard ++ v.ranges }
      let (s, names) := s.reissue core v.walks
      let back (g : Group) : Group :=
        if g.team = t then { g.renamed (fun k => names.at k k) with resident := true, core := core } else g
      let s : State := { s with
        adds := s.adds ++ (v.adds.map fun a => { a with core := core }),
        areas := (s.areas.filter fun a => a.1 != v.area),
        teams := (s.teams.modify t fun m => { m with saved := none, core := core }),
        groups := s.groups.map fun (p : Nat × Group) => (p.1, back p.2) }
      (s.acquireAt core 4 0 none).feedCore core

/-- The launch engine resumes the saved cluster it serves, on a rectangle of its shape; an area whose header or section
versions differ fails the grid with reason 1 (R56, R61, R66). -/
def execClusterResume (corner : Nat) (s : State) : Result :=
  match s.serve with
  | some (q, p, .saved k) =>
    match s.clusters.lookup k with
    | none => .next s
    | some c =>
      let at' := chooseCorner corner (s.itemCorners (.saved k))
      let vs := c.teams.filterMap fun t => (s.teams.lookup t).bind fun m => m.saved
      let s := s.served q p true
      if vs.all s.areaIntact then
        match s.grids.lookup c.grid with
        | none => .next s
        | some gr =>
          let s := ((c.teams.zip (rectangle at' gr.rows gr.cols))).foldl (fun s x => s.restoreTeam x.1 x.2) s
          .next (s.onCluster k fun c =>
            { c with resident := true, corner := at', since := s.time, arrived := s.time })
      else
        .next (((s.onGrid c.grid fun g => { g with failed := true, reason := 1 }).discard k).endGrid c.grid)
  | _ => .next s

end Sys2Proof.Machine
end

