-- ==== Sys2Proof/Machine/System.lean ====
section
/-! DEFINITION. System instructions (29 R323 to R338; 03 R32). -/

namespace Sys2Proof.Machine

/-! ### Traps and yielding -/

/-- `trap #n` raises `USER_TRAP` for its active lanes (R334). -/
def execTrap (gd : Guard) (_n : BitVec 16) (s : State) : Result :=
  withIssue s gd fun i =>
    if i.active = 0 then .next (s.retire i id) else .next (s.trap i .userTrap i.active i.slot.pc)

/-- Leaving trap mode (R335): outside it a trap; while a lane of the handler waits for a reply the entry stays. -/
def trapReturn (skip : Bool) (gd : Guard) (s : State) : Result :=
  withIssue s gd fun i =>
    if i.active = 0 then .next (s.retire i id)
    else if i.grp.trap.isNone then .next (s.trap i .illegalField i.active i.slot.pc)
    else if i.grp.front.pool != [] then .next s
    else .next { s.onGroup i.gid fun g => g.leaveTrap skip with
                 slots := s.slots.filter fun x => x.group != i.gid }

def execTret (gd : Guard) (s : State) : Result := trapReturn false gd s
def execTretSkip (gd : Guard) (s : State) : Result := trapReturn true gd s

/-- `yield` ends the quantum of the group's cluster (R328). -/
def execYield (gd : Guard) (s : State) : Result :=
  withIssue s gd fun i =>
    let s := s.retire i id
    .next (if i.active = 0 then s else s.endQuantum i.grp.cluster)

/-! ### Launch and dependence (R324 to R327) -/

/-- The 128 bytes of a message in sixteen uniform registers (R55). -/
def Issue.message (i : Issue) (b : Src) : List Byte :=
  match b with
  | .g n => (List.range 16).flatMap fun k => leBytes 8 (i.grp.ureg i.gid (n.toNat + k)).toNat
  | _ => []

/-- `launch`: the checks, the release, and the message is queued; while its queue is full the entry is held (R324,
R325). -/
def execLaunch (x : XS) (s : State) : Result :=
  withIssue s x.g fun i =>
    if i.active = 0 then .next (s.retire i id)
    else
      let bs := i.message x.a
      checkEntry s i .illegalField (field bs 0 1 != 1) i.slot.pc fun _ =>
      checkEntry s i .illegalField (s.refusal bs true != 0) i.slot.pc fun _ =>
        let s := s.releaseAt i.grp.core 4 0 fun _ => true
        if 256 ≤ s.waiting (field bs 15 1) then
          .next (s.onGroup i.gid fun g => g.holdAt i.slot (.launch bs x.d.n.toNat))
        else
          let (s, id) := s.launchChild i.grp bs
          .next (s.retire i fun g => g.setU x.d.n.toNat (id.setWidth 64))

/-- `waitdep` (R326). -/
def execWaitdep (gd : Guard) (s : State) : Result :=
  withIssue s gd fun i =>
    if i.active = 0 then .next (s.retire i id)
    else if s.producersDone i.grp.grid then .next ((s.acquireAt i.grp.core 4 0 none).retire i id)
    else .next (s.onGroup i.gid fun g => g.holdAt i.slot .waitdep)

/-- `trigger` (R59, R327). -/
def execTrigger (gd : Guard) (s : State) : Result :=
  withIssue s gd fun i =>
    if i.active = 0 then .next (s.retire i id)
    else .next ((s.releaseAt i.grp.core 4 0 fun _ => true).retire i fun g => { g with triggered := true })

/-! ### Way partition (R331) -/

def execSetways (x : XS) (s : State) : Result :=
  withIssue s x.g fun i =>
    if i.active = 0 then .next (s.retire i id)
    else
      let n := i.scalar x.a
      let core := i.grp.core
      let need := match s.teams.lookup i.grp.team with
        | some t => t.floorNeed
        | none => false
      checkEntry s i .illegalField (n != 8 && n != 16) i.slot.pc fun _ =>
      checkEntry s i .protection (!need) i.slot.pc fun _ =>
        let ts := (List.range 5).flatMap (fun q => s.queued core q) ++ s.waysPending i.grp.team
        if ts.isEmpty then
          let s := if (s.slice core).ways = n then s else if n = 8 then s.surrender core else s.returnWays core
          .next (s.retire i id)
        else
          let (s, t) := s.ticket
          .next (s.onGroup i.gid fun g => g.holdAt i.slot (.ways n t ts))

/-! ### Status registers (R32, R329, R330) -/

/-- `$permit` of a group: the explicit permit, or the implicit request of its oldest operation that has one: a call, an install,
or an operation of queue 4 (R167, R168, R316). One that the group has given up is its operation's alone. -/
def State.permitOf (s : State) (core gid : Nat) : Nat :=
  let c := s.core core
  match c.permits.find? fun p => p.explicit && p.held && p.group = some gid with
  | some p => if p.granted then 6 else 5
  | none =>
    match c.permits.find? fun p => !p.explicit && ((p.held && p.group = some gid) ||
        c.queue4.any fun o => p.users.contains o.ticket && o.issuers.any fun x => x.group = gid) with
    | some p => if p.granted then 2 else 1
    | none => 0

/-- The source of `sreg` by its code, for a lane (R32, R329). -/
def State.source (s : State) (i : Issue) (code lane : Nat) : Nat :=
  let g := i.grp
  match code with
  | 0 => lane
  | 1 => g.width
  | 2 => g.index
  | 3 => g.teamIndex
  | 4 => g.clus.toNat
  | 5 => g.gridId.toNat
  | 6 => coreId g.core
  | 7 => g.core
  | 8 => (g.issuing i.slot).prio.toNat
  | 9 => g.rep.toNat
  | 10 => g.tmask.toNat
  | 11 => g.tcause.toNat
  | 12 => g.taddr.toNat
  | 13 => g.plimit.toNat
  | 14 => s.waysFor g.core g.team
  | 15 => s.permitOf g.core i.gid
  | 16 => s.time % 2 ^ 64
  | 32 => g.args.toNat
  | _ => g.pbase.toNat

def execSreg (x : XS) (s : State) : Result :=
  withIssue s x.g fun i =>
    let k := x.i32.toNat
    .next (s.retire i fun g =>
      if x.d.uni then (if i.active = 0 then g else g.writeU .n64 x.d.n.toNat (s.source i k 0))
      else g.writeLanes i.active (if sregWide k then .n64 else .n32) x.d.n.toNat (s.source i k))

/-- `sset $rep` makes the entry's next instruction the repeated one (R205, R330). -/
def execSset (x : XS) (s : State) : Result :=
  withIssue s x.g fun i =>
    if i.active = 0 then .next (s.retire i id)
    else
      let v := i.scalar x.a
      let r := BitVec.ofNat 16 v
      checkEntry s i .illegalField (2 ^ 16 ≤ v || repLast r < repDone r) i.slot.pc fun _ =>
        if v = 0 then .next (s.retire i id)
        else
          .next (s.onGroup i.gid fun g =>
            let e := g.issuing i.slot
            let g := (g.follow i.slot.mask).leave i.slot.mask
            { g with rep := r }.enter
              { Entry.make e.prio (e.following i.slot) i.slot.mask with repeating := true })

/-! ### Translation and instruction caches (R332, R333) -/

/-- Drops the translations of an address space that meet a condition, in one core or in all. -/
def State.dropTlb (s : State) (core space : Nat) (all : Bool) (p : Tlb → Bool) : State :=
  let keep (c : Core) : Core := { c with tlb := c.tlb.filter fun t => !(t.space = space && p t) }
  if all then { s with cores := s.cores.map fun q => (q.1, keep q.2) } else s.onCore core keep

/-- Whether a page meets a range of addresses, which goes on at address 0 behind the last one; an empty range meets none
(R332). -/
def meets (lo size base len : Nat) : Bool :=
  len != 0 && ((lo < base + len && base < lo + size) || lo + 2 ^ 64 < base + len)

/-- `xlinv`; its trap names no address, so that `$taddr` holds the instruction's (R323, R332). -/
def execXlinv (x : XM) (s : State) : Result :=
  withIssue s x.g fun i =>
    let ls := lanes i.active
    let base := i.uni x.a
    let len := i.uni x.b
    let go (p : Tlb → Bool) : Result :=
      .next ((s.dropTlb i.grp.core i.grp.space (x.s = 4) p).retire i id)
    if ls = [] then .next (s.retire i id)
    else if x.sub = 1 then go fun _ => true
    else if x.ranged then
      checkEntry s i .xlateFault (badRange base len) i.slot.pc fun _ =>
        go fun t => meets t.base (2 ^ t.size) base.toNat len.toNat
    else
      checkLanes s i .xlateFault (fun l => !canonical (i.address x l)) (fun _ => i.slot.pc) fun _ =>
        go fun t => ls.any fun l => meets t.base (2 ^ t.size) (i.address x l).toNat 1

/-- `icinv`; `$taddr` of its trap as at `xlinv` (R323, R333). -/
def execIcinv (x : XS) (s : State) : Result :=
  withIssue s x.g fun i =>
    let base := i.uni x.a
    let len := i.uni x.b
    let all := x.i32.getLsbD 0
    let keep (c : Core) : Core := { c with icache := c.icache.filter fun l =>
      !(all || (l.space = i.grp.space && meets (l.line * 128) 128 base.toNat len.toNat)) }
    if i.active = 0 then .next (s.retire i id)
    else
      checkEntry s i .xlateFault (!all && badRange base len) i.slot.pc fun _ =>
        let s := if x.i32.getLsbD 1 then { s with cores := s.cores.map fun q => (q.1, keep q.2) }
          else s.onCore i.grp.core keep
        .next (s.retire i id)

/-! ### Completion counters (R336 to R338) -/

/-- The shared checks of `ccread` and `ccwait`, whose traps name no address (R323, R338); the counter's physical address
and its value at the home. -/
def readCounter (x : XS) (s : State) (k : Issue → State → Nat → DWord → Result) : Result :=
  withIssue s x.g fun i =>
    if i.active = 0 then .next (s.retire i id)
    else
      let va := i.uni x.a
      let j := i.lead
      checkEntry s j .xlateFault (!canonical va) i.slot.pc fun _ =>
      checkEntry s j .atomicAlign (va.toNat % 8 != 0) i.slot.pc fun _ =>
      let (s, f) := s.translateAll i.grp.core i.grp.space
        [{ lane := (lanes i.active).headD 0, va := va, acc := .read }]
      checkFails s j (f.fails false) (fun _ => i.slot.pc) fun _ =>
      checkMiss s j f fun _ =>
      let pa := match f with
        | p :: _ => p.2.pa
        | [] => 0
      checkEntry s j .protection (!inDram pa) i.slot.pc fun _ =>
      checkEntry s j .eccFatal (s.unreadable pa) va fun _ =>
        let (s, bs) := s.readAt i.grp.core 4 pa 8 false
        k i s pa (BitVec.ofNat 64 (leNat bs))

def execCcread (x : XS) (s : State) : Result :=
  readCounter x s fun i s _ v =>
    let s := if x.i32.getLsbD 0 then s.acquireAt i.grp.core 4 0 none else s
    .next (s.retire i fun g =>
      if x.d.uni then g.setU x.d.n.toNat v else g.writeLanes i.active .n64 x.d.n.toNat fun _ => v.toNat)

def execCcwait (x : XS) (s : State) : Result :=
  readCounter x s fun i s pa v =>
    let sys := x.i32.getLsbD 0
    let bound := i.uni x.b
    let limit := if x.i32.getLsbD 1 then some (i.scalar x.c, s.time) else none
    let due := match limit with
      | some (c, _) => c = 0
      | none => false
    if bound.toNat ≤ v.toNat || due then
      .next ((s.acquireAt i.grp.core (if sys then 5 else 4) 0 none).retire i fun g => g.setU x.d.n.toNat v)
    else
      let (s, t) := s.ticket
      let w : Watch := { ticket := t, pa := pa, bound := bound, last := v, met := false }
      .next ({ s with watches := s.watches ++ [w] }.onGroup i.gid fun g => g.holdAt i.slot (.counter
        { ticket := t, limit := limit, d := x.d.n.toNat, sys := sys, mask := i.slot.mask, expired := false }))

/-- The ticket of the counter wait at which an entry is held and whose limit has passed (R338). -/
def Entry.overdue (e : Entry) (time : Nat) : Option Nat :=
  match e.hold with
  | .counter w => match w.limit with
    | some (c, t) => if t + c ≤ time then some w.ticket else none
    | none => none
  | _ => none

/-- A counter wait that is over compares nothing more (R338). -/
def Entry.expire (e : Entry) : Entry :=
  match e.hold with
  | .counter w => { e with hold := .counter { w with expired := true } }
  | _ => e

/-- The limit of a `ccwait` has passed: it ends with the value last compared, and the home atomic unit compares nothing more
for it; an entry that a trap has saved goes on once its frontier is back (R338). -/
def execCcwaitTimeout (gid lane : Nat) (s : State) : Result :=
  let late (e : Entry) : Option Nat := if e.mask.getLsbD lane then e.overdue s.time else none
  let ts : List Nat := match s.groups.lookup gid with
    | some g => g.everyEntry.filterMap late
    | none => []
  let s : State := { s with watches := s.watches.map fun w => if ts.contains w.ticket then { w with met := true } else w }
  .next (s.onGroup gid fun g => g.onFronts fun e => if (late e).isSome then e.expire else e)

end Sys2Proof.Machine
end

