-- ==== Sys2Proof/Machine/Windows.lean ====
section
/-! DEFINITION. Window accumulators (17 R184 to R189; 25 R289 to R296): the five instructions, which send a message in
queue 6, and what the home unit does with it. -/

namespace Sys2Proof.Machine

/-! ### Values (R185) -/

/-- The type of a window's values: 0 `.f32`, 1 `.s32`, 2 `.bf16`, 3 pair. -/
def winTy (ty : Nat) : Ty :=
  match ty with
  | 0 => .f32
  | 1 => .s32
  | 2 => .bf16
  | _ => .n64

/-- The combinations of operator and type that R185 lists. -/
def winOpOk (op ty : Nat) : Bool :=
  match op with
  | 0 | 1 | 2 => ty ≤ 2
  | 3 | 4 | 5 => ty = 1
  | 6 => ty = 0
  | 7 | 8 => ty = 3
  | _ => false

/-- argmax (or argmin) of two pairs: value in bits [31:0], index above. -/
def argBest (most : Bool) (a b : Nat) : Nat :=
  let va := Flt.f32.value (a % 2 ^ 32)
  let vb := Flt.f32.value (b % 2 ^ 32)
  let low := if a / 2 ^ 32 ≤ b / 2 ^ 32 then a else b
  if va = .nan && vb = .nan then low / 2 ^ 32 * 2 ^ 32 + 0x7FC00000
  else if va = .nan then b
  else if vb = .nan then a
  else if a % 2 ^ 32 = b % 2 ^ 32 then low
  else if (if most then Flt.f32.max (a % 2 ^ 32) (b % 2 ^ 32) else Flt.f32.min (a % 2 ^ 32) (b % 2 ^ 32)) = a % 2 ^ 32
  then a else b

/-- a ⊕ b (R185). -/
def winCombine (op ty : Nat) (x y : DWord) : DWord :=
  let a := x.toNat
  let b := y.toNat
  let t := winTy ty
  BitVec.ofNat 64 (match op with
    | 0 => if ty = 1 then (a + b) % 2 ^ 32 else t.flt.add a b
    | 1 => if ty = 1 then (if t.toInt a < t.toInt b then b else a) else t.flt.max a b
    | 2 => if ty = 1 then (if t.toInt b < t.toInt a then b else a) else t.flt.min a b
    | 3 => Nat.land a b
    | 4 => Nat.lor a b
    | 5 => Nat.xor a b
    | 6 => t.flt.mul a b
    | 7 => argBest true a b
    | _ => argBest false a b)

/-- The identity of an operator (R185). -/
def winIdentity (op ty : Nat) : DWord :=
  let neg : Nat := match ty with
    | 1 => 0x80000000
    | 2 => 0xFF80
    | _ => 0xFF800000
  let pos : Nat := match ty with
    | 1 => 0x7FFFFFFF
    | 2 => 0x7F80
    | _ => 0x7F800000
  BitVec.ofNat 64 (match op with
    | 1 => neg
    | 2 => pos
    | 3 => 0xFFFFFFFF
    | 6 => 0x3F800000
    | 7 => 0xFFFFFFFF * 2 ^ 32 + neg
    | 8 => 0xFFFFFFFF * 2 ^ 32 + pos
    | _ => 0)

/-! ### The seesaw (R186) -/

def Window.combine (w : Window) : DWord → DWord → DWord := winCombine w.op w.ty

/-- How many contributions count. -/
def Window.count (w : Window) : Nat := w.back.length + w.front.length

/-- The aggregates of a flip: from newest to oldest, each element combined with what came before; the result's first
entry is the oldest contribution's. -/
def Window.flipped (w : Window) : List DWord → List DWord → List DWord
  | [], out => out
  | e :: r, [] => Window.flipped w r [e]
  | e :: r, s :: out => Window.flipped w r (w.combine e s :: s :: out)

/-- flip(): the front stack is held newest first. -/
def Window.flip (w : Window) : Window := { w with back := w.flipped w.front [], front := [], fold := none }

/-- expire() -/
def Window.expire (w : Window) : Window :=
  let w := if w.back = [] then w.flip else w
  { w with back := w.back.tail }

/-- Expires while more than W contributions count; `k` bounds them. -/
def Window.shrink : Nat → Window → Window
  | 0, w => w
  | k + 1, w => if w.width < w.count then Window.shrink k w.expire else w

/-- push(v) -/
def Window.push (w : Window) (v : DWord) : Window :=
  let w := { w with fold := some (match w.fold with
      | some f => w.combine f v
      | none => v), front := v :: w.front }
  w.shrink w.count

/-- value() -/
def Window.value (w : Window) : DWord :=
  match w.back, w.fold with
  | [], none => winIdentity w.op w.ty
  | [], some f => f
  | b :: _, none => b
  | b :: _, some f => w.combine b f

/-! ### Pinned superblocks (R90, R184) -/

/-- The superblocks of an object. -/
def windowSupers (capacity ty : Nat) : Nat :=
  let bytes := 128 + (if ty = 3 then 16 else 8) * capacity
  ((bytes + 127) / 128 + 3) / 4

/-- Places one superblock: the lowest set among those with the fewest pinned ones, an unused way of 0 to 7 (log 10) or
the least recently used unpinned one (R90). -/
def State.pinOne (s : State) (n pa : Nat) : Option State :=
  let sl := s.slice n
  let held (k : Nat) : Nat := (sl.pins.filter fun p => p.set = k).length
  match (List.range 4).findSome? fun c => (List.range 2048).find? fun k => held k = c with
  | none => none
  | some set =>
    let pinned := (sl.pins.filter fun p => p.set = set).map (·.way)
    let inSet := sl.supers.filter fun y => sliceSet y.tag = set && y.way < 8
    let empty := (List.range 8).filter fun w => !pinned.contains w && !inSet.any fun y => y.way = w
    let (s, way) :=
      if empty.isEmpty then
        match inSet.getLast? with
        | some v => (s.evictSuper n v, v.way)
        | none => (s, 0)
      else
        let (s, k) := s.pick empty.length
        (s, empty.getD k 0)
    let sl := s.slice n
    let new : Pin := { set := set, way := way, object := pa }
    some (s.setSlice n { sl with pins := sl.pins ++ [new] })

/-- Places `k` superblocks. -/
def State.pinAll (n pa : Nat) : Nat → State → Option State
  | 0, s => some s
  | k + 1, s => (s.pinOne n pa).bind (State.pinAll n pa k)

/-- The objects of a slice. -/
def State.windowsAt (s : State) (n : Nat) : Nat := (s.windows.filter fun p => s.home p.1 = n).length

/-- Creates an object, empty, where the slice has room for it (R184, R291). -/
def State.makeWindow (s : State) (pa : Nat) (config : DWord) (space : Nat) (foreman : Bool) : Option State :=
  let c := config.toNat
  let capacity := bits 29 18 c + 1
  let ty := bits 5 4 c
  if 256 ≤ s.windowsAt (s.home pa) then none
  else
    (State.pinAll (s.home pa) pa (windowSupers capacity ty) s).map fun s =>
      let new : Window := { capacity := capacity, width := bits 17 6 c + 1, ty := ty, op := bits 3 0 c, front := [],
                            fold := none, back := [], space := space, foreman := foreman }
      { s with windows := s.windows.put pa new }

/-- Deletes an object and frees its lines (R296). -/
def State.freeWindow (s : State) (pa : Nat) : State :=
  let n := s.home pa
  let s := s.setSlice n { s.slice n with pins := (s.slice n).pins.filter fun p => p.object != pa }
  { s with windows := s.windows.drop pa }

/-! ### Sending (R289 to R291) -/

/-- The local checks of R290 and the translation of the object address. -/
def windowCheck (x : XS) (s : State) (bad : Issue → Bool) (k : Issue → State → DWord → Nat → Result) : Result :=
  withIssue s x.g fun i =>
    if i.active = 0 then .next (s.retire i id)
    else
      let va := i.uni x.a
      let j := i.lead
      checkEntry s i .illegalField (bad i) va fun _ =>
      checkEntry s i .xlateFault (!canonical va) va fun _ =>
      checkEntry s i .atomicAlign (va.toNat % 128 != 0) va fun _ =>
      let (s, f) := s.translateAll i.grp.core i.grp.space
        [{ lane := (lanes i.active).headD 0, va := va, acc := .readOwn }]
      checkFound s j f fun _ =>
      checkMiss s j f fun _ =>
      let pa := match f with
        | p :: _ => p.2.pa
        | [] => 0
      checkEntry s i .protection (!inDram pa) va fun _ =>
        k i s va pa

/-- A message joins queue 6 (R129). -/
def State.sendWindow (s : State) (i : Issue) (va : DWord) (pa : Nat) (work : WinWork) : State × Nat :=
  let (s, t) := s.ticket
  let m : WinMsg := { ticket := t, issuer := i.issuer, va := va, pa := pa, work := work }
  (s.onCore i.grp.core fun c => { c with queue6 := c.queue6 ++ [m] }, t)

/-- A window instruction that returns nothing waits for acceptance (R291). -/
def windowHeld (x : XS) (s : State) (bad : Issue → Bool) (work : Issue → WinWork) : Result :=
  windowCheck x s bad fun i s va pa =>
    let (s, t) := s.sendWindow i va pa (work i)
    .next (s.onGroup i.gid fun g => g.holdAt i.slot (.window t))

/-- A returning form is in flight until its values are written (R202, R291). -/
def windowFlight (x : XS) (s : State) (work : Issue → WinWork) (writes : List (Bool × Nat × Nat)) : Result :=
  windowCheck x s (fun _ => false) fun i s va pa =>
    let (s, t) := s.sendWindow i va pa (work i)
    .next (s.retire i id |>.onGroup i.gid fun g => g.inFlight i.slot t x.la.toNat i.done writes)

/-- The configuration of R185 is not one it lists. -/
def configBad (c : Nat) : Bool := 2 ^ 30 ≤ c || !winOpOk (bits 3 0 c) (bits 5 4 c) || bits 29 18 c < bits 17 6 c

/-- The type that a `wpush` or `wread` names. -/
def XS.winTy (x : XS) : Nat := bits 1 0 x.i32.toNat

/-- The registers that a result of a window type takes. -/
def winSpan (ty : Nat) : Nat := if ty = 3 then 2 else 1

def execWinit (x : XS) (s : State) : Result :=
  windowHeld x s (fun i => configBad (i.uni x.b).toNat) fun i => .init (i.uni x.b)

def execWpush (x : XS) (s : State) : Result :=
  let ty := XS.winTy x
  let work (ret : Option Nat) (i : Issue) : WinWork :=
    .push ty ret ((lanes i.active).map fun l => (l, BitVec.ofNat 64 (i.raw (winTy ty) l x.b)))
  if x.i32.getLsbD 2 then
    windowFlight x s (work (some x.d.n.toNat)) [(false, x.d.n.toNat, winSpan ty)]
  else windowHeld x s (fun _ => false) (work none)

def execWread (x : XS) (s : State) : Result :=
  windowFlight x s (fun _ => .read (XS.winTy x) x.d.uni x.d.n.toNat)
    [(x.d.uni, x.d.n.toNat, if x.d.uni then 1 else winSpan (XS.winTy x))]

def execWlen (x : XS) (s : State) : Result :=
  windowHeld x s (fun i => i.scalar x.b = 0 || 4096 < i.scalar x.b) fun i => .len (i.scalar x.b)

def execWfree (x : XS) (s : State) : Result := windowHeld x s (fun _ => false) fun _ => .free

/-! ### At the home unit (R291 to R296) -/

/-- What the home unit answers: a cause, or the state with what it writes to the group. -/
inductive HomeAnswer where
  | denied (c : Cause)
  | done (s : State) (w : Group → Group)

/-- A held entry has issued the instruction at which it is held; otherwise it stands before it: it was parked on a
translation or a fetch, or waits for a permit or a place (R34, R108, R203). -/
def Entry.hasIssued (e : Entry) : Bool :=
  match e.hold with
  | .free | .xlate _ _ _ _ | .denied _ _ _ | .permit _ | .stack _ => false
  | _ => true

/-- The trap of a window instruction whose message the home unit refused: the instruction in flight, or the entry held
at it, is the faulting one (R203, R291). -/
def windowTrap (g : Group) (m : WinMsg) (c : Cause) : Trap :=
  let stop (followers : Nat) (mask : LaneMask) (next : DWord) : Trap :=
    { cause := c, lanes := m.issuer.mask, addr := m.va, pc := m.issuer.pc, port := m.issuer.port,
      followers := followers, resume := .entry mask m.issuer.pc next }
  match g.flights.find? fun f => f.ticket = m.ticket with
  | some f => stop f.issued f.mask (match g.front.entries.find? fun e => e.mask &&& f.mask != 0 with
    | some e => if e.hasIssued then e.beyond else e.pc
    | none => f.next)
  | none => match g.front.entries.find? fun e => e.hold = .window m.ticket with
    | some e => stop e.done e.mask e.beyond
    | none => stop 0 m.issuer.mask m.issuer.pc

/-- The instruction of a refused message is the first of its entry that has not run: where none of the followers of a
returning form has issued, its lanes stand at it again, and behind it where an earlier trap return has sent them (R203). -/
def Group.standBack (g : Group) (m : WinMsg) : Group :=
  match g.flights.find? fun f => f.ticket = m.ticket with
  | some f =>
    if f.issued != 0 then g
    else
      let front := redirect g.front f.mask fun e =>
        if e.pc = f.pc then e
        else { e with pc := f.pc, hold := .free, len := 0, after := if e.pc = f.next then none else some e.pc }
      { g with front := front }
  | none => g

/-- The lanes that a message's instruction took along: those in flight, or those of the entry held at it. -/
def Group.sentBy (g : Group) (es : List Entry) (m : WinMsg) : LaneMask :=
  match g.flights.find? fun f => f.ticket = m.ticket with
  | some f => f.mask
  | none => match es.find? fun e => e.hold = .window m.ticket with
    | some e => e.mask
    | none => 0

/-- The message belongs to a follower of the instruction whose trap the group has taken (R203). -/
def Group.follows (g : Group) (m : WinMsg) : Bool :=
  match g.trap with
  | some t => match t.resume with
    | .entry mask _ _ => g.sentBy t.front.entries m &&& mask != 0
    | _ => false
  | none => false

/-- A follower that faults as well has no effect and is not counted; its lanes go on at it (R203), while lanes that have come to
stand in their entry since stay where they are. It is the last one that has issued (`State.windowsWait`). -/
def Group.dropFollower (g : Group) (m : WinMsg) : Group :=
  let lanes := g.sentBy ((g.trap.map fun t => t.front.entries).getD []) m
  let back (e : Entry) : Entry := { e with pc := m.issuer.pc, hold := .free, len := 0, after := some m.issuer.pc }
  { g with trap := g.trap.map fun t =>
      { t with followers := t.followers - 1, front := redirect t.front lanes back,
               resume := match t.resume with
                 | .entry mask pc _ => .entry mask pc m.issuer.pc
                 | r => r } }

/-- The home unit takes the oldest window message of a core where it is of one kind. A refused one makes its group trap,
unless it is a follower's whose leader has trapped already (R203, R291). -/
def atHome (core : Nat) (s : State) (kind : WinWork → Bool) (f : State → WinMsg → HomeAnswer) : Result :=
  match (s.core core).queue6 with
  | [] => .next s
  | m :: _ =>
    if !kind m.work then .next s
    else
      let s := s.onCore core fun c => { c with queue6 := c.queue6.tail }
      match f s m with
      | .done s w =>
        .next (s.onGroup m.issuer.group fun g => ((w g).landed m.ticket).passHold fun h => h = .window m.ticket)
      | .denied c =>
        match s.groups.lookup m.issuer.group with
        | none => .next s
        | some g =>
          if g.follows m then .next (s.onGroup m.issuer.group fun g => (g.dropFollower m).landed m.ticket)
          else
            .next ((s.onGroup m.issuer.group fun g => (g.standBack m).landed m.ticket).takeTrap m.issuer.group
              (windowTrap g m c))

/-- The object of a message, with the checks 2 to 4 of R291. -/
def withObject (s : State) (m : WinMsg) (writes : Bool) (ty : Option Nat) (k : Window → HomeAnswer) : HomeAnswer :=
  match s.windows.lookup m.pa with
  | none => .denied .windowObj
  | some w =>
    if writes && w.foreman then .denied .protection
    else if ty.any (· != w.ty) then .denied .windowObj
    else k w

/-- `winit` (R292). -/
def execWinitAtHome (core : Nat) (s : State) : Result :=
  atHome core s (fun k => match k with
    | .init _ => true
    | _ => false) fun s m =>
      match m.work with
      | .init config =>
        if (s.windows.lookup m.pa).isSome then .denied .windowObj
        else
          match s.makeWindow m.pa config m.issuer.space false with
          | some s => .done s id
          | none => .denied .windowObj
      | _ => .done s id

/-- `wpush`: every contribution in order (R293). -/
def execWpushAtHome (core : Nat) (s : State) : Result :=
  atHome core s (fun k => match k with
    | .push _ _ _ => true
    | _ => false) fun s m =>
      match m.work with
      | .push ty ret vs =>
        withObject s m true (some ty) fun w =>
          let (w, out) := vs.foldl (fun (w, out) v =>
            let w := w.push v.2
            (w, out ++ [(v.1, w.value)])) (w, ([] : List (Nat × DWord)))
          .done { s with windows := s.windows.put m.pa w } fun g => match ret with
            | some d => out.foldl (fun g p => g.write (winTy ty) p.1 d p.2.toNat) g
            | none => g
      | _ => .done s id

/-- `wread` (R294). -/
def execWreadAtHome (core : Nat) (s : State) : Result :=
  atHome core s (fun k => match k with
    | .read _ _ _ => true
    | _ => false) fun s m =>
      match m.work with
      | .read ty uni d =>
        withObject s m false (some ty) fun w =>
          .done s fun g =>
            if uni then g.writeU (winTy ty) d w.value.toNat
            else g.writeLanes m.issuer.mask (winTy ty) d fun _ => w.value.toNat
      | _ => .done s id

/-- `wlen` (R295). -/
def execWlenAtHome (core : Nat) (s : State) : Result :=
  atHome core s (fun k => match k with
    | .len _ => true
    | _ => false) fun s m =>
      match m.work with
      | .len n =>
        withObject s m true none fun w =>
          if w.capacity < n then .denied .windowObj
          else
            let w := { w with width := n }
            .done { s with windows := s.windows.put m.pa (w.shrink w.count) } id
      | _ => .done s id

/-- `wfree` (R296). -/
def execWfreeAtHome (core : Nat) (s : State) : Result :=
  atHome core s (fun k => match k with
    | .free => true
    | _ => false) fun s m =>
      withObject s m true none fun _ => .done (s.freeWindow m.pa) id

end Sys2Proof.Machine
end

