-- ==== Sys2Proof/Machine/Foreman.lean ====
section
/-! DEFINITION. Requests of the host that the foreman serves: address spaces (09 R105), quanta (05 R61), the save pool
(R65), the boot configuration (01 R22, 17 R174), the remap of a slice (01 R26), the status word (33 R354), predictions
(R358) and the wall clock (17 R183). -/

namespace Sys2Proof.Machine

/-! ### Address spaces (R105) -/

/-- A root may be registered. -/
def State.rootOk (s : State) (space : Nat) (root : DWord) : Bool :=
  space < 4096 && (s.foreman.spaces.lookup space).isNone && root.toNat % 4096 = 0 && root.toNat < 2 ^ 48 &&
    !s.reserved root.toNat && !inFlash root.toNat

/-- Registers an address space; space 0 is registered at boot too (R105). -/
def execRegisterAddressSpace (space : Nat) (root : DWord) (s : State) : Result :=
  let put (s : State) : State :=
    { s with foreman := { s.foreman with spaces := s.foreman.spaces.put space root.toNat } }
  if space = 0 && s.foreman.stage = 0 then
    .next (if !s.link.up then s else if s.rootOk 0 root then (put s).reply true [] else s.reply false [])
  else s.served? (fun s => s.rootOk space root) put

/-- No live grid, queued ones included, runs in an address space (R105). -/
def State.spaceFree (s : State) (space : Nat) : Bool :=
  (s.foreman.spaces.lookup space).isSome && !s.grids.any fun g => g.2.space = space

/-- Releases an address space: its window objects and its translation-cache entries go (R105, R184). -/
def execReleaseAddressSpace (space : Nat) (s : State) : Result :=
  s.served? (fun s => s.spaceFree space) fun s =>
    let s := (s.windows.filter fun w => w.2.space = space && !w.2.foreman).foldl (fun s w => s.freeWindow w.1) s
    let s := s.dropTlb 0 space true fun _ => true
    { s with foreman := { s.foreman with spaces := s.foreman.spaces.drop space } }

/-! ### Quanta and the boot configuration -/

/-- Sets a queue's quantum, in whole microseconds from 250 to 64,000 (R61). -/
def execSetQuantum (queue micros : Nat) (s : State) : Result :=
  s.served? (fun _ => queue < 64 && 250 ≤ micros && micros ≤ 64000) fun s =>
    s.setQueue queue { s.queue queue with quantum := micros }

/-- Bring-up has stopped at a stage below 5: the foreman serves only status requests (R355). -/
def State.halted (s : State) : Bool := s.foreman.stage != 0 && !s.ready

/-- A request of the boot configuration is answered before bring-up begins, at stage 0, and refused once the part is out
of reset; one that is halted serves no such request (R22, R174, R355; log 21). -/
def State.atBoot (s : State) (ok : Bool) (f : State → State) : Result :=
  .next (if s.halted || !s.link.up then s else if !s.ready && ok then (f s).reply true [] else s.reply false [])

/-- The one save pool: main DRAM, one maximal team save for each column (R65; log 21). -/
def execSetSavePool (base size : Nat) (s : State) : Result :=
  let inside := inDram base && base + size ≤ (384 - s.stagingGib) * 0x40000000
  .next (if s.halted || !s.link.up then s
    else if s.foreman.savePool.isNone && inside && 384 * Config.maximalSave ≤ size then
      { s with foreman := { s.foreman with savePool := some (base, size) } }.reply true []
    else s.reply false [])

/-- The modes of the 384 regions (true for bank-contiguous): refused where a set mixes them or where a staging region
would be bank-contiguous (R22, R174). -/
def execSetInterleaveModes (modes : List Bool) (s : State) : Result :=
  let one (k : Nat) : Bool := modes.getD (32 * k) false
  let pure := modes.length = 384 && (List.range 384).all fun r => modes.getD r false = one (r / 32)
  let staged := (List.range 384).any fun r => 384 - s.stagingGib ≤ r && modes.getD r false
  s.atBoot (pure && !staged) fun s => { s with modes := (List.range 12).map one }

/-- The staging region's size in GiB (R174). -/
def execSetStagingRegion (gib : Nat) (s : State) : Result :=
  let clash := (List.range 384).any fun r => 384 - gib ≤ r && s.modes.getD (r / 32) false
  s.atBoot (16 ≤ gib && gib ≤ 128 && !clash) fun s => { s with stagingGib := gib, staging := [] }

/-! ### The remap of a slice (R26, R184) -/

/-- No kernel is resident. -/
def State.nothingResident (s : State) : Bool := s.clusters.all fun c => !c.2.resident

/-- A window object comes to its new home slice, or is dropped where it no longer fits (R184). -/
def State.rehome (s : State) (pa : Nat) (w : Window) : State :=
  if 256 ≤ s.windowsAt (s.home pa) then s
  else match State.pinAll (s.home pa) pa (windowSupers w.capacity w.ty) s with
    | some s => { s with windows := s.windows.put pa w }
    | none => s

/-- Slice n's addresses are homed to slice n XOR 1: what it held goes to the banks, its objects move (R26, R89, R184). -/
def execSliceRemap (n : Nat) (s : State) : Result :=
  if s.slicesOut.contains n && !s.remapped.contains n && !s.slicesOut.contains (Nat.xor n 1) && s.nothingResident then
    let moved := s.windows.filter fun w => s.home w.1 = n
    let s := (s.slice n).supers.foldl (fun s x => s.evictSuper n x) s
    let s := s.setSlice n Slice.initial
    let s : State := { s with windows := s.windows.filter fun w => s.home w.1 != n }
    let s : State := { s with remapped := n :: s.remapped }
    .next (moved.foldl (fun s w => s.rehome w.1 w.2) s)
  else .next s

/-! ### Status (R354, R358, R183) -/

/-- The foreman status word (R354). -/
def State.statusWord (s : State) : Nat :=
  s.foreman.stage * 256 + s.foreman.outFlag.toNat * 4 + s.foreman.calibration.toNat * 2 + s.ready.toNat

/-- A write to the status word: bit 2 is cleared by a 1 (R354). -/
def execClearOutOfServiceFlag (value : Nat) (s : State) : Result :=
  .next (if s.link.up && value.testBit 2 then { s with foreman := { s.foreman with outFlag := false } } else s)

/-- The predicted end of life of a column; all ones while fewer than 24 hourly reports exist (R358; log 13). -/
def State.columnEnd (s : State) (n : Nat) : DWord :=
  let recent := s.foreman.drift.filter fun d => d.1 = n && s.time < d.2.1 + 30 * 8640000000000
  if recent.length < 24 then 0xFFFFFFFFFFFFFFFF
  else Config.endOfLife (Part.number (.column n)) s.wallSeconds (recent.map fun d => d.2.2)

/-- The host reads a predicted end-of-life date (R358). -/
def execReadEndOfLife (unit : Part) (s : State) : Result :=
  .next (if !s.link.up then s else match unit with
    | .column n => if n < 384 then s.reply true (leBytes 8 (s.columnEnd n).toNat) else s.reply false []
    | .flashStack f => if f < 4 then s.reply true (leBytes 8 (s.flashEnd f).toNat) else s.reply false []
    | _ => s.reply false [])

/-- A column's hourly drift report; those older than 30 days go (R358). -/
def execDriftReport (column drift : Nat) (s : State) : Result :=
  .next { s with foreman := { s.foreman with
    drift := (column, s.time, drift) :: s.foreman.drift.filter fun d => s.time < d.2.1 + 30 * 8640000000000 } }

/-- The host gives the wall clock, a request served once `READY` is set (R183, R355). -/
def execWallClock (seconds : Nat) (s : State) : Result :=
  .next (if s.ready && s.link.up then { s with foreman := { s.foreman with wallClock := some (seconds, s.time) } } else s)

end Sys2Proof.Machine
end

