-- ==== Sys2Proof/Machine/Sign.lean ====
section
/-! DEFINITION. Signatures on code objects and owner keys (19 R215): ECDSA with SHA-384 on the 384-bit Brainpool curve of
RFC 5639, random variant, whose constants are presumed (log 18). -/

namespace Sys2Proof

/-- The field of the curve. -/
def curveP : Nat := 0x8CB91E82A3386D280F5D6F7E50E641DF152F7109ED5456B412B1DA197FB71123ACD3A729901D1A71874700133107EC53

/-- y² = x³ + A x + B. -/
def curveA : Nat := 0x7BC382C63D8C150C3C72080ACE05AFA0C2BEA28E4FB22787139165EFBA91F90F8AA5814A503AD4EB04A8C7DD22CE2826

@[inherit_doc curveA]
def curveB : Nat := 0x04A8C7DD22CE28268B39B55416F0447C2FB77DE107DCD2A62E880EA53EEB62D57CB4390295DBC9943AB78696FA504C11

/-- The base point. -/
def curveG : Nat × Nat :=
  (0x1D1C64F068CF45FFA2A63A81B7C13F6B8847A3E77EF14FE3DB7FCAFE0CBD10E8E826E03436D646AAEF87B2E247D4AF1E,
   0x8ABE1D7520F9C2A45CB1EB8E95CFD55262B70B29FEEC5864E19C054FF99129280E4646217791811142820341263C5315)

/-- The order of the base point. -/
def curveQ : Nat := 0x8CB91E82A3386D280F5D6F7E50E641DF152F7109ED5456B31F166E6CAC0425A7CF3AB6AF6B7FC3103B883202E9046565

/-- Extended Euclid: `a` times the first coefficient is the gcd, modulo `m`; `fuel` bounds the steps. -/
def inverseFrom (m : Nat) : Nat → Nat → Nat → Nat → Nat → Nat
  | 0, _, _, u, _ => u
  | k + 1, a, b, u, v => if b = 0 then u else inverseFrom m k b (a % b) v ((u + m * m - a / b * v % m) % m)

/-- The inverse modulo a prime. -/
def inverse (m a : Nat) : Nat := inverseFrom m 800 (a % m) m 1 0

/-- The sum of two points; none is the point at infinity. -/
def curveAdd (s t : Option (Nat × Nat)) : Option (Nat × Nat) :=
  match s, t with
  | none, t => t
  | s, none => s
  | some (a, b), some (c, d) =>
    let finish (l : Nat) : Option (Nat × Nat) :=
      let x := (l * l + 2 * curveP - a - c) % curveP
      some (x, (l * (a + curveP - x) + curveP - b) % curveP)
    if a ≠ c then finish ((d + curveP - b) * inverse curveP (c + curveP - a) % curveP)
    else if (b + d) % curveP = 0 then none
    else finish ((3 * a * a + curveA) * inverse curveP (2 * b) % curveP)

/-- The multiple `k` of a point, over the low `n` bits of `k`. -/
def curveMul : Nat → Nat → Option (Nat × Nat) → Option (Nat × Nat)
  | 0, _, _ => none
  | n + 1, k, s =>
    let r := curveMul n (k / 2) (curveAdd s s)
    if k % 2 = 1 then curveAdd s r else r

/-- Whether a pair is a point of the curve. -/
def onCurve (x y : Nat) : Bool :=
  x < curveP && y < curveP && y * y % curveP = (x * x * x + curveA * x + curveB) % curveP

/-- The signature (r, s) of a message verifies under a key (R215). -/
def signatureValid (key : Nat × Nat) (message : List Byte) (r s : Nat) : Bool :=
  let e := beNat (sha384 message)
  if !onCurve key.1 key.2 || r = 0 || curveQ ≤ r || s = 0 || curveQ ≤ s then false
  else
    let w := inverse curveQ s
    match curveAdd (curveMul 384 (e * w % curveQ) (some curveG)) (curveMul 384 (r * w % curveQ) (some key)) with
    | none => false
    | some (x, _) => x % curveQ = r

/-- A public key as an uncompressed point: 0x04, X, Y (R215). -/
def pointBytes (key : Nat × Nat) : List Byte := 4 :: (beBytes 48 key.1 ++ beBytes 48 key.2)

/-- The key identifier: the digest of the uncompressed point (R215). -/
def keyId (key : Nat × Nat) : List Byte := sha384 (pointBytes key)

end Sys2Proof
end

