-- ==== Sys2Proof/Machine/Admission.lean ====
section
/-! DEFINITION. Code objects (19 R209 to R217): keys, the checks of an LXO file, relocation, admission, unloading and
attestation. -/

namespace Sys2Proof.Machine

/-! ### Keys (R215) -/

/-- A 384-bit number pair as a point. -/
def pointOf (k : BitVec 384 × BitVec 384) : Nat × Nat := (k.1.toNat, k.2.toNat)

/-- The keys that the foreman accepts: the vendor root key and the owner keys. -/
def State.keys (s : State) : List (Nat × Nat) := pointOf Config.vendorKey :: s.foreman.ownerKeys.map pointOf

/-- The accepted key of an identifier. -/
def State.keyOf (s : State) (id : List Byte) : Option (Nat × Nat) := s.keys.find? fun k => keyId k = id

/-- An owner key as the request gives it: the uncompressed point, its leading 0x04 included. -/
def givenKey (bs : List Byte) : Option (Nat × Nat) :=
  let k := (beNat ((bs.drop 1).take 48), beNat ((bs.drop 49).take 48))
  if bs.length = 97 && bs.headD 0 = 4 && onCurve k.1 k.2 then some k else none

/-- A signed request enrols one of up to 16 owner keys; the signature is on the key's bytes (R215; log 15). -/
def execEnrolOwnerKey (key signer : List Byte) (sigR sigS : Nat) (s : State) : Result :=
  s.served? (fun s => match givenKey key, s.keyOf signer with
    | some _, some k => s.foreman.ownerKeys.length < 16 && signatureValid k key sigR sigS
    | _, _ => false) fun s =>
      match givenKey key with
      | some k => { s with foreman := { s.foreman with
          ownerKeys := s.foreman.ownerKeys ++ [(BitVec.ofNat 384 k.1, BitVec.ofNat 384 k.2)] } }
      | none => s

/-! ### The file (R209, R210) -/

/-- The first field of a list that is bad, by its file offset. -/
def firstBad (fs : List (Nat × Bool)) : Option Nat := (fs.find? fun f => f.2).map (·.1)

/-- The header (R209). -/
def headerFields (f : List Byte) : List (Nat × Bool) :=
  let n := field f 12 2
  let t := field f 16 8
  [(0, field f 0 4 != 0x004F584C), (4, field f 4 2 != 1), (6, field f 6 2 != 64),
   (8, field f 8 4 != f.length || f.length < 64), (12, n < 6 || 64 < n), (14, nonZero f 14 2),
   (16, t % 8 != 0 || t < 64 || f.length < t + 32 * n), (28, nonZero f 28 36)]

/-- A section (R210), with the file offset of its table entry. -/
structure Section where
  entry : Nat
  ty : Nat
  flags : Nat
  align : Nat
  off : Nat
  size : Nat
  load : Nat
deriving DecidableEq, Repr

/-- The sections of a file. -/
def sectionsOf (f : List Byte) : List Section :=
  (List.range (field f 12 2)).map fun k =>
    let e := field f 16 8 + 32 * k
    { entry := e, ty := field f e 2, flags := field f (e + 2) 2, align := field f (e + 4) 1, off := field f (e + 8) 8,
      size := field f (e + 16) 8, load := field f (e + 24) 8 }

def Section.loadable (x : Section) : Bool := x.ty = 1 || x.ty = 2 || x.ty = 3

/-- Two runs of bytes meet. -/
def runsMeet (a n b m : Nat) : Bool := n != 0 && m != 0 && a < b + m && b < a + n

/-- The fields of a table entry; `before` are the sections before it (R210). -/
def sectionFields (f : List Byte) (before : List Section) (last : Bool) (x : Section) : List (Nat × Bool) :=
  let flags := if x.ty = 1 then x.flags % 4 != 1 || 8 ≤ x.flags
    else if x.ty = 2 || x.ty = 3 then x.flags % 2 = 1 || 8 ≤ x.flags
    else x.flags != 0
  let single := 4 ≤ x.ty && before.any fun y => y.ty = x.ty
  let clash := runsMeet x.off x.size 0 64 || runsMeet x.off x.size (field f 16 8) (32 * field f 12 2) ||
    before.any fun y => runsMeet x.off x.size y.off y.size
  let sign := x.ty = 9
  [(x.entry, x.ty = 0 || 9 < x.ty || single || sign != last), (x.entry + 2, flags),
   (x.entry + 4, x.align < 2 || 21 < x.align), (x.entry + 5, nonZero f (x.entry + 5) 3),
   (x.entry + 8, clash || (sign && x.off + 144 != f.length)),
   (x.entry + 16, f.length < x.off + x.size || (sign && x.size != 144)), (x.entry + 24, x.load < x.size)]

/-- The fields of the whole table; a section that is missing shows at the section count (R210). -/
def tableFields (f : List Byte) (xs : List Section) : List (Nat × Bool) :=
  (xs.zipIdx.flatMap fun x => sectionFields f (xs.take x.2) (x.2 + 1 = xs.length) x.1) ++
    [(12, !([1, 4, 5, 7, 8, 9].all fun ty => xs.any fun x => x.ty = ty))]

/-- The one section of a type. -/
def sectionOf (xs : List Section) (ty : Nat) : Section :=
  (xs.find? fun x => x.ty = ty).getD { entry := 0, ty := ty, flags := 0, align := 2, off := 0, size := 0, load := 0 }

/-! ### Symbols, entries, relocations (R211 to R213) -/

/-- A symbol (R211). -/
structure Sym where
  home : Nat
  kind : Nat
  value : Nat
  size : Nat
deriving DecidableEq, Repr

/-- The symbols of an object. -/
def symbolsOf (f : List Byte) (xs : List Section) : List Sym :=
  let t := sectionOf xs 4
  (List.range (t.size / 24)).map fun k =>
    let e := t.off + 24 * k
    { home := field f (e + 4) 2, kind := field f (e + 7) 1, value := field f (e + 8) 8, size := field f (e + 16) 8 }

/-- The fields of a symbol (R211). -/
def symbolFields (f : List Byte) (xs : List Section) (k : Nat) : List (Nat × Bool) :=
  let e := (sectionOf xs 4).off + 24 * k
  let strings := sectionOf xs 5
  let kind := field f (e + 7) 1
  let value := field f (e + 8) 8
  match xs[field f (e + 4) 2]? with
  | none => [(e, strings.size ≤ field f e 4), (e + 4, true)]
  | some x =>
    [(e, strings.size ≤ field f e 4), (e + 4, !x.loadable || (kind = 1 && x.ty != 1)), (e + 6, 1 < field f (e + 6) 1),
     (e + 7, 2 < kind), (e + 8, x.load < value || (kind = 1 && (value % 4 != 0 || x.load ≤ value))),
     (e + 16, x.load < value + field f (e + 16) 8)]

/-- Whether an index names a kernel entry. -/
def isEntry (ss : List Sym) (k : Nat) : Bool :=
  match ss[k]? with
  | some y => y.kind = 1
  | none => false

/-- The fields of an entry record (R212). -/
def entryFields (f : List Byte) (xs : List Section) (ss : List Sym) (k : Nat) : List (Nat × Bool) :=
  let e := (sectionOf xs 7).off + 16 * k
  let w := field f (e + 4) 1
  let c := field f (e + 5) 1
  [(e, !isEntry ss (field f e 4)), (e + 4, w != 8 && w != 16 && w != 32 && w != 64), (e + 5, c = 0 || 32 < c),
   (e + 6, 8 ≤ field f (e + 6) 1), (e + 7, nonZero f (e + 7) 1), (e + 12, nonZero f (e + 12) 4)]

/-- A relocation (R213). -/
structure Reloc where
  target : Nat
  ty : Nat
  symbol : Nat
  off : Nat
  addend : Int
deriving DecidableEq, Repr

/-- The relocations of an object. -/
def relocsOf (f : List Byte) (xs : List Section) : List Reloc :=
  let t := sectionOf xs 6
  (List.range (t.size / 24)).map fun k =>
    let e := t.off + 24 * k
    { target := field f e 2, ty := field f (e + 2) 1, symbol := field f (e + 4) 4, off := field f (e + 8) 8,
      addend := (BitVec.ofNat 64 (field f (e + 16) 8)).toInt }

/-- Where the written field stands in its site, and its bytes, by type and length bits (R190, R200, R213). -/
def Reloc.place (r : Reloc) (l : Nat) : Nat × Nat :=
  match r.ty with
  | 1 => (0, 8)
  | 2 => (0, 4)
  | 3 => (8, 3)
  | 4 => (10, 2)
  | 5 => (8, 4)
  | _ => if l = 3 then (12, 8) else (4, 8)

/-- The format of a site is not the one that its type names (R213). -/
def Reloc.wrongSite (r : Reloc) (w0 : Nat) : Bool :=
  let fmt := formatOf (bits 9 2 w0)
  match r.ty with
  | 1 | 2 => false
  | 3 => fmt != some .xc || w0 % 2 = 0
  | 4 => fmt != some .xm || w0 % 2 = 0
  | 5 => fmt != some .xs || w0 % 2 = 0
  | _ => fmt.isNone || bits 1 1 w0 = 0

/-- The fields of a relocation and of its site (R213). -/
def relocFields (f : List Byte) (xs : List Section) (ss : List Sym) (k : Nat) (r : Reloc) : List (Nat × Bool) :=
  let e := (sectionOf xs 6).off + 24 * k
  match xs[r.target]? with
  | none => [(e, true)]
  | some x =>
    let at' := x.off + r.off
    let l := field f at' 4 % 4
    let (o, n) := r.place l
    let room := if r.ty ≤ 2 then x.load else x.size
    let held := (f.drop (at' + o)).take (min n (x.size - r.off - o))
    [(e, !x.loadable), (e + 2, r.ty = 0 || 6 < r.ty), (e + 3, nonZero f (e + 3) 1), (e + 4, ss.length ≤ r.symbol),
     (e + 8, r.off % 4 != 0 || room < r.off + o + n || (2 < r.ty && x.size < r.off + 4 * wordsOf l) ||
       r.wrongSite (field f at' 4) || leNat held != 0)]

/-- The fields of step 4 of R216. -/
def contentFields (f : List Byte) (xs : List Section) : List (Nat × Bool) :=
  let ss := symbolsOf f xs
  let whole (ty n : Nat) : Nat × Bool := ((sectionOf xs ty).entry + 16, (sectionOf xs ty).size % n != 0)
  let strings := sectionOf xs 5
  let trap := field f 24 4
  [whole 4 24] ++ (List.range ss.length).flatMap (symbolFields f xs) ++
    [(strings.off + strings.size - 1, strings.size != 0 && nonZero f (strings.off + strings.size - 1) 1), whole 7 16] ++
    (List.range ((sectionOf xs 7).size / 16)).flatMap (entryFields f xs ss) ++
    [(24, trap != 0xFFFFFFFF && !isEntry ss trap), whole 6 24] ++
    ((relocsOf f xs).zipIdx.flatMap fun r => relocFields f xs ss r.2 r.1)

/-! ### Requirements (R214) -/

/-- What the device reports for a key. -/
def State.quantity (s : State) (key : Nat) : Option Nat :=
  match key with
  | 1 => some 4
  | 2 => some 1
  | 3 => some 3
  | 4 => some (384 - s.columnsOut.length)
  | 5 => some (8 - s.stacksOut.length)
  | 6 => some 4
  | 7 => some 8
  | 8 => some s.stagingGib
  | _ => none

/-- The first requirement that is not met. -/
def State.unmet (s : State) (f : List Byte) (xs : List Section) : Option Nat :=
  let t := sectionOf xs 8
  (List.range ((t.size + 7) / 8)).find? fun k =>
    let e := t.off + 8 * k
    let v := field f (e + 4) 4
    !(match s.quantity (field f e 2), field f (e + 2) 1 with
      | some q, 0 => q = v
      | some q, 1 => v ≤ q
      | _, _ => false) || nonZero f (e + 3) 1 || t.size < 8 * k + 8

/-! ### Loading (R213, R216) -/

/-- The loadable sections with their load addresses, by section index. -/
def placedSections (xs : List Section) (loads : List Nat) : List (Nat × Section × Nat) :=
  ((xs.zipIdx.filter fun x => x.1.loadable).zip loads).map fun p => (p.1.2, p.1.1, p.2)

/-- The load address of a section. -/
def loadOf (ps : List (Nat × Section × Nat)) (k : Nat) : Nat :=
  match ps.lookup k with
  | some (_, a) => a
  | none => 0

/-- Every page of a load range is mapped with the section's flags, and is no flash page (step 5 of R216). -/
def State.pagesOk (s : State) (root : Nat) (x : Section) (a : Nat) : Bool :=
  x.load = 0 ||
    (List.range ((a + x.load - 1) / 65536 - a / 65536 + 1)).all fun k =>
      let va := (a / 65536 + k) * 65536
      canonical (BitVec.ofNat 64 va) && va < 2 ^ 64 &&
        match walkFrom va levels s root with
        | (_, .leaf size e) =>
          bits 6 6 e = 0 && bits 3 3 e = x.flags % 2 && bits 2 2 e = x.flags / 2 % 2 && bits 4 4 e = x.flags / 4 % 2 &&
            (match s.classify size e va .read with
             | .ok _ _ _ => true
             | _ => false)
        | _ => false

/-- Step 5 of R216. -/
def State.loadsOk (s : State) (space : Nat) (xs : List Section) (loads : List Nat) : Bool :=
  match s.foreman.spaces.lookup space with
  | none => false
  | some root =>
    loads.length = (xs.filter Section.loadable).length &&
      (placedSections xs loads).all fun p =>
        p.2.2 % 2 ^ p.2.1.align = 0 && p.2.1.load ≤ 2 ^ 48 && (p.2.1.ty != 1 || p.2.2 + p.2.1.load ≤ 2 ^ 48) &&
          s.pagesOk root p.2.1 p.2.2

/-- The address of a symbol. -/
def symbolAddress (ps : List (Nat × Section × Nat)) (ss : List Sym) (k : Nat) : Nat :=
  match ss[k]? with
  | some y => loadOf ps y.home + y.value
  | none => 0

/-- How many bits the literal of an instruction feeds (R196). -/
def Instr.litWidth (i : Instr) : Nat :=
  match i.ext with
  | none => 64
  | some e =>
    if e.a.isLit then i.shape.a.width else if e.b.isLit then i.shape.b.width
    else if e.c.isLit then i.shape.c.width else 64

/-- The value that a relocation writes, where it fits (R213). -/
def Reloc.value (r : Reloc) (f : List Byte) (xs : List Section) (ps : List (Nat × Section × Nat)) (ss : List Sym) :
    Option Nat :=
  let v : Int := symbolAddress ps ss r.symbol + r.addend
  let d : Int := v - (loadOf ps r.target + r.off : Nat)
  match r.ty with
  | 1 => some (v % 2 ^ 64).toNat
  | 2 | 5 => if 0 ≤ v && v < 2 ^ 32 then some v.toNat else none
  | 3 => if d % 4 = 0 && -2 ^ 23 ≤ d / 4 && d / 4 < 2 ^ 23 then some (d / 4 % 2 ^ 24).toNat else none
  | 4 => if -32768 ≤ v && v ≤ 32767 then some (v % 2 ^ 16).toNat else none
  | _ =>
    let at' := (match xs[r.target]? with
      | some x => x.off
      | none => 0) + r.off
    match decodeBits (field f at' 20) with
    | .ok i _ =>
      if Instr.litWidth i = 64 then some (v % 2 ^ 64).toNat
      else if 0 ≤ v && v < 2 ^ Instr.litWidth i then some v.toNat else none
    | _ => some (v % 2 ^ 64).toNat

/-- Bytes put over others. -/
def splice (bs : List Byte) (o : Nat) (new : List Byte) : List Byte := bs.take o ++ new ++ bs.drop (o + new.length)

/-- A section as it is loaded: its body, zeros, its relocations. -/
def loadedImage (f : List Byte) (xs : List Section) (ps : List (Nat × Section × Nat)) (ss : List Sym) (k : Nat)
    (x : Section) : List Byte :=
  let body := (f.drop x.off).take x.size ++ List.replicate (x.load - x.size) 0
  ((relocsOf f xs).filter fun r => r.target = k).foldl (fun bs r =>
    match r.value f xs ps ss with
    | some v =>
      let (o, n) := r.place (field f (x.off + r.off) 4 % 4)
      splice bs (r.off + o) (leBytes n v)
    | none => bs) body

/-- Writes bytes at a virtual address at their homes. -/
def State.writeVirtual (s : State) (space va : Nat) (bs : List Byte) : State :=
  (pieces va bs.length).foldl (fun s p =>
    match s.translateBare space (BitVec.ofNat 64 p.1) .read with
    | (s, .ok pa _ _) => s.writeHome pa ((bs.drop (p.1 - va)).take p.2)
    | (s, _) => s) s

/-- Step 8 of R216: the sections are written, the instruction caches dropped over the code, the object and its
attestation record kept (R217). -/
def State.loadObject (s : State) (f : List Byte) (space : Nat) (xs : List Section) (loads : List Nat) : State :=
  let ss := symbolsOf f xs
  let ps := placedSections xs loads
  let s := ps.foldl (fun s p => s.writeVirtual space p.2.2 (loadedImage f xs ps ss p.1 p.2.1)) s
  let code (l : ILine) : Bool := l.space = space &&
    ps.any fun p => p.2.1.ty = 1 && meets (l.line * 128) 128 p.2.2 p.2.1.load
  let keep (c : Core) : Core := { c with icache := c.icache.filter fun l => !code l }
  let t := sectionOf xs 7
  let entry (k : Nat) : DWord × List Byte :=
    (BitVec.ofNat 64 (symbolAddress ps ss (field f (t.off + 16 * k) 4)), (f.drop (t.off + 16 * k)).take 16)
  let trap := field f 24 4
  let new : CodeObject :=
    { space := space, entries := (List.range (t.size / 16)).map entry,
      trapEntry := if trap = 0xFFFFFFFF then none else some (BitVec.ofNat 64 (symbolAddress ps ss trap)),
      digest := BitVec.ofNat 384 (beNat (sha384 f)),
      key := BitVec.ofNat 384 (beNat ((f.drop (f.length - 144)).take 48)), time := s.time }
  let id := s.foreman.nextObject
  { s with
    cores := s.cores.map fun (q : Nat × Core) => (q.1, keep q.2),
    foreman := { s.foreman with objects := s.foreman.objects.put id new, records := s.foreman.records.put id new,
                                nextObject := id + 1 } }

/-- The signature of an object verifies under a known key (step 2 of R216). -/
def State.signed (s : State) (f : List Byte) : Bool :=
  let at' := f.length - 144
  match s.keyOf ((f.drop at').take 48) with
  | some k =>
    signatureValid k (f.take at') (beNat ((f.drop (at' + 48)).take 48)) (beNat ((f.drop (at' + 96)).take 48))
  | none => false

/-- Why an object is not admitted: the rejection code and its detail, in the order of R216. -/
def State.rejection (s : State) (f : List Byte) (space : Nat) (loads : List Nat) : Option (Nat × List Byte) :=
  let xs := sectionsOf f
  let ps := placedSections xs loads
  let ss := symbolsOf f xs
  match firstBad (headerFields f), firstBad (tableFields f xs) with
  | some o, _ => some (1, leBytes 4 o)
  | none, some o => some (1, leBytes 4 o)
  | none, none =>
    if !s.signed f then some (2, [])
    else match s.unmet f xs, firstBad (contentFields f xs) with
      | some k, _ => some (3, leBytes 4 k)
      | none, some o => some (1, leBytes 4 o)
      | none, none =>
        if !s.loadsOk space xs loads then some (5, [])
        else match (relocsOf f xs).zipIdx.find? fun r => (r.1.value f xs ps ss).isNone with
          | some (r, k) => some (4, leBytes 4 k ++ leBytes 2 r.target ++ leBytes 8 r.off)
          | none => if 256 ≤ s.foreman.objects.length then some (6, []) else none

/-- The foreman admits an object or reports why not; the identifier answers an admission (R216; log 19). -/
def execAdmitCodeObject (f : List Byte) (space : Nat) (loads : List Nat) (s : State) : Result :=
  .next (if !s.ready || !s.link.up then s else
    match s.rejection f space loads with
    | some (code, detail) => s.report (.answer code detail)
    | none =>
      let id := s.foreman.nextObject
      (s.loadObject f space (sectionsOf f) loads).reply true (leBytes 4 id))

/-- The foreman unloads a resident object that no live grid or queued launch names (R217). -/
def execUnloadCodeObject (object : Nat) (s : State) : Result :=
  s.served? (fun s => (s.foreman.objects.lookup object).isSome && !s.grids.any fun g => g.2.object = object) fun s =>
    { s with foreman := { s.foreman with objects := s.foreman.objects.drop object } }

/-- The attestation record of an object, signed by the device's key (R217; logs 12, 19). -/
def recordBytes (id : Nat) (o : CodeObject) : List Byte :=
  let body := leBytes 4 id ++ beBytes 48 o.digest.toNat ++ beBytes 48 o.key.toNat ++ leBytes 8 o.time
  let sig := Config.attest (BitVec.ofNat 384 (beNat (sha384 body)))
  body ++ beBytes 48 sig.1.toNat ++ beBytes 48 sig.2.toNat

/-- The host reads an attestation record (R217). -/
def execReadAttestation (object : Nat) (s : State) : Result :=
  .next (if !s.ready || !s.link.up then s else
    match s.foreman.records.lookup object with
    | some o => s.reply true (recordBytes object o)
    | none => s.reply false [])

end Sys2Proof.Machine
end

