-- ==== Sys2Proof/Machine/Atomics.lean ====
section
/-! DEFINITION. The atomic instructions (21 R267 to R271); a change of a counter is compared with the waits that are
registered for it (29 R338). -/

namespace Sys2Proof.Machine

/-- The old values go to D, or a uniform register receives the one old value (R268, R271). -/
def writeOlds (x : XM) (g : Group) (olds : List (Nat × Nat)) : Group :=
  olds.foldl (fun g p =>
    if x.d.uni then g.writeU x.t x.d.n.toNat p.2 else g.write x.t p.1 x.d.n.toNat p.2) g

/-- The new value that `cas` stores (R268). -/
def swapValue (x : XM) (i : Issue) (l m : Nat) : Nat :=
  if m = i.raw x.t l x.b then i.raw x.t l x.c else m

def execAtom (x : XM) (s : State) : Result :=
  withIssue s x.g fun i =>
    atomics x s i (fun l m => atomicValue x.sub.toNat x.t m (i.raw x.t l x.b)) (writeOlds x)
def execCas (x : XM) (s : State) : Result :=
  withIssue s x.g fun i => atomics x s i (swapValue x i) (writeOlds x)
def execAred (x : XM) (s : State) : Result :=
  withIssue s x.g fun i =>
    atomics x s i (fun l m => atomicValue x.sub.toNat x.t m (i.raw x.t l x.b)) fun g _ => g
/-- Once for the group, as an access of its lowest active lane (R228, R271). -/
def execUatom (x : XM) (s : State) : Result :=
  withIssue s x.g fun i =>
    atomics x s i.lead (fun l m => atomicValue x.sub.toNat x.t m (i.raw x.t l x.b)) (writeOlds x)
def execUcas (x : XM) (s : State) : Result :=
  withIssue s x.g fun i => atomics x s i.lead (swapValue x i) (writeOlds x)

end Sys2Proof.Machine
end

