-- ==== Sys2Proof/Machine/Floating.lean ====
section
/-! DEFINITION. Floating arithmetic, special functions, conversions, packing, dot products and packed halves
(21 R245 to R253). -/

namespace Sys2Proof.Machine

/-! ### The operations of a lane -/

def opFadd (x : XA) (i : Issue) (l : Nat) : Nat := x.t.flt.add (i.raw x.t l x.a) (i.raw x.t l x.b)
def opFmul (x : XA) (i : Issue) (l : Nat) : Nat := x.t.flt.mul (i.raw x.t l x.a) (i.raw x.t l x.b)
def opFma (x : XA) (i : Issue) (l : Nat) : Nat :=
  x.t.flt.fma (i.raw x.t l x.a) (i.raw x.t l x.b) (i.raw x.t l x.c)
def opFmin (x : XA) (i : Issue) (l : Nat) : Nat := x.t.flt.min (i.raw x.t l x.a) (i.raw x.t l x.b)
def opFmax (x : XA) (i : Issue) (l : Nat) : Nat := x.t.flt.max (i.raw x.t l x.a) (i.raw x.t l x.b)
/-- The comparison of `fcmp` and `ufcmp` (R246). -/
def opFcmp (x : XA) (i : Issue) (l : Nat) : Bool :=
  condFloat x.sub.toNat (x.t.flt.value (i.raw x.t l x.a)) (x.t.flt.value (i.raw x.t l x.b))
/-- `cvt`, `ucvt` and `ufcvt`: source type Q[3:0], `.rz` Q[4], `.inf` Q[5] (R249). -/
def opCvt (x : XA) (i : Issue) (l : Nat) : Nat :=
  convert x.t x.fromTy (x.q.getLsbD 4) (x.q.getLsbD 5) (i.raw x.fromTy l x.a)

/-- `fsgn`: |a| with the sign of b, its inverse, or the XOR of the signs (R246). -/
def withSign (f : Flt) (form a b : Nat) : Nat :=
  if f.value a = .nan then f.nan
  else
    let sa := a / 2 ^ (f.e + f.m) % 2
    let sb := b / 2 ^ (f.e + f.m) % 2
    a % 2 ^ (f.e + f.m) +
      (match form with
       | 0 => sb
       | 1 => 1 - sb
       | _ => (sa + sb) % 2) * 2 ^ (f.e + f.m)

/-- c + Σ aᵢ × bᵢ, exact, rounded once to FP32 (R252). -/
def dotRounded (fa fb : Flt) (k n a b c : Nat) : Nat :=
  Flt.f32.rn (exactSum (Flt.f32.value c :: (List.range n).map fun j =>
    (fa.value (a / 2 ^ (k * j) % 2 ^ k)).mul (fb.value (b / 2 ^ (k * j) % 2 ^ k))))

/-- A function of each half of packed operands (R253). -/
def onHalves (f : Nat → Nat → Nat → Nat) (a b c : Nat) : Nat :=
  f (a % 65536) (b % 65536) (c % 65536) + 65536 * f (a / 65536 % 65536) (b / 65536 % 65536) (c / 65536 % 65536)

/-- Every active lane writes a packed result. -/
def halfWrite (s : State) (x : XA) (f : Flt → Nat → Nat → Nat → Nat) : Result :=
  laneWrite s x.toExt .b32 fun i l =>
    onHalves (f x.t.flt) (i.raw .b32 l x.a) (i.raw .b32 l x.b) (i.raw .b32 l x.c)

/-! ### Floating arithmetic (R245, R246) -/

def execFadd (x : XA) (s : State) : Result := laneWrite s x.toExt x.t (opFadd x)
def execFsub (x : XA) (s : State) : Result :=
  laneWrite s x.toExt x.t fun i l => x.t.flt.sub (i.raw x.t l x.a) (i.raw x.t l x.b)
def execFmul (x : XA) (s : State) : Result := laneWrite s x.toExt x.t (opFmul x)
def execFma (x : XA) (s : State) : Result := laneWrite s x.toExt x.t (opFma x)
def execFmin (x : XA) (s : State) : Result := laneWrite s x.toExt x.t (opFmin x)
def execFmax (x : XA) (s : State) : Result := laneWrite s x.toExt x.t (opFmax x)
def execFabs (x : XA) (s : State) : Result := laneWrite s x.toExt x.t fun i l => x.t.flt.abs (i.raw x.t l x.a)
def execFneg (x : XA) (s : State) : Result := laneWrite s x.toExt x.t fun i l => x.t.flt.neg (i.raw x.t l x.a)
def execFcmp (x : XA) (s : State) : Result :=
  predWrite s x.g x.pd.toNat fun i => laneTest i.active (opFcmp x i)
def execFdiv (x : XA) (s : State) : Result :=
  laneWrite s x.toExt x.t fun i l => x.t.flt.div (i.raw x.t l x.a) (i.raw x.t l x.b)
def execFsqrt (x : XA) (s : State) : Result := laneWrite s x.toExt x.t fun i l => x.t.flt.sqrt (i.raw x.t l x.a)
def execFrcp (x : XA) (s : State) : Result := laneWrite s x.toExt x.t fun i l => x.t.flt.rcp (i.raw x.t l x.a)
def execFrsq (x : XA) (s : State) : Result := laneWrite s x.toExt x.t fun i l => x.t.flt.rsqrt (i.raw x.t l x.a)
def execFrnd (x : XA) (s : State) : Result :=
  laneWrite s x.toExt x.t fun i l => x.t.flt.round x.sub.toNat (i.raw x.t l x.a)
/-- The mask is Q[7:0], with SUB[0] for NaN (R246). -/
def execFclass (x : XA) (s : State) : Result :=
  predWrite s x.g x.pd.toNat fun i => laneTest i.active fun l =>
    (x.q.toNat + 256 * (x.sub.toNat % 2)).testBit (x.t.flt.classOf (i.raw x.t l x.a))
def execFsgn (x : XA) (s : State) : Result :=
  laneWrite s x.toExt x.t fun i l => withSign x.t.flt x.sub.toNat (i.raw x.t l x.a) (i.raw x.t l x.b)

/-! ### Special functions (R247) -/

/-- Every active lane writes a function of FP32. -/
def specialWrite (s : State) (x : XA) (f : Word → Word) : Result :=
  laneWrite s x.toExt .f32 fun i l => (f (BitVec.ofNat 32 (i.raw .f32 l x.a))).toNat

def execFexp2 (x : XA) (s : State) : Result := specialWrite s x fexp2
def execFlog2 (x : XA) (s : State) : Result := specialWrite s x flog2
def execFsin (x : XA) (s : State) : Result := specialWrite s x fsin
def execFcos (x : XA) (s : State) : Result := specialWrite s x fcos
def execFtanh (x : XA) (s : State) : Result := specialWrite s x ftanh
def execFsig (x : XA) (s : State) : Result := specialWrite s x fsig
def execFsilu (x : XA) (s : State) : Result := specialWrite s x fsilu
def execFgelu (x : XA) (s : State) : Result := specialWrite s x fgelu

/-! ### Conversions and packing (R249 to R252) -/

def execCvt (x : XA) (s : State) : Result := laneWrite s x.toExt x.t (opCvt x)
/-- a / b rounded to FP32, then converted (R250). -/
def execCvtsc (x : XA) (s : State) : Result :=
  laneWrite s x.toExt x.t fun i l =>
    convert x.t .f32 false (x.q.getLsbD 5) (Flt.f32.div (i.raw .f32 l x.a) (i.raw .f32 l x.b))
/-- Two 16-bit values, or two bytes beside the two bytes that D keeps (R251). -/
def execPack (x : XA) (s : State) : Result :=
  laneWrite s x.toExt .b32 fun i l =>
    if x.t.bits = 16 then i.raw x.t l x.b * 65536 + i.raw x.t l x.a
    else
      let w := i.raw x.t l x.b * 256 + i.raw x.t l x.a
      let d := i.raw .b32 l (.v x.d.n)
      if x.q.getLsbD 0 then d % 65536 + w * 65536 else d / 65536 * 65536 + w
def execUnpack (x : XA) (s : State) : Result :=
  laneWrite s x.toExt x.t fun i l => i.raw .b32 l x.a / 2 ^ (x.t.bits * (x.q &&& 3).toNat) % 2 ^ x.t.bits
/-- Four picks of a nibble each (R251). -/
def execBperm (x : XA) (s : State) : Result :=
  laneWrite s x.toExt .b32 fun i l =>
    let ab := i.raw .b32 l x.a + 2 ^ 32 * i.raw .b32 l x.b
    let c := i.raw .b32 l x.c
    (List.range 4).foldr (fun j r =>
      let k := c / 16 ^ j % 16
      (if k < 8 then ab / 256 ^ k % 256 else 0) + 256 * r) 0
/-- Bit i is bit 4a + 2b + c of the truth table Q (R251). -/
def execTern (x : XA) (s : State) : Result :=
  laneWrite s x.toExt .b32 fun i l =>
    let a := i.raw .b32 l x.a
    let b := i.raw .b32 l x.b
    let c := i.raw .b32 l x.c
    (List.range 32).foldr (fun j r =>
      (x.q.getLsbD (4 * (a.testBit j).toNat + 2 * (b.testBit j).toNat + (c.testBit j).toNat)).toNat + 2 * r) 0
/-- The two 16-bit elements of a and b; a small immediate gives its sign-extended 32 bits (R195, R252; DESIGN CHOICE,
log 94). -/
def execFdot2 (x : XA) (s : State) : Result :=
  laneWrite s x.toExt .f32 fun i l =>
    dotRounded x.t.flt x.t.flt 16 2 (i.raw .b32 l x.a) (i.raw .b32 l x.b) (i.raw .f32 l x.c)
/-- T is the type of a's bytes, Q[3:0] of b's (R252). -/
def execFdot4 (x : XA) (s : State) : Result :=
  laneWrite s x.toExt .f32 fun i l =>
    dotRounded x.t.flt x.fromTy.flt 8 4 (i.raw .b32 l x.a) (i.raw .b32 l x.b) (i.raw .f32 l x.c)

/-! ### Packed halves (R253) -/

def execHadd (x : XA) (s : State) : Result := halfWrite s x fun f a b _ => f.add a b
def execHsub (x : XA) (s : State) : Result := halfWrite s x fun f a b _ => f.sub a b
def execHmul (x : XA) (s : State) : Result := halfWrite s x fun f a b _ => f.mul a b
def execHfma (x : XA) (s : State) : Result := halfWrite s x fun f a b c => f.fma a b c
def execHmin (x : XA) (s : State) : Result := halfWrite s x fun f a b _ => f.min a b
def execHmax (x : XA) (s : State) : Result := halfWrite s x fun f a b _ => f.max a b
def execHabs (x : XA) (s : State) : Result := halfWrite s x fun f a _ _ => f.abs a
def execHneg (x : XA) (s : State) : Result := halfWrite s x fun f a _ _ => f.neg a
def execHcmp (x : XA) (s : State) : Result :=
  halfWrite s x fun f a b _ => if condFloat x.sub.toNat (f.value a) (f.value b) then 0xFFFF else 0
/-- Element 0 from a and element 1 from b, FP32 values rounded to T. -/
def execHcvt (x : XA) (s : State) : Result :=
  laneWrite s x.toExt .b32 fun i l =>
    convertVal x.t false false (Flt.f32.value (i.raw .b32 l x.a)) +
      65536 * convertVal x.t false false (Flt.f32.value (i.raw .b32 l x.b))
/-- `fexp2` of the element widened to FP32. -/
def execHexp2 (x : XA) (s : State) : Result :=
  halfWrite s x fun f a _ _ =>
    f.rn (Flt.f32.value (fexp2 (BitVec.ofNat 32 (Flt.f32.rn (f.value a)))).toNat)
def execHrcp (x : XA) (s : State) : Result := halfWrite s x fun f a _ _ => f.rcp a

/-! ### Uniform instructions (R244, R248) -/

def execUcvt (x : XA) (s : State) : Result := uniWrite s x.toExt x.t (opCvt x)
def execUfadd (x : XA) (s : State) : Result := uniWrite s x.toExt x.t (opFadd x)
def execUfmul (x : XA) (s : State) : Result := uniWrite s x.toExt x.t (opFmul x)
def execUfma (x : XA) (s : State) : Result := uniWrite s x.toExt x.t (opFma x)
def execUfmin (x : XA) (s : State) : Result := uniWrite s x.toExt x.t (opFmin x)
def execUfmax (x : XA) (s : State) : Result := uniWrite s x.toExt x.t (opFmax x)
/-- d ← 1 or 0. -/
def execUfcmp (x : XA) (s : State) : Result := uniWrite s x.toExt .n32 fun i l => (opFcmp x i l).toNat
def execUfcvt (x : XA) (s : State) : Result := uniWrite s x.toExt x.t (opCvt x)

end Sys2Proof.Machine
end

