-- ==== Sys2Proof/Machine/Link.lean ====
section
/-! DEFINITION. The Vrel link (31 R342 to R345): host accesses, flits, replay and retraining. -/

namespace Sys2Proof.Machine

/-! ### Host accesses on channel 2 (R344) -/

/-- A host write is refused here: flash, staging, reserved (R344). -/
def State.refusesWrite (s : State) (pa : Nat) : Bool := s.reserved pa || inFlash pa

/-- A host write is performed at the level-2 homes, or refused whole (R344). -/
def execHostWrite (address : Nat) (bytes : List Byte) (s : State) : Result :=
  let ps := pieces address bytes.length
  .next (if !s.link.up then s
    else if ps.any fun p => s.refusesWrite p.1 then s.report (.linkError address)
    else (ps.foldl (fun s p => s.writeHome p.1 ((bytes.drop (p.1 - address)).take p.2)) s))

/-- The bytes that the host reads: those of the staging region are staging pages, whose places the manual leaves open (R174,
R175; log 88). -/
def State.hostBytes (s : State) (address : Nat) (bs : List Byte) : List Byte :=
  bs.zipIdx.map fun p => if s.inStaging (address + p.2) then Config.stagingByte s.cycles (address + p.2) else p.1

/-- A host read is performed at the level-2 homes, flash through staging (R175, R344); a hole holds nothing to read, and a
line that cannot be read gives an error (R20, R356; log 19). -/
def execHostRead (address count : Nat) (s : State) : Result :=
  let ps := pieces address count
  .next (if !s.link.up then s
    else if ps.any fun p => inHole p.1 || s.unreadable p.1 then s.report (.linkError address)
    else
      let (t, bs) := s.l2Read address count
      t.reply true (s.hostBytes address bs))

/-! ### Flits (R342, R343) -/

/-- One bit of CRC-32C. -/
def crcBits : Nat → BitVec 32 → BitVec 32
  | 0, c => c
  | n + 1, c => crcBits n (if c.getLsbD 0 then c >>> 1 ^^^ 0x82F63B78 else c >>> 1)

/-- CRC-32C of bytes; its constants are presumed (log 23). -/
def crc32c (bs : List Byte) : BitVec 32 :=
  ~~~(bs.foldl (fun c b => crcBits 8 (c ^^^ b.setWidth 32)) 0xFFFFFFFF)

/-- A flit is whole: 256 bytes, its high sequence bits zero, a good check (R342). -/
def flitGood (f : List Byte) : Bool :=
  f.length = 256 && field f 0 2 < 4096 && field f 252 4 = (crc32c (f.take 252)).toNat

/-- The payload of a flit (R342). -/
def flitPayload (f : List Byte) : List Byte := (f.drop 4).take 248

/-- A request that the host sends on a channel: 1 to the foreman, 2 to device memory (R342). -/
def Instr.sentOn (i : Instr) (channel : Nat) : Bool :=
  match i with
  | .hostWrite _ _ | .hostRead _ _ => channel = 2
  | .registerAddressSpace _ _ | .releaseAddressSpace _ | .setQuantum _ _ | .setSavePool _ _ => channel = 1
  | .setInterleaveModes _ | .setStagingRegion _ | .lockExtents _ _ | .unlockExtents _ _ => channel = 1
  | .flashStatusRead _ | .enrolOwnerKey _ _ _ _ | .admitCodeObject _ _ _ | .unloadCodeObject _ => channel = 1
  | .readAttestation _ | .readEndOfLife _ | .clearOutOfServiceFlag _ | .wallClock _ => channel = 1
  | .xlateRetry _ | .xlateFail _ | .configurePeerTable _ _ _ _ => channel = 1
  | .registerSendQueue _ | .registerReceiveWindow _ => channel = 1
  | _ => false

/-- What an accepted flit brings, once: a launch message in the first 128 bytes of its payload (channel 0), the request
that comes next (channels 1 and 2), or nothing that the machine acts on (log 22). -/
def State.carried (s : State) (flit : List Byte) : State :=
  let channel := field flit 2 1
  if channel = 0 then s.takeMessage ((flitPayload flit).take 128)
  else match Config.flitRequest channel (field flit 3 1) (flitPayload flit) with
    | some i => if Instr.sentOn i channel then { s with agenda := .event i :: s.agenda } else s
    | none => s

/-- The launch channel has no credit for a flit (R355): it stays at the host. -/
def State.noCredit (s : State) (flit : List Byte) : Bool :=
  field flit 2 1 = 0 && s.keepsOff ((flitPayload flit).take 128)

/-- A flit arrives. In sequence and whole, it is accepted and what it brings is performed; one accepted before is
discarded. Any other is discarded, and replay is asked for from the one expected; a whole flit that follows while a replay is
awaited is discarded with it, and a damaged one, whose sequence number means nothing, may be that replay and has it asked for
again. Once eight replays have failed the link retrains (R343; log 22). -/
def execReplayRequest (flit : List Byte) (s : State) : Result :=
  let seq := field flit 0 2
  let l := s.link
  let e := l.expected
  .next (if !l.up then s
    else if flitGood flit && seq = e then
      if s.noCredit flit then s
      else State.carried { s with link := { l with expected := (e + 1) % 4096, asked := 0, awaits := false } } flit
    else if flitGood flit && (e + 4096 - seq) % 4096 ≤ 2048 then s
    else if (l.awaits && flitGood flit) || 9 ≤ l.asked then s
    else if l.asked = 8 then { s with link := { l with asked := 9 } }
    else { s with link := { l with asked := l.asked + 1, awaits := true } }.report (.replayFrom e))

/-- A report travels in a flit of the link. -/
def Report.flies : Report → Bool
  | .packet _ _ _ _ _ _ | .toPeer _ _ _ _ | .replayFrom _ | .resent _ => false
  | _ => true

/-- How many flits the device has sent (log 22). -/
def State.flitsSent (s : State) : Nat := (s.outbox.filter Report.flies).length

/-- The host asks for replay from a sequence number: the flits that the replay buffer of the last 512 holds from there on
are sent again in order, each at most 8 times; that a ninth replay of one is asked for says that the eighth has failed, and the
link retrains (R343). -/
def execReplay (first : Nat) (s : State) : Result :=
  let n := s.flitsSent
  match (List.range (min n 512)).find? fun k => (n - min n 512 + k) % 4096 = first with
  | none => .next s
  | some k =>
    let lo := n - min n 512 + k
    let old := s.link.replays.filter fun r => lo ≤ r.1
    let run := (List.range (n - lo)).map fun j => lo + j
    let counts := run.foldl (fun (m : Store Nat) j => m.put j (Store.at old j 0 + 1)) []
    let t : State := { s with link := { s.link with replays := counts } }
    .next (if !s.link.up || old.any fun r => 9 ≤ r.2 then s
      else if counts.any fun r => 9 ≤ r.2 then t
      else run.foldl (fun (s : State) j => s.report (.resent j)) t)

/-- Eight replays of a flit have been made and none was accepted (R343). -/
def Link.retrains (l : Link) : Bool := l.up && (9 ≤ l.asked || l.replays.any fun r => 9 ≤ r.2)

/-- The link retrains; a retrain that fails takes it down, which the foreman records (R343). -/
def execLinkRetrain (succeeds : Bool) (s : State) : Result :=
  .next (if !s.link.retrains then s
    else if succeeds then { s with link := { s.link with asked := 0, awaits := false, replays := [] } }
    else { s with link := { s.link with up := false } }.report .linkDown)

end Sys2Proof.Machine
end

