-- ==== Sys2Proof/Machine/Reliability.lean ====
section
/-! DEFINITION. Bring-up, correctable events, units out of service, sensors and throttling (33 R354 to R361). -/

namespace Sys2Proof.Machine

/-! ### Power-up (R354, R355) -/

/-- Flash content, its maps, its wear and its retired blocks outlast a reset; installs, locks and the dates of commits do
not (log 28). -/
def Flash.reset (f : Flash) : Flash := { f with installs := [], commits := [], locked := [] }

/-- A block of flash never returns to use, nor do the others of its extent (R182). -/
def Flash.retire (f : Flash) (b : Nat) : Flash :=
  { f with retired := if f.retired.contains b then f.retired else f.retired ++ [b],
           gone := if f.gone.contains (b / 4) then f.gone else f.gone ++ [b / 4] }

/-- What outlasts a reset: memory as it stands and what flash keeps (R354; log 28); no work, and every cache and register at
its reset value. -/
def State.outlasting (s : State) : State :=
  { State.reset with
    mem := s.mem, badLines := s.badLines, flashMem := s.flashMem,
    flash := s.flash.map fun (p : Nat × Flash) => (p.1, p.2.reset),
    agenda := s.agenda, serial := s.serial, draws := s.draws }

/-- The machine out of reset, before its stages: what the host configured at stage 0 stays, which is the modes, the staging
region, address space 0 and the save pool (R22, R65, R105, R174; log 28); `$time` counts from here (R17). -/
def State.afterReset (s : State) : State :=
  { s.outlasting with
    modes := s.modes, stagingGib := s.stagingGib, link := s.link, outbox := s.outbox,
    foreman := { Foreman.initial with spaces := s.foreman.spaces, savePool := s.foreman.savePool } }

/-- Stage 4 writes zeros, with valid ECC, to all of the package's memory; host memory is not the package's, and flash keeps
what it holds (R20, R354). -/
def State.zeroed (s : State) : State :=
  { s with mem := s.mem.filter fun c => inHost c.1,
           badLines := s.badLines.filter fun l => inHost (l * 128) || inFlash (l * 128) }

/-- A unit that the package has (R10, R13, R14, R177). -/
def isPart : Part → Bool
  | .column n => n < 384
  | .slice n => n < 384
  | .bank n => n < 16384
  | .memoryStack n => n < 8
  | .flashStack n => n < 4
  | .eraseBlock f n => f < 4 && n < 2162688

/-- A unit that failed calibration is out of service from the start; a slice's remap applies at once (R26, R355). -/
def State.failsCalibration (s : State) (u : Part) : State :=
  if !isPart u then s
  else match u with
    | .column n => { s with columnsOut := n :: s.columnsOut.filter (· != n) }
    | .slice n => { s with slicesOut := n :: s.slicesOut.filter (· != n) }
    | .bank n => { s with banksOut := n :: s.banksOut.filter (· != n) }
    | .memoryStack n => { s with stacksOut := n :: s.stacksOut.filter (· != n) }
    | .flashStack n => { s with flashOut := n :: s.flashOut.filter (· != n) }
    | .eraseBlock f n => s.setFlash f ((s.flashStack f).retire n)

/-- The package still holds an in-service column and an in-service memory stack (R355). -/
def State.usable (s : State) : Bool := s.columnsOut.length < 384 && s.stacksOut.length < 8

/-- A stage covers every unit before the next one starts: those that fail it go out of service, and stage 4 zeroes the
memories (R354, R355). -/
def State.bringUp (failing : List (Nat × Part)) (s : State) (stage : Nat) : State :=
  let s := ((failing.filter fun f => f.1 = stage).map (·.2)).foldl State.failsCalibration s
  if stage = 4 then s.zeroed else s

/-- The stages from 1 on, up to one after which the package is not usable, with the stage field as they leave it: 5, or
the failing stage (R354, R355). -/
def bringUpAll (failing : List (Nat × Part)) : List Nat → State → State × Nat
  | [], s => (s, 5)
  | k :: r, s =>
    let s := State.bringUp failing s k
    if s.usable then bringUpAll failing r s else (s, k)

/-- The pairs of slices that are both out of service are reported to the host, each slice of them (R26). -/
def State.reportPairs (s : State) : State :=
  (s.slicesOut.filter fun n => s.slicesOut.contains (Nat.xor n 1)).foldl (fun s n => s.report (.faulty (.slice n) [])) s

/-- Bring-up out of reset; `failing` are the units that fail calibration, each with the stage that it fails (R354, R355).
Bit 1 is set together with `READY`. -/
def State.boot (s : State) (failing : List (Nat × Part)) : State :=
  let (s, stage) := bringUpAll failing [1, 2, 3, 4] s.afterReset
  let alone := s.slicesOut.filter fun n => !s.slicesOut.contains (Nat.xor n 1)
  let left := failing.any fun f => 1 ≤ f.1 && f.1 ≤ 4 && isPart f.2
  State.reportPairs { s with
    remapped := alone, foreman := { s.foreman with stage := stage, calibration := stage = 5 && left } }

/-- A part that is up, or whose bring-up has stopped, goes into reset: stage 0, every mode and the staging region at their
reset values, where the host gives the configuration of the next boot (R22, R174, R354; log 28). A part in reset leaves it,
and its stages run (R354, R355). -/
def execReset (failing : List (Nat × Part)) (s : State) : Result :=
  .next (if s.foreman.stage = 0 then s.boot failing else s.outlasting)

/-! ### Correctable events (R356) -/

/-- The threshold of a unit; others are not counted. -/
def thresholdOf : Part → Option Nat
  | .column _ => some 64
  | .slice _ => some 256
  | .bank _ => some 32
  | .eraseBlock _ _ => some 16
  | _ => none

/-- The events of the last 2^20 microseconds. -/
def State.recentEvents (s : State) : List (Part × Nat) :=
  s.foreman.events.filter fun e => s.time < e.2 + 104857600

/-- A correctable event is counted against its unit (R356). -/
def execCorrectableEvent (unit : Part) (s : State) : Result :=
  .next (if (thresholdOf unit).isNone then s
    else { s with foreman := { s.foreman with events := (unit, s.time) :: s.recentEvents } })

/-- A unit is out of service. -/
def State.isOut (s : State) (u : Part) : Bool :=
  match u with
  | .column n => s.columnsOut.contains n
  | .slice n => s.slicesOut.contains n
  | .bank n => s.banksOut.contains n
  | .memoryStack n => s.stacksOut.contains n
  | .flashStack n => s.flashOut.contains n
  | .eraseBlock f n => (s.flashStack f).retired.contains n

/-! ### Units out of service (R357) -/

/-- The leaves below a table as address, log2 of the size, entry. -/
def State.leaves (s : State) : List (Nat × Nat) → Nat → Nat → List (Nat × Nat × Nat)
  | [], _, _ => []
  | (shift, width) :: rest, table, va =>
    (List.range (2 ^ width)).flatMap fun k =>
      let e := leNat (s.peek (table + 8 * k) 8)
      let at' := va + k * 2 ^ shift
      if malformed shift e || bits 0 0 e = 0 then []
      else if shift = 16 || bits 1 1 e = 1 then [(at', shift, e)]
      else State.leaves s rest (entryAddr e) at'

/-- An address of 48 bits with bits [63:48] equal to bit 47 (R104). -/
def signed48 (va : Nat) : Nat := ((BitVec.ofNat 48 va).signExtend 64).toNat

/-- The virtual pages that map a bank, as address space and address (R104, R357). -/
def State.bankPages (s : State) (bank : Nat) : List (Nat × Nat) :=
  s.foreman.spaces.flatMap fun p =>
    ((s.leaves levels p.2 0).filter fun l =>
      (List.range (2 ^ l.2.1 / 256)).any fun g =>
        inDram (entryAddr l.2.2 + 256 * g) && s.bankOf (entryAddr l.2.2 + 256 * g) = bank).map fun l =>
        (p.1, signed48 l.1)

/-- A column leaves: its clusters are saved at once and requeued at the head, its dirty lines go to their homes (R357). -/
def State.columnLeaves (s : State) (n : Nat) : State :=
  let ks := ((s.teams.filter fun t => t.2.core = n && t.2.saved.isNone).map fun t => t.2.cluster).eraseDups
  let s : State := { s with columnsOut := n :: s.columnsOut }
  (ks.foldl (fun s k => s.freeze k true) s).cleanCore n fun _ => true

/-- A unit is taken out of service (R357). -/
def State.takeOut (s : State) (u : Part) : State :=
  let s : State := { s with foreman := { s.foreman with outFlag := true } }
  match u with
  | .column n => (s.columnLeaves n).report (.faulty u [])
  | .slice n =>
    let s := { s with slicesOut := n :: s.slicesOut }.report (.faulty u [])
    if s.slicesOut.contains (Nat.xor n 1) then s.report (.faulty (.slice (Nat.xor n 1)) []) else s
  | .bank n => { s with banksOut := n :: s.banksOut }.report (.faulty u (s.bankPages n))
  | .eraseBlock f n => (s.setFlash f ((s.flashStack f).retire n)).report (.faulty u [])
  | _ => s

/-- A unit whose count has reached its threshold is declared lasting-faulty (R356). -/
def execLastingFaulty (unit : Part) (s : State) : Result :=
  .next (match thresholdOf unit with
    | none => s
    | some n =>
      if !s.isOut unit && n ≤ (s.recentEvents.filter fun e => e.1 = unit).length then s.takeOut unit else s)

/-! ### Sensors (R359) -/

/-- The mesh neighbours of a column (R10). -/
def meshNeighbours (n : Nat) : List Nat :=
  let i := n % 96
  (if 12 ≤ i then [n - 12] else []) ++ (if i < 84 then [n + 12] else []) ++
    (if i % 12 = 0 then [] else [n - 1]) ++ (if i % 12 = 11 then [] else [n + 1])

/-- A sensor counts no more: marked failed, or three readings in a row off (R359). -/
def Sensor.out (x : Sensor) : Bool := x.failed || 3 ≤ x.strikes

/-- The latest readings of a column's neighbours that are not failed. -/
def State.neighbourReadings (s : State) (n : Nat) : List Int :=
  (meshNeighbours n).filterMap fun k => (s.foreman.sensors.lookup k).bind fun x => if x.out then none else some x.reading

/-- Puts a reading into ascending order. -/
def insertReading (a : Int) : List Int → List Int
  | [] => [a]
  | b :: r => if a ≤ b then a :: b :: r else b :: insertReading a r

/-- Twice the median of some readings; none where there are none (R359). -/
def median2 (rs : List Int) : Option Int :=
  let xs := rs.foldl (fun acc a => insertReading a acc) []
  if xs = [] then none
  else if xs.length % 2 = 1 then some (2 * xs.getD (xs.length / 2) 0)
  else some (xs.getD (xs.length / 2 - 1) 0 + xs.getD (xs.length / 2) 0)

/-- The sensor of a column once it is read: a strike where it is more than 12 degrees off the median (R359). -/
def Sensor.read (old : Option Sensor) (reading : Int) (median : Option Int) : Sensor :=
  let off := match median with
    | some m => decide (24 < (2 * reading - m).natAbs)
    | none => false
  match old with
  | some x =>
    if x.out then { x with reading := reading }
    else { x with reading := reading, strikes := if off then x.strikes + 1 else 0 }
  | none => { reading := reading, strikes := if off then 1 else 0, failed := false, hot := 0 }

/-- Every mesh neighbour of a column has a failed sensor (R359). -/
def State.alone (s : State) (n : Nat) : Bool :=
  (meshNeighbours n).all fun k => (s.foreman.sensors.lookup k).any Sensor.out

/-- A column's temperature: 120 without a neighbour that is not failed, otherwise its reading, or for a failed sensor the
hottest of those neighbours' readings plus 8 (R359; while none of them has been read, 120, log 29). -/
def Sensor.temperature (x : Sensor) (alone : Bool) (near : List Int) : Int :=
  if alone then 120
  else if !x.out then x.reading
  else match near with
    | [] => 120
    | a :: r => r.foldl max a + 8

/-! ### Throttling (R360) -/

/-- The swallow level of a temperature (R360). -/
def swallowLevel (t : Int) : Nat := if t < 86 then 0 else if t < 114 then ((t - 84) / 2).toNat else 15

/-- A column's next level, one more while the power raise lasts (R360). -/
def Core.setLevel (c : Core) (level : Nat) (raise : Bool) : Core :=
  { c with swallowNext := some (if raise then min 15 (level + 1) else level), raised := raise && level < 15 }

/-- A column's sensor is read and its level set (R359, R360). -/
def execSensorReading (column : Nat) (reading : Int) (s : State) : Result :=
  let near := s.neighbourReadings column
  let x := Sensor.read (s.foreman.sensors.lookup column) reading (median2 near)
  let t := x.temperature (s.alone column) near
  let hot := if (s.core column).swallow = 15 && 120 ≤ t then x.hot + 1 else 0
  let s : State := { s with foreman := { s.foreman with sensors := s.foreman.sensors.put column { x with hot := hot } } }
  .next (if 384 ≤ column then s
    else s.onCore column fun c => c.setLevel (swallowLevel t) s.foreman.raiseEnd.isSome)

/-- A sensor that was off on three readings in a row is marked failed until reset (R359). -/
def execSensorFailed (column : Nat) (s : State) : Result :=
  .next { s with foreman := { s.foreman with sensors := s.foreman.sensors.modify column fun x =>
    if 3 ≤ x.strikes then { x with failed := true } else x } }

/-- At a 16-cycle boundary a new level takes effect (R360). -/
def execSwallowLevelApply (column : Nat) (s : State) : Result :=
  .next (if s.cycles % 16 != 0 then s
    else match (s.core column).swallowNext with
      | some l => s.onCore column fun c => { c with swallow := l, swallowNext := none }
      | none => s)

/-- A column at level 15 that read 120 degrees or more ten times in a row is taken out of service (R360). -/
def execColumnOverheat (column : Nat) (s : State) : Result :=
  .next (if (s.foreman.sensors.lookup column).any (fun x => 10 ≤ x.hot) && !s.columnsOut.contains column && column < 384
    then s.takeOut (.column column) else s)

/-- The level that a column has or is about to have. -/
def Core.level (c : Core) : Nat := c.swallowNext.getD c.swallow

/-- Every column's level changes. -/
def State.onLevels (s : State) (f : Core → Core) : State := (List.range 384).foldl (fun s n => s.onCore n f) s

/-- More than 2,400 W over 1 ms raises every level by one for the next 1 ms; a raise that stands goes on (R360;
log 29). -/
def execPowerOverLimit (watts : Nat) (s : State) : Result :=
  .next (if watts ≤ 2400 then s
    else
      let s := if s.foreman.raiseEnd.isSome then s else s.onLevels fun c => c.setLevel c.level true
      { s with foreman := { s.foreman with raiseEnd := some (s.time + 100000) } })

/-- The raise of 1 ms ends (R360). -/
def execPowerRaiseEnd (s : State) : Result :=
  .next (match s.foreman.raiseEnd with
    | some t =>
      if t ≤ s.time then
        let s := s.onLevels fun c => if c.raised then c.setLevel (c.level - 1) false else c
        { s with foreman := { s.foreman with raiseEnd := none } }
      else s
    | none => s)

end Sys2Proof.Machine
end

