-- ==== Sys2Proof/Machine/Transport.lean ====
section
/-! DEFINITION. The transport engine (31 R346 to R351; 29 R336): peers with their congestion objects, send queues, receive
windows, packets that leave and arrive. -/

namespace Sys2Proof.Machine

def State.onTransport (s : State) (f : Transport → Transport) : State := { s with transport := f s.transport }

/-! ### Peers (R346, R351) -/

/-- The configuration words of the round-trip and the marks object: max and add of `.s32`, W = C = 64 and 256 (R185,
R351). -/
def roundTripConfig : DWord := BitVec.ofNat 64 (1 + 16 + 63 * 2 ^ 6 + 63 * 2 ^ 18)
def marksConfig : DWord := BitVec.ofNat 64 (16 + 255 * 2 ^ 6 + 255 * 2 ^ 18)

/-- An address where the foreman can keep an object (R184). -/
def State.objectPlace (s : State) (pa : Nat) : Bool :=
  pa % 128 = 0 && inDram pa && !s.reserved pa && (s.windows.lookup pa).isNone

/-- The two congestion objects of a new peer. -/
def State.peerObjects (s : State) (a b : Nat) : Option State :=
  if a = b || !s.objectPlace a || !s.objectPlace b then none
  else (s.makeWindow a roundTripConfig 0 true).bind fun s => s.makeWindow b marksConfig 0 true

/-- The host configures a peer: its key, which of the eight ports it has, and how its congestion is controlled; for a new
one the foreman creates its two congestion objects, at addresses of its choice, and answers with them (R346, R351;
log 24). -/
def execConfigurePeerTable (peer : Nat) (key : List Byte) (route : PeerRoute) (objects : List Nat) (s : State) :
    Result :=
  let a := objects.getD 0 0
  let b := objects.getD 1 0
  let put (s : State) (p : Peer) : State :=
    (s.onTransport fun t => { t with peers := t.peers.put peer p }).reply true
      (leBytes 8 p.roundTrip ++ leBytes 8 p.marks)
  .next (if !s.ready || !s.link.up then s
    else if 65536 ≤ peer || 8 ≤ route.port then s.reply false []
    else match s.transport.peers.lookup peer with
      | some p => put s { p with key := key, port := route.port, credit := route.credit }
      | none => match s.peerObjects a b with
        | some s => put s { key := key, port := route.port, credit := route.credit, roundTrip := a, marks := b }
        | none => s.reply false [])

/-- The unit that keeps a congestion object takes a contribution (R351). -/
def State.contribute (s : State) (pa : Nat) (v : Nat) : State :=
  { s with windows := s.windows.modify pa fun w => w.push (BitVec.ofNat 64 (v % 2 ^ 32)) }

/-- One transmission of a packet is over (R351). -/
def State.markPacket (s : State) (peer : Nat) (one : Bool) : State :=
  match s.transport.peers.lookup peer with
  | some p => s.contribute p.marks one.toNat
  | none => s

/-! ### Memory of the engine -/

/-- A word of writable main DRAM at a virtual address of a space (R336, R347). -/
def State.wordAt (s : State) (space : Nat) (va : DWord) : Option Nat :=
  match s.translateBare space va .write with
  | (_, .ok pa _ _) => if inDram pa && va.toNat % 8 = 0 then some pa else none
  | _ => none

/-- Adds 1 to a completion counter or a done word at its home, as a release at `.sys` (R115, R336, R347, R348). -/
def State.addOne (s : State) (pa : Nat) : State :=
  let (s, bs) := s.releaseHome.l2Read pa 8
  s.l2Write pa (leBytes 8 (leNat bs + 1))

/-- The 64 KiB pages of a range, where every one translates to main DRAM. -/
def State.pagesOf (s : State) (space : Nat) (va : DWord) (n : Nat) (acc : Access) : Option (List Nat) :=
  let lo := va.toNat / 65536
  (List.range ((va.toNat + n - 1) / 65536 - lo + 1)).foldl (fun acc' k => match acc' with
    | none => none
    | some ps => match s.translateBare space (BitVec.ofNat 64 ((lo + k) * 65536)) acc with
      | (_, .ok pa _ _) => if inDram pa then some (ps ++ [pa]) else none
      | _ => none) (some [])

/-- Reads bytes of a range of pages at their homes. -/
def State.readPages (s : State) (pages : List Nat) (at' n : Nat) : State × List Byte :=
  (pieces at' n).foldl (fun (s, bs) p =>
    let (s, more) := s.l2Read (pages.getD (p.1 / 65536) 0 + p.1 % 65536) p.2
    (s, bs ++ more)) (s, [])

/-- Reads bytes at a virtual address of main DRAM, page by page (R347). -/
def State.readEngine (s : State) (space : Nat) (va : DWord) (n : Nat) : Option (State × List Byte) :=
  (s.pagesOf space va n .read).map fun pages => s.readPages pages (va.toNat % 65536) n

/-- Writes bytes at a virtual address at their homes, as far as their pages translate to main DRAM; answers with the runs
that were written, as offset from the address and length (R349). -/
def State.writeEngine (s : State) (space : Nat) (va : DWord) (bs : List Byte) : State × List (Nat × Nat) :=
  (pieces va.toNat bs.length).foldl (fun (s, out) p =>
    match s.translateBare space (BitVec.ofNat 64 p.1) .write with
    | (s, .ok pa _ _) =>
      if inDram pa then
        (s.l2Write pa ((bs.drop (p.1 - va.toNat)).take p.2), out ++ [(p.1 - va.toNat, p.2)])
      else (s, out)
    | (s, _) => (s, out)) (s, [])

/-! ### Registration (R347, R349; log 25) -/

/-- Registers a send queue: its number in byte 0, its address space in bytes 2 and 3, and the virtual addresses of its
slots, post word and done word from bytes 8, 16 and 24. -/
def execRegisterSendQueue (bs : List Byte) (s : State) : Result :=
  let q := field bs 0 1
  let space := field bs 2 2
  let slots := BitVec.ofNat 64 (field bs 8 8)
  let post := BitVec.ofNat 64 (field bs 16 8)
  let done := BitVec.ofNat 64 (field bs 24 8)
  s.served? (fun s => q < 64 && (s.transport.queues.lookup q).isNone && (s.foreman.spaces.lookup space).isSome &&
      (s.pagesOf space slots 16384 .write).isSome && (s.wordAt space post).isSome && (s.wordAt space done).isSome)
    fun s =>
      let new : SendQueue := { slots := slots, post := post, done := done, space := space, taken := 0, sending := [] }
      s.onTransport fun t => { t with queues := t.queues.put q new }

/-- Registers a receive window: its number in byte 0, its address space in bytes 2 and 3, base, length and counter from
bytes 8, 16 and 24. -/
def execRegisterReceiveWindow (bs : List Byte) (s : State) : Result :=
  let w := field bs 0 1
  let space := field bs 2 2
  let base := BitVec.ofNat 64 (field bs 8 8)
  let n := field bs 16 8
  let counter := BitVec.ofNat 64 (field bs 24 8)
  s.served? (fun s => (s.transport.windows.lookup w).isNone && (s.foreman.spaces.lookup space).isSome && n != 0 &&
      (s.pagesOf space base n .write).isSome && (s.wordAt space counter).isSome)
    fun s =>
      let new : RecvWindow := { base := base, length := n, space := space, counter := counter }
      s.onTransport fun t => { t with windows := t.windows.put w new }

/-! ### Sending (R347, R348) -/

/-- Bytes of a packet (log 25). -/
def packetSize : Nat := 4096

/-- The virtual address of descriptor slot k. -/
def SendQueue.slot (q : SendQueue) (k : Nat) : DWord := q.slots + BitVec.ofNat 64 (64 * (k % 256))

/-- A descriptor is malformed (R347, R348): length, mode, reserved fields, counter, peer. -/
def descriptorBad (s : State) (space : Nat) (d : List Byte) : Bool :=
  let counter := BitVec.ofNat 64 (field d 24 8)
  field d 8 4 = 0 || 16777216 < field d 8 4 || 2 < field d 15 1 || nonZero d 36 28 ||
    (counter != 0 && (s.wordAt space counter).isNone) || (s.transport.peers.lookup (field d 12 2)).isNone


/-- The done word rises for every descriptor in ascending order that has completed (R347). -/
def State.raiseDone (s : State) (q : Nat) : Nat → State
  | 0 => s
  | k + 1 => match s.transport.queues.lookup q with
    | none => s
    | some x => match x.sending with
      | [] => s
      | d :: r =>
        if d.status.isNone then s
        else
          let s := match s.wordAt x.space x.done with
            | some pa => s.addOne pa
            | none => s
          State.raiseDone (s.onTransport fun t => { t with queues := t.queues.put q { x with sending := r } }) q k

/-- A descriptor completes: its status, its counter, the done word in turn; what it still had on the way is given up
(R348). -/
def State.completeSend (s : State) (q index status : Nat) : State :=
  match s.transport.queues.lookup q with
  | none => s
  | some x => match x.sending.find? fun d => d.index = index && d.status.isNone with
    | none => s
    | some d =>
      let out := s.transport.packets.filter fun p => p.2.queue = q && p.2.index = index
      let s := out.foldl (fun s p => s.markPacket d.peer p.2.again) s
      let s := (s.writeEngine x.space (d.va + 32) (leBytes 4 status)).1
      let s := if d.counter = 0 then s else match s.wordAt x.space d.counter with
        | some pa => s.addOne pa
        | none => s
      let mark (e : Sending) : Sending := if e.index = index then { e with status := some status } else e
      let s := s.onTransport fun t =>
        { t with packets := (t.packets.filter fun p => !(p.2.queue = q && p.2.index = index)),
                 queues := t.queues.put q { x with sending := x.sending.map mark } }
      s.raiseDone q (x.sending.length)

/-- One transmission of a packet: its source bytes are read at their homes (R347). -/
def State.transmit (s : State) (id : Nat) (d : Sending) (p : Packet) : State :=
  let (s, bs) := s.readPages d.source (d.start + p.first) p.size
  (s.onTransport fun t => { t with packets := t.packets.put id p }).report
    (.packet d.peer id d.window d.mode (d.offset + p.first) bs)

/-- The engine takes the next descriptor of a queue once the post word exceeds its number, and sends its packets (R347). -/
def execSendDescriptor (queue : Nat) (s : State) : Result :=
  match s.transport.queues.lookup queue with
  | none => .next s
  | some x => match s.wordAt x.space x.post with
    | some post =>
      let (s, w) := s.l2Read post 8
      if leNat w ≤ x.taken then .next s
      else match s.readEngine x.space (x.slot x.taken) 64 with
      | none => .next s
      | some (s, d) =>
        let va := BitVec.ofNat 64 (field d 0 8)
        let bad := descriptorBad s x.space d
        let pages := s.pagesOf x.space va (field d 8 4) .read
        let new : Sending :=
          { index := x.taken, va := x.slot x.taken, source := pages.getD [], start := va.toNat % 65536,
            length := field d 8 4, peer := field d 12 2, window := field d 14 1, mode := field d 15 1,
            offset := field d 16 8,
            counter := if (s.wordAt x.space (BitVec.ofNat 64 (field d 24 8))).isSome then BitVec.ofNat 64 (field d 24 8)
              else 0,
            status := none }
        let s := s.onTransport fun t =>
          { t with queues := t.queues.put queue { x with taken := x.taken + 1, sending := x.sending ++ [new] } }
        if bad then .next (s.completeSend queue x.taken 1)
        else if pages.isNone then .next (s.completeSend queue x.taken 2)
        else
          .next ((List.range ((new.length + packetSize - 1) / packetSize)).foldl (fun s k =>
            let (s, id) := s.ticket
            s.transmit id new
              { queue := queue, index := new.index, first := k * packetSize,
                size := min packetSize (new.length - k * packetSize), again := false }) s)
    | none => .next s

/-- A packet on its way, with its descriptor. -/
def State.onItsWay (s : State) (id : Nat) : Option (Packet × Sending) :=
  match s.transport.packets.lookup id with
  | none => none
  | some p => match s.transport.queues.lookup p.queue with
    | none => none
    | some q => (q.sending.find? fun d => d.index = p.index).map fun d => (p, d)

/-- A peer acknowledges a transmission; the last one completes its descriptor (R348, R351). -/
def execPacketAcknowledged (packet nanos : Nat) (marked : Bool) (s : State) : Result :=
  match s.onItsWay packet with
  | none => .next s
  | some (p, d) =>
    let s := match s.transport.peers.lookup d.peer with
      | some x => s.contribute x.roundTrip nanos
      | none => s
    let s := s.markPacket d.peer (marked || p.again)
    let s := s.onTransport fun t => { t with packets := t.packets.drop packet }
    .next (if s.transport.packets.any fun q => q.2.queue = p.queue && q.2.index = p.index then s
      else s.completeSend p.queue p.index 0)

/-- A trimmed packet is sent again (R346, R351). -/
def execPacketTrimmed (packet : Nat) (s : State) : Result :=
  match s.onItsWay packet with
  | none => .next s
  | some (p, d) => .next ((s.markPacket d.peer true).transmit packet d { p with again := true })

/-- A packet that is not acknowledged in time is given up and sent again (R348, R351). -/
def execRetransmission (packet : Nat) (s : State) : Result :=
  match s.onItsWay packet with
  | none => .next s
  | some (p, d) => .next ((s.markPacket d.peer p.again).transmit packet d { p with again := true })

/-- A peer is unreachable: its descriptors fail with status 3 (R348). -/
def execRetryLimit (peer : Nat) (s : State) : Result :=
  .next (s.transport.queues.foldl (fun s q =>
    (q.2.sending.filter fun d => d.peer = peer && d.status.isNone).foldl (fun s d => s.completeSend q.1 d.index 3) s) s)

/-- A peer refuses a message: its descriptor fails with status 4 (R348). -/
def execRefusedByPeer (packet : Nat) (s : State) : Result :=
  match s.onItsWay packet with
  | none => .next s
  | some (p, _) => .next (s.completeSend p.queue p.index 4)

/-! ### Receiving (R346, R349) -/

/-- The key of a message or a flow. -/
def arrivalKey (peer n : Nat) : Nat := peer * 2 ^ 32 + n % 2 ^ 32

/-- Whether a run of a message has been placed. -/
def Message.has (m : Message) (first n : Nat) : Bool :=
  (List.range n).all fun b => m.placed.any fun r => r.1 ≤ first + b && first + b < r.1 + r.2

/-- Whether every byte of a message has been placed. -/
def Message.whole (m : Message) : Bool := m.has 0 m.length

/-- What the engine answers the peer about a packet (R346, R348). -/
def State.answerPeer (s : State) (a : Arrival) (x : PeerAnswer) : State := s.report (.toPeer a.peer a.message a.first x)

/-- The next packet of an ordered flow is due (R349). -/
def State.flowPasses (s : State) (a : Arrival) : State :=
  match a.flow with
  | some (f, n) => s.onTransport fun t => { t with flows := t.flows.put (arrivalKey a.peer f) (n + 1) }
  | none => s

/-- A packet of a message whose window takes it (R349): its bytes go to their homes, one that was placed before only in the
mode that allows it; those that no longer translate are not placed, and then the packet has no answer and its flow waits for
it again. -/
def State.acceptPacket (s : State) (a : Arrival) (m : Message) (w : RecvWindow) : State :=
  let (s, runs) := if m.has a.first a.bytes.length && a.mode != 2 then (s, [])
    else s.writeEngine w.space (w.base + BitVec.ofNat 64 (a.offset + a.first)) a.bytes
  let m := if m.has a.first a.bytes.length then m
    else { m with placed := m.placed ++ runs.map fun r => (a.first + r.1, r.2) }
  let key := arrivalKey a.peer a.message
  let count := m.whole && !m.counted
  let s := s.onTransport fun t => { t with messages := t.messages.put key { m with counted := m.counted || count } }
  let s := if count then match s.wordAt w.space w.counter with
      | some pa => s.addOne pa
      | none => s
    else s
  if m.has a.first a.bytes.length then (s.flowPasses a).answerPeer a .acknowledged else s

/-- A message is refused, and its flow goes on (R349). -/
def State.refusePacket (s : State) (a : Arrival) (m : Message) : State :=
  let s := s.onTransport fun t => { t with messages := t.messages.put (arrivalKey a.peer a.message) { m with refused := true } }
  (s.flowPasses a).answerPeer a .refused

/-- A packet arrives: one that fails authentication is discarded and counted, a trimmed one is not placed and the peer is
told. One of an ordered flow waits for its turn, without an answer; one whose turn has passed, sent again because its answer
was lost, is answered as before and placed no second time. The others are placed and acknowledged, unless their message is
refused (R346, R348, R349; log 25). -/
def execReceivePacket (a : Arrival) (s : State) : Result :=
  let due (p : Nat × Nat) : Nat := s.transport.flows.at (arrivalKey a.peer p.1) 0
  let early := a.flow.any fun p => due p < p.2
  let late := a.flow.any fun p => p.2 < due p
  .next (if !a.authentic || (s.transport.peers.lookup a.peer).isNone then
      s.onTransport fun t => { t with discarded := t.discarded + 1 }
    else if a.trimmed then s.answerPeer a .trimmed
    else if early then s
    else
      let key := arrivalKey a.peer a.message
      let m := s.transport.messages.at key
        { window := a.window, offset := a.offset, length := a.length, placed := [], refused := false, counted := false }
      if late then s.answerPeer a (if m.refused then .refused else .acknowledged)
      else match s.transport.windows.lookup a.window with
      | some w =>
        if !m.refused && a.offset + a.first + a.bytes.length ≤ w.length && a.first + a.bytes.length ≤ m.length then
          s.acceptPacket a m w
        else s.refusePacket a m
      | none => s.refusePacket a m)

end Sys2Proof.Machine
end

