-- ==== Sys2Proof/Machine/Dispatch.lean ====
section
/-! DEFINITION. The meaning of every instruction and step, one arm each. -/

namespace Sys2Proof.Machine

def exec (i : Instr) (s : State) : Host.Outcome State Fault Refusal :=
  match i with
  | .nop g => Sys2Proof.Machine.execNop g s
  | .bra x => Sys2Proof.Machine.execBra x s
  | .brx x => Sys2Proof.Machine.execBrx x s
  | .call x => Sys2Proof.Machine.execCall x s
  | .callx x => Sys2Proof.Machine.execCallx x s
  | .ret g prio => Sys2Proof.Machine.execRet g prio s
  | .join x => Sys2Proof.Machine.execJoin x s
  | .exit g => Sys2Proof.Machine.execExit g s
  | .trap g n => Sys2Proof.Machine.execTrap g n s
  | .tret g => Sys2Proof.Machine.execTret g s
  | .tretSkip g => Sys2Proof.Machine.execTretSkip g s
  | .yield g => Sys2Proof.Machine.execYield g s
  | .bar x => Sys2Proof.Machine.execBar x s
  | .rep steps count => Sys2Proof.Machine.execRep steps count s
  | .bnz x => Sys2Proof.Machine.execBnz x s
  | .bz x => Sys2Proof.Machine.execBz x s
  | .pand p => Sys2Proof.Machine.execPand p s
  | .por p => Sys2Proof.Machine.execPor p s
  | .pxor p => Sys2Proof.Machine.execPxor p s
  | .pnot p => Sys2Proof.Machine.execPnot p s
  | .pmov p => Sys2Proof.Machine.execPmov p s
  | .pset x => Sys2Proof.Machine.execPset x s
  | .pget x => Sys2Proof.Machine.execPget x s
  | .vote x => Sys2Proof.Machine.execVote x s
  | .redx x => Sys2Proof.Machine.execRedx x s
  | .scan x => Sys2Proof.Machine.execScan x s
  | .perm x => Sys2Proof.Machine.execPerm x s
  | .push x => Sys2Proof.Machine.execPush x s
  | .compress x => Sys2Proof.Machine.execCompress x s
  | .rdlane x => Sys2Proof.Machine.execRdlane x s
  | .wrlane x => Sys2Proof.Machine.execWrlane x s
  | .lrot x => Sys2Proof.Machine.execLrot x s
  | .add x => Sys2Proof.Machine.execAdd x s
  | .sub x => Sys2Proof.Machine.execSub x s
  | .mul x => Sys2Proof.Machine.execMul x s
  | .mulhi x => Sys2Proof.Machine.execMulhi x s
  | .mad x => Sys2Proof.Machine.execMad x s
  | .madw x => Sys2Proof.Machine.execMadw x s
  | .div x => Sys2Proof.Machine.execDiv x s
  | .rem x => Sys2Proof.Machine.execRem x s
  | .min x => Sys2Proof.Machine.execMin x s
  | .max x => Sys2Proof.Machine.execMax x s
  | .abs x => Sys2Proof.Machine.execAbs x s
  | .neg x => Sys2Proof.Machine.execNeg x s
  | .clamp x => Sys2Proof.Machine.execClamp x s
  | .sad x => Sys2Proof.Machine.execSad x s
  | .lea x => Sys2Proof.Machine.execLea x s
  | .cmp x => Sys2Proof.Machine.execCmp x s
  | .and x => Sys2Proof.Machine.execAnd x s
  | .or x => Sys2Proof.Machine.execOr x s
  | .xor x => Sys2Proof.Machine.execXor x s
  | .not x => Sys2Proof.Machine.execNot x s
  | .andn x => Sys2Proof.Machine.execAndn x s
  | .shl x => Sys2Proof.Machine.execShl x s
  | .shr x => Sys2Proof.Machine.execShr x s
  | .rotl x => Sys2Proof.Machine.execRotl x s
  | .popc x => Sys2Proof.Machine.execPopc x s
  | .clz x => Sys2Proof.Machine.execClz x s
  | .ctz x => Sys2Proof.Machine.execCtz x s
  | .bfx x => Sys2Proof.Machine.execBfx x s
  | .bfi x => Sys2Proof.Machine.execBfi x s
  | .brev x => Sys2Proof.Machine.execBrev x s
  | .sel x => Sys2Proof.Machine.execSel x s
  | .mov g wide d a => Sys2Proof.Machine.execMov g wide d a s
  | .movLiteral g wide d lit => Sys2Proof.Machine.execMovLiteral g wide d lit s
  | .uadd x => Sys2Proof.Machine.execUadd x s
  | .usub x => Sys2Proof.Machine.execUsub x s
  | .umul x => Sys2Proof.Machine.execUmul x s
  | .umad x => Sys2Proof.Machine.execUmad x s
  | .udiv x => Sys2Proof.Machine.execUdiv x s
  | .urem x => Sys2Proof.Machine.execUrem x s
  | .umin x => Sys2Proof.Machine.execUmin x s
  | .umax x => Sys2Proof.Machine.execUmax x s
  | .uand x => Sys2Proof.Machine.execUand x s
  | .uor x => Sys2Proof.Machine.execUor x s
  | .uxor x => Sys2Proof.Machine.execUxor x s
  | .ushl x => Sys2Proof.Machine.execUshl x s
  | .ushr x => Sys2Proof.Machine.execUshr x s
  | .ucmp x => Sys2Proof.Machine.execUcmp x s
  | .usel x => Sys2Proof.Machine.execUsel x s
  | .umov g d a => Sys2Proof.Machine.execUmov g d a s
  | .umovLiteral g d lit => Sys2Proof.Machine.execUmovLiteral g d lit s
  | .ucvt x => Sys2Proof.Machine.execUcvt x s
  | .upopc x => Sys2Proof.Machine.execUpopc x s
  | .uclz x => Sys2Proof.Machine.execUclz x s
  | .ubfx x => Sys2Proof.Machine.execUbfx x s
  | .fadd x => Sys2Proof.Machine.execFadd x s
  | .fsub x => Sys2Proof.Machine.execFsub x s
  | .fmul x => Sys2Proof.Machine.execFmul x s
  | .fma x => Sys2Proof.Machine.execFma x s
  | .fmin x => Sys2Proof.Machine.execFmin x s
  | .fmax x => Sys2Proof.Machine.execFmax x s
  | .fabs x => Sys2Proof.Machine.execFabs x s
  | .fneg x => Sys2Proof.Machine.execFneg x s
  | .fcmp x => Sys2Proof.Machine.execFcmp x s
  | .fdiv x => Sys2Proof.Machine.execFdiv x s
  | .fsqrt x => Sys2Proof.Machine.execFsqrt x s
  | .frcp x => Sys2Proof.Machine.execFrcp x s
  | .frsq x => Sys2Proof.Machine.execFrsq x s
  | .frnd x => Sys2Proof.Machine.execFrnd x s
  | .fclass x => Sys2Proof.Machine.execFclass x s
  | .fsgn x => Sys2Proof.Machine.execFsgn x s
  | .fexp2 x => Sys2Proof.Machine.execFexp2 x s
  | .flog2 x => Sys2Proof.Machine.execFlog2 x s
  | .fsin x => Sys2Proof.Machine.execFsin x s
  | .fcos x => Sys2Proof.Machine.execFcos x s
  | .ftanh x => Sys2Proof.Machine.execFtanh x s
  | .fsig x => Sys2Proof.Machine.execFsig x s
  | .fsilu x => Sys2Proof.Machine.execFsilu x s
  | .fgelu x => Sys2Proof.Machine.execFgelu x s
  | .cvt x => Sys2Proof.Machine.execCvt x s
  | .cvtsc x => Sys2Proof.Machine.execCvtsc x s
  | .pack x => Sys2Proof.Machine.execPack x s
  | .unpack x => Sys2Proof.Machine.execUnpack x s
  | .bperm x => Sys2Proof.Machine.execBperm x s
  | .tern x => Sys2Proof.Machine.execTern x s
  | .fdot2 x => Sys2Proof.Machine.execFdot2 x s
  | .fdot4 x => Sys2Proof.Machine.execFdot4 x s
  | .hadd x => Sys2Proof.Machine.execHadd x s
  | .hsub x => Sys2Proof.Machine.execHsub x s
  | .hmul x => Sys2Proof.Machine.execHmul x s
  | .hfma x => Sys2Proof.Machine.execHfma x s
  | .hmin x => Sys2Proof.Machine.execHmin x s
  | .hmax x => Sys2Proof.Machine.execHmax x s
  | .habs x => Sys2Proof.Machine.execHabs x s
  | .hneg x => Sys2Proof.Machine.execHneg x s
  | .hcmp x => Sys2Proof.Machine.execHcmp x s
  | .hcvt x => Sys2Proof.Machine.execHcvt x s
  | .hexp2 x => Sys2Proof.Machine.execHexp2 x s
  | .hrcp x => Sys2Proof.Machine.execHrcp x s
  | .ufadd x => Sys2Proof.Machine.execUfadd x s
  | .ufmul x => Sys2Proof.Machine.execUfmul x s
  | .ufma x => Sys2Proof.Machine.execUfma x s
  | .ufmin x => Sys2Proof.Machine.execUfmin x s
  | .ufmax x => Sys2Proof.Machine.execUfmax x s
  | .ufcmp x => Sys2Proof.Machine.execUfcmp x s
  | .ufcvt x => Sys2Proof.Machine.execUfcvt x s
  | .ldG x => Sys2Proof.Machine.execLdG x s
  | .ldS x => Sys2Proof.Machine.execLdS x s
  | .ldC x => Sys2Proof.Machine.execLdC x s
  | .ldF x => Sys2Proof.Machine.execLdF x s
  | .ldP x => Sys2Proof.Machine.execLdP x s
  | .stG x => Sys2Proof.Machine.execStG x s
  | .stS x => Sys2Proof.Machine.execStS x s
  | .stC x => Sys2Proof.Machine.execStC x s
  | .stF x => Sys2Proof.Machine.execStF x s
  | .stP x => Sys2Proof.Machine.execStP x s
  | .atom x => Sys2Proof.Machine.execAtom x s
  | .cas x => Sys2Proof.Machine.execCas x s
  | .ared x => Sys2Proof.Machine.execAred x s
  | .ldu x => Sys2Proof.Machine.execLdu x s
  | .stu x => Sys2Proof.Machine.execStu x s
  | .prf x => Sys2Proof.Machine.execPrf x s
  | .uatom x => Sys2Proof.Machine.execUatom x s
  | .ucas x => Sys2Proof.Machine.execUcas x s
  | .rel x => Sys2Proof.Machine.execRel x s
  | .acq x => Sys2Proof.Machine.execAcq x s
  | .fence x => Sys2Proof.Machine.execFence x s
  | .clean x => Sys2Proof.Machine.execClean x s
  | .inval x => Sys2Proof.Machine.execInval x s
  | .cinv x => Sys2Proof.Machine.execCinv x s
  | .qfence x => Sys2Proof.Machine.execQfence x s
  | .nfence g => Sys2Proof.Machine.execNfence g s
  | .xlinv x => Sys2Proof.Machine.execXlinv x s
  | .icinv x => Sys2Proof.Machine.execIcinv x s
  | .mcall x => Sys2Proof.Machine.execMcall x s
  | .dot bank => Sys2Proof.Machine.execDot bank s
  | .axpy bank => Sys2Proof.Machine.execAxpy bank s
  | .addv bank => Sys2Proof.Machine.execAddv bank s
  | .scale bank => Sys2Proof.Machine.execScale bank s
  | .fill bank => Sys2Proof.Machine.execFill bank s
  | .red bank => Sys2Proof.Machine.execRed bank s
  | .cmpscan bank => Sys2Proof.Machine.execCmpscan bank s
  | .vadd bank => Sys2Proof.Machine.execVadd bank s
  | .walk stack => Sys2Proof.Machine.execWalk stack s
  | .assay stack => Sys2Proof.Machine.execAssay stack s
  | .mcallReply ticket => Sys2Proof.Machine.execMcallReply ticket s
  | .nadd x => Sys2Proof.Machine.execNadd x s
  | .naddPerform stack => Sys2Proof.Machine.execNaddPerform stack s
  | .winit x => Sys2Proof.Machine.execWinit x s
  | .wpush x => Sys2Proof.Machine.execWpush x s
  | .wread x => Sys2Proof.Machine.execWread x s
  | .wlen x => Sys2Proof.Machine.execWlen x s
  | .wfree x => Sys2Proof.Machine.execWfree x s
  | .winitAtHome core => Sys2Proof.Machine.execWinitAtHome core s
  | .wpushAtHome core => Sys2Proof.Machine.execWpushAtHome core s
  | .wreadAtHome core => Sys2Proof.Machine.execWreadAtHome core s
  | .wlenAtHome core => Sys2Proof.Machine.execWlenAtHome core s
  | .wfreeAtHome core => Sys2Proof.Machine.execWfreeAtHome core s
  | .finstall x => Sys2Proof.Machine.execFinstall x s
  | .flashInstall stack failing => Sys2Proof.Machine.execFlashInstall stack failing s
  | .installPermitTimeout stack => Sys2Proof.Machine.execInstallPermitTimeout stack s
  | .fstat x => Sys2Proof.Machine.execFstat x s
  | .gang x => Sys2Proof.Machine.execGang x s
  | .segtab x => Sys2Proof.Machine.execSegtab x s
  | .segtabApply core => Sys2Proof.Machine.execSegtabApply core s
  | .wload x => Sys2Proof.Machine.execWload x s
  | .wloadLatch core => Sys2Proof.Machine.execWloadLatch core s
  | .mma x => Sys2Proof.Machine.execMma x s
  | .mmaOperation core => Sys2Proof.Machine.execMmaOperation core s
  | .accrd x => Sys2Proof.Machine.execAccrd x s
  | .accwr x => Sys2Proof.Machine.execAccwr x s
  | .accz x => Sys2Proof.Machine.execAccz x s
  | .accrdPerform core => Sys2Proof.Machine.execAccrdPerform core s
  | .accwrPerform core => Sys2Proof.Machine.execAccwrPerform core s
  | .acczPerform core => Sys2Proof.Machine.execAcczPerform core s
  | .epld x => Sys2Proof.Machine.execEpld x s
  | .epldApply core => Sys2Proof.Machine.execEpldApply core s
  | .permit g => Sys2Proof.Machine.execPermit g s
  | .permitRel g => Sys2Proof.Machine.execPermitRel g s
  | .permitGrant core => Sys2Proof.Machine.execPermitGrant core s
  | .cpgo x => Sys2Proof.Machine.execCpgo x s
  | .copyRecord core channel => Sys2Proof.Machine.execCopyRecord core channel s
  | .codebookSetup core channel => Sys2Proof.Machine.execCodebookSetup core channel s
  | .hwait x => Sys2Proof.Machine.execHwait x s
  | .hrel x => Sys2Proof.Machine.execHrel x s
  | .hstat x => Sys2Proof.Machine.execHstat x s
  | .launch x => Sys2Proof.Machine.execLaunch x s
  | .waitdep g => Sys2Proof.Machine.execWaitdep g s
  | .trigger g => Sys2Proof.Machine.execTrigger g s
  | .setways x => Sys2Proof.Machine.execSetways x s
  | .ccwait x => Sys2Proof.Machine.execCcwait x s
  | .ccwaitTimeout group lane => Sys2Proof.Machine.execCcwaitTimeout group lane s
  | .ccread x => Sys2Proof.Machine.execCcread x s
  | .sreg x => Sys2Proof.Machine.execSreg x s
  | .sset x => Sys2Proof.Machine.execSset x s
  | .entryRaised group lane => Sys2Proof.Machine.execEntryRaised group lane s
  | .icacheLineArrival core line => Sys2Proof.Machine.execIcacheLineArrival core line s
  | .rejoinStuck group => Sys2Proof.Machine.execRejoinStuck group s
  | .clusterPlacement corner => Sys2Proof.Machine.execClusterPlacement corner s
  | .launchRaised queue => Sys2Proof.Machine.execLaunchRaised queue s
  | .quantumEnd cluster => Sys2Proof.Machine.execQuantumEnd cluster s
  | .waitdepEviction cluster => Sys2Proof.Machine.execWaitdepEviction cluster s
  | .clusterResume corner => Sys2Proof.Machine.execClusterResume corner s
  | .sliceRemap slice => Sys2Proof.Machine.execSliceRemap slice s
  | .sendDescriptor queue => Sys2Proof.Machine.execSendDescriptor queue s
  | .lastingFaulty unit => Sys2Proof.Machine.execLastingFaulty unit s
  | .sensorFailed column => Sys2Proof.Machine.execSensorFailed column s
  | .swallowLevelApply column => Sys2Proof.Machine.execSwallowLevelApply column s
  | .columnOverheat column => Sys2Proof.Machine.execColumnOverheat column s
  | .powerRaiseEnd => Sys2Proof.Machine.execPowerRaiseEnd s
  | .refresh bank => Sys2Proof.Machine.execRefresh bank s
  | .translationWalk core space page => Sys2Proof.Machine.execTranslationWalk core space page s
  | .xlateRetry ticket => Sys2Proof.Machine.execXlateRetry ticket s
  | .xlateFail ticket => Sys2Proof.Machine.execXlateFail ticket s
  | .launchMessage bytes => Sys2Proof.Machine.execLaunchMessage bytes s
  | .cancelMessage bytes => Sys2Proof.Machine.execCancelMessage bytes s
  | .registerAddressSpace space root => Sys2Proof.Machine.execRegisterAddressSpace space root s
  | .releaseAddressSpace space => Sys2Proof.Machine.execReleaseAddressSpace space s
  | .setQuantum queue micros => Sys2Proof.Machine.execSetQuantum queue micros s
  | .setSavePool base size => Sys2Proof.Machine.execSetSavePool base size s
  | .setInterleaveModes modes => Sys2Proof.Machine.execSetInterleaveModes modes s
  | .setStagingRegion gib => Sys2Proof.Machine.execSetStagingRegion gib s
  | .lockExtents first count => Sys2Proof.Machine.execLockExtents first count s
  | .unlockExtents first count => Sys2Proof.Machine.execUnlockExtents first count s
  | .flashStatusRead stack => Sys2Proof.Machine.execFlashStatusRead stack s
  | .enrolOwnerKey key signer sigR sigS => Sys2Proof.Machine.execEnrolOwnerKey key signer sigR sigS s
  | .admitCodeObject file space loads => Sys2Proof.Machine.execAdmitCodeObject file space loads s
  | .unloadCodeObject object => Sys2Proof.Machine.execUnloadCodeObject object s
  | .readAttestation object => Sys2Proof.Machine.execReadAttestation object s
  | .readEndOfLife unit => Sys2Proof.Machine.execReadEndOfLife unit s
  | .clearOutOfServiceFlag value => Sys2Proof.Machine.execClearOutOfServiceFlag value s
  | .hostWrite address bytes => Sys2Proof.Machine.execHostWrite address bytes s
  | .hostRead address count => Sys2Proof.Machine.execHostRead address count s
  | .replayRequest flit => Sys2Proof.Machine.execReplayRequest flit s
  | .linkRetrain succeeds => Sys2Proof.Machine.execLinkRetrain succeeds s
  | .configurePeerTable peer key route objects => Sys2Proof.Machine.execConfigurePeerTable peer key route objects s
  | .registerSendQueue bytes => Sys2Proof.Machine.execRegisterSendQueue bytes s
  | .registerReceiveWindow bytes => Sys2Proof.Machine.execRegisterReceiveWindow bytes s
  | .packetAcknowledged packet nanos marked => Sys2Proof.Machine.execPacketAcknowledged packet nanos marked s
  | .packetTrimmed packet => Sys2Proof.Machine.execPacketTrimmed packet s
  | .retryLimit peer => Sys2Proof.Machine.execRetryLimit peer s
  | .receivePacket packet => Sys2Proof.Machine.execReceivePacket packet s
  | .reset failing => Sys2Proof.Machine.execReset failing s
  | .correctableEvent unit => Sys2Proof.Machine.execCorrectableEvent unit s
  | .driftReport column drift => Sys2Proof.Machine.execDriftReport column drift s
  | .sensorReading column reading => Sys2Proof.Machine.execSensorReading column reading s
  | .powerOverLimit watts => Sys2Proof.Machine.execPowerOverLimit watts s
  | .replay first => Sys2Proof.Machine.execReplay first s
  | .retransmission packet => Sys2Proof.Machine.execRetransmission packet s
  | .refusedByPeer packet => Sys2Proof.Machine.execRefusedByPeer packet s
  | .wallClock seconds => Sys2Proof.Machine.execWallClock seconds s

end Sys2Proof.Machine
end

