-- ==== Sys2Proof/Machine/Schedule.lean ====
section
/-! DEFINITION. What moves next: the step that the agenda names, a slot that issues, or a core that selects by the issue
rule (03 R34 to R41); between cycles of the cores, the steps of the device's other agents that are due (log 8). -/

namespace Sys2Proof.Machine

/-! ### Fetching (R39) -/

/-- A missing line: on its way, a miss that the host answers, or the trap of the fetch (R107, R108, R356). -/
inductive Fetching where
  | asked
  | miss
  | trap (c : Cause)
deriving DecidableEq, Repr

/-- The fetch of a missing byte's line. -/
def State.fetchLine (s : State) (g : Group) (va : Nat) : State × Fetching :=
  match s.translate g.core g.space (BitVec.ofNat 64 va) .fetch with
  | (s, .ok pa _ _) =>
    if s.unreadable pa then (s, .trap .eccFatal)
    else
      (s.onCore g.core fun c =>
        if c.fetching.contains (g.space, va / 128) then c else { c with fetching := c.fetching ++ [(g.space, va / 128)] },
       .asked)
  | (s, .miss) => (s, .miss)
  | (s, .fault c) => (s, .trap c)

/-! ### Readiness (R36, R96, R202) -/

/-- A range of a team's scratchpad meets an entry of the range scoreboard that holds the access back (R96). -/
def State.rangeHeld (s : State) (team off n : Nat) (writes : Bool) : Bool :=
  match s.coreOf team with
  | none => false
  | some core => (s.core core).scoreboard.any fun r =>
      r.team = team && (r.writes || writes) && r.lo < off + n && off < r.hi

/-- A scratchpad access of an active lane is held back (R96). -/
def State.scratchHeld (s : State) (i : Issue) (x : XM) (space : Nat) (writes : Bool) : Bool :=
  (lanes i.active).any fun l =>
    let a := i.offset x l
    if a < 0 then false
    else if space = 1 then s.rangeHeld i.grp.team a.toNat (XM.bytes x) writes
    else match s.peerTeam i a with
      | some t => s.rangeHeld t (a % 524288).toNat (XM.bytes x) writes
      | none => false

/-- A resource that the instruction needs is not free (R36). A `rep` waits for the repeats of another entry; at one that is
itself to be repeated the group traps (R205, R330). -/
def State.lacks (s : State) (i : Issue) (x : Instr) : Bool :=
  match x with
  | .rep _ _ => i.grp.rep != 0 && !(i.grp.entryOf i.slot.mask).any fun e => e.repeating
  | .tret _ | .tretSkip _ => i.active != 0 && i.grp.trap.isSome && i.grp.front.pool != []
  | .nadd _ => 256 < (s.addsOf i.grp.core).length + (lanes i.active).length
  | .cpgo x => i.active != 0 && 4 ≤ (s.channel i.grp.core (bits 1 0 x.i32.toNat)).heads.length
  | .mma _ => i.active != 0 && (s.core i.grp.core).matrix.latch.any fun l => l.arrived.any fun a => a.group = i.gid
  | .ldS x => s.scratchHeld i x 1 false
  | .stS x => s.scratchHeld i x 1 true
  | .ldC x => s.scratchHeld i x 2 false
  | .stC x => s.scratchHeld i x 2 true
  | .atom x | .cas x | .ared x => (x.sl = 1 || x.sl = 2) && s.scratchHeld i x x.sl.toNat true
  | .uatom x | .ucas x => (x.sl = 1 || x.sl = 2) && s.scratchHeld i.lead x x.sl.toNat true
  | .segtab x => i.active != 0 && s.rangeHeld i.grp.team (i.scalar x.a) (8 * min (i.scalar x.b) 16) false
  | .epld x => i.active != 0 && s.rangeHeld i.grp.team (i.scalar x.a) 256 false
  | _ => false

/-- The guard of an instruction (R192). -/
def Instr.guard : Instr → Guard
  | .nop g | .ret g _ | .exit g | .trap g _ | .tret g | .tretSkip g | .yield g | .nfence g | .permit g => g
  | .permitRel g | .waitdep g | .trigger g => g
  | .pand p | .por p | .pxor p | .pnot p | .pmov p => p.g
  | i => match i.ext with
    | some e => e.g
    | none => .always

/-- The issue of an instruction for an entry. -/
def Entry.issue (e : Entry) (gid : Nat) (g : Group) (i : Instr) (words port : Nat) : Issue :=
  { gid := gid, grp := g, slot := { group := gid, mask := e.mask, pc := e.pc, words := words, port := port, bits := none, behind := none },
    active := g.passing gid (Instr.guard i) e.mask, blame := none }

/-- What an entry needs for what stands at it is there: no window holds it back, and the instruction, as the repeats so
far have stepped it, lacks nothing (R36, R96, R202, R205). -/
def State.entryFree (s : State) (gid : Nat) (g : Group) (e : Entry) (h : Here) : Bool :=
  e.hold = .free && !g.busy e && !s.windowsWait g e h &&
    match h with
    | .instr i w =>
      let j := e.current g i
      g.lets e j && !s.lacks (e.issue gid g j w 0) j
    | _ => true

/-- An entry is ready (R36); one whose line is missing counts until the line has been asked for (R39). -/
def State.entryReady (s : State) (gid : Nat) (g : Group) (e : Entry) : Bool :=
  let h := s.look g e
  s.entryFree gid g e h && match h with
    | .missing va => !(s.core g.core).fetching.contains (g.space, va / 128)
    | _ => true

/-! ### Selection (R37 to R40) -/

/-- A candidate for issue, with its datapath lanes (R30). -/
structure Cand where
  gid : Nat
  grid : Nat
  entry : Entry
  lanes : LaneMask
deriving DecidableEq, Repr

/-- The rank of an entry, lowest first: raised ones in the order they were raised, then by priority, then by program
counter (R34, R40). -/
def Entry.rank (e : Entry) : Nat :=
  match e.raised with
  | some k => k
  | none => 2 ^ 80 + (255 - e.prio.toNat) * 2 ^ 64 + e.pc.toNat

/-- Puts a candidate into its place. -/
def rankIn (c : Cand) : List Cand → List Cand
  | [] => [c]
  | x :: r => if c.entry.rank < x.entry.rank then c :: x :: r else x :: rankIn c r

/-- The ready entries of a group by rank; none while its cluster is frozen (R62). -/
def State.readyOf (s : State) (gid : Nat) (g : Group) (skip : List (Nat × LaneMask)) : List Cand :=
  let frozen := match s.clusters.lookup g.cluster with
    | some k => k.frozen.isSome
    | none => false
  if frozen then []
  else
    (g.front.entries.filter fun e => s.entryReady gid g e && !skip.contains (gid, e.mask)).foldl (fun acc e =>
      rankIn { gid := gid, grid := g.grid, entry := e, lanes := e.mask <<< g.base } acc) []

/-- A group's first ready entry at a program counter of the same grid whose lanes meet none of a set (R37); a repeating
entry merges with none (R205). -/
def mergeable (a : Cand) (taken : LaneMask) (es : List Cand) : Option Cand :=
  if a.entry.repeating then none
  else es.find? fun e =>
    e.entry.pc = a.entry.pc && e.grid = a.grid && !e.entry.repeating && e.lanes &&& taken = 0

/-- The merges of a port in age order, with the lanes of its slot. -/
def mergesAt (a : Cand) (other : LaneMask) (groups : List (Nat × List Cand)) : List Cand × LaneMask :=
  groups.foldl (fun (out, slot) g =>
    match mergeable a (slot ||| other) g.2 with
    | some e => (out ++ [e], slot ||| e.lanes)
    | none => (out, slot)) ([], a.lanes)

/-- The groups after the last leader in age order, wrapping; it comes last itself. -/
def afterLeader {α : Type} (last : Option Nat) (gs : List (Nat × α)) : List (Nat × α) :=
  match last with
  | none => gs
  | some l => (gs.filter fun g => l < g.1) ++ gs.filter fun g => g.1 ≤ l

/-- The issue rule: the leader, and what issues at each port (R37). -/
def selectSlots (last : Option Nat) (groups : List (Nat × List Cand)) : Option (Nat × List (Cand × Nat)) :=
  match (afterLeader last groups).find? fun g => !g.2.isEmpty with
  | none => none
  | some (leader, []) => some (leader, [])
  | some (leader, a :: more) =>
    let others := groups.filter fun g => g.1 != leader
    let (ma, slotA) := mergesAt a (match more with
      | b :: _ => b.lanes
      | [] => 0) others
    let rest := others.filter fun g => !ma.any fun e => e.gid = g.1
    let b := match more with
      | b :: _ => some b
      | [] => (afterLeader (some leader) rest).findSome? fun g => g.2.find? fun e => e.lanes &&& slotA = 0
    let portA := (a :: ma).map fun c => (c, 0)
    match b with
    | none => some (leader, portA)
    | some b =>
      let (mb, _) := mergesAt b slotA (rest.filter fun g => g.1 != b.gid)
      some (leader, portA ++ (b :: mb).map fun c => (c, 1))

/-- A fetch that misses parks the entry (R108). -/
def State.parkFetch (s : State) (c : Cand) (g : Group) (va port : Nat) : State :=
  let (s, t) := s.miss g.core g.space g.gridId (BitVec.ofNat 64 va) .fetch
  s.onGroup c.gid fun g => g.onEntry c.entry.mask fun e =>
    { e with hold := .xlate t (BitVec.ofNat 64 va) e.mask port, len := (s.core g.core).lengthAt g.space e.pc.toNat }

/-- Selection with the next candidate for every entry whose line misses (R39); `kept` are entries whose fetch traps. -/
def State.choose (core : Nat) : Nat → List (Nat × LaneMask) → State → State × Option (Nat × List (Cand × Nat))
  | 0, _, s => (s, none)
  | k + 1, kept, s =>
    match selectSlots (s.core core).leader ((s.residents core).map fun p => (p.1, s.readyOf p.1 p.2 [])) with
    | none => (s, none)
    | some pick =>
      let lacking := pick.2.findSome? fun c => match s.groups.lookup c.1.gid with
        | none => none
        | some g => match s.look g c.1.entry with
          | .missing va => if kept.contains (c.1.gid, c.1.entry.mask) then none else some (c, g, va)
          | _ => none
      match lacking with
      | none => (s, some pick)
      | some (c, g, va) => match s.fetchLine g va with
        | (s, .asked) => State.choose core k kept s
        | (s, .miss) => State.choose core k kept (s.parkFetch c.1 g va c.2)
        | (s, .trap _) => State.choose core k ((c.1.gid, c.1.entry.mask) :: kept) s

/-- The pass counts after a selection: one more for each ready entry that does not issue (R40). A chosen entry's count
returns to 0 when it issues. -/
def State.countPasses (s : State) (core : Nat) (chosen : List (Nat × LaneMask)) : State :=
  (s.residents core).foldl (fun t p =>
    let count (e : Entry) : Entry :=
      if !chosen.contains (p.1, e.mask) && s.entryReady p.1 p.2 e then { e with passes := e.passes + 1 } else e
    t.onGroup p.1 fun g => { g with front := { g.front with entries := g.front.entries.map count } }) s

/-- The entries that are now to be raised (R40). Those of one group that reach the count in the same cycle are raised in
the order in which the frontier lists them (DESIGN CHOICE, log 64). -/
def State.dueRaises (s : State) : List Turn :=
  (s.groups.filter fun p => p.2.resident).flatMap fun p =>
    (p.2.front.entries.filter fun e => e.due && e.mask != 0).map fun e =>
      .event (.entryRaised p.1 ((lanes e.mask).headD 0))

/-- The bits at an address where the instruction cache holds all of them. -/
def Core.bitsAt (c : Core) (space pc : Nat) : Option Nat :=
  match c.fetchBits space pc with
  | .bytes w => some w
  | .missing _ => none

/-- A chosen candidate's slot, with the bits that it has fetched; they stay what they are if the instruction cache loses
the line before the slot issues (R333). -/
def State.slotOf (s : State) (c : Cand × Nat) : Slot :=
  let (space, core) := match s.groups.lookup c.1.gid with
    | some g => (g.space, s.core g.core)
    | none => (0, Core.initial)
  { group := c.1.gid, mask := c.1.entry.mask, pc := c.1.entry.pc, words := 0, port := c.2,
    bits := core.bitsAt space c.1.entry.pc.toNat, behind := core.bitsAt space (c.1.entry.pc + 4).toNat }

/-- Whether a core's clock pulse is removed: level L of each 16 cycles, evenly spaced (R16, R360). -/
def swallowed (level cycle : Nat) : Bool := 16 ≤ cycle % 16 * level % 16 + level

/-- One cycle of a core: what is over is settled, then the issue rule fills the slots (R37). -/
def State.coreCycle (s : State) (core : Nat) : State :=
  if swallowed (s.core core).swallow s.cycles then { s with turn := core + 1 }
  else
    let s := s.settleCore core
    let fuel := (s.residents core).foldl (fun n p => n + p.2.front.entries.length) 1
    match State.choose core fuel [] s with
    | (s, none) => { s.countPasses core [] with turn := core + 1 }
    | (s, some (leader, cs)) =>
      let s := s.countPasses core (cs.map fun c => (c.1.gid, c.1.entry.mask))
      { s.onCore core (fun c => { c with leader := some leader }) with slots := cs.map s.slotOf, turn := core + 1 }

/-! ### Issue -/

/-- What a step of the machine runs: an instruction or a step of another agent, or nothing. -/
inductive Prepared where
  | run (i : Instr) (s : State)
  | rest (s : State)
deriving DecidableEq, Repr

/-- A slot's trap at the instruction's own address, before its effect (R208, R356). -/
def State.slotTrap (s : State) (x : Slot) (g : Group) (c : Cause) (m : LaneMask) (words : Nat) : State :=
  s.trap { gid := x.group, grp := g, slot := { x with words := words }, active := x.mask, blame := none } c m x.pc

/-- What stands at a slot: what it has fetched, otherwise what the instruction cache holds. -/
def State.slotHere (s : State) (x : Slot) (g : Group) (e : Entry) : Here :=
  match x.bits with
  | some w => hereOf g.count w
  | none => s.look g e

/-- The words that a slot's trap steps over with the skip form (R190). -/
def State.slotWords (s : State) (x : Slot) (g : Group) : Nat :=
  match x.bits with
  | some w => wordsOf (w % 4)
  | none => (s.core g.core).lengthAt g.space x.pc.toNat

/-- The predicates that an instruction reads as sources (R235 to R237, R241, R259). -/
def Instr.predicates : Instr → List Nat
  | .pand p | .por p | .pxor p => [p.pa.toNat, p.pb.toNat]
  | .pnot p | .pmov p => [p.pa.toNat]
  | .sel x | .pget x | .vote x | .compress x => [(x.q &&& 15).toNat]
  | _ => []

/-- The destination of an 8-bit `pack`, of which two bytes keep their values, is read too (R251). -/
def Instr.kept (i : Instr) : List (Bool × Nat × Nat) :=
  match i with
  | .pack x => if x.t.bits = 8 then [(false, x.d.n.toNat, 1)] else []
  | _ => []

/-- The sources of an instruction that are registers. -/
def Instr.sources (i : Instr) : List (Bool × Nat × Nat) :=
  match i.ext with
  | none => []
  | some e => Opd.registers i.shape.a e.a ++ Opd.registers i.shape.b e.b ++ Opd.registers i.shape.c e.c ++ Instr.kept i

/-- The lanes of an issuing entry that read a register with an uncorrectable error: a vector register in its own lane, a
uniform register or the guard in every lane, a predicate that is a source in every active one (R356; log 16). -/
def State.flawedLanes (s : State) (x : Slot) (active : LaneMask) (i : Instr) : LaneMask :=
  let reads (uni : Bool) (n : Nat) : Bool := (Instr.sources i).any fun r => r.1 == uni && r.2.1 ≤ n && n < r.2.1 + r.2.2
  s.flaws.foldl (fun m f => match f with
    | .vector g l n => if g = x.group && reads false n then m ||| (active &&& laneBit l) else m
    | .uniform g n => if g = x.group && reads true n then m ||| active else m
    | .predicate g n =>
      if g != x.group then m
      else if (Instr.guard i).g.toNat = n then m ||| x.mask
      else if (Instr.predicates i).contains n then m ||| active
      else m
    | _ => m) 0

/-- A slot does not issue after all: its entry is no longer ready and counts as passed over (R36, R40). -/
def State.dropSlot (s : State) (x : Slot) : State := s.onGroup x.group fun g => g.dropped [x.mask]

/-- An entry's pass count returns to 0 as it issues (R40). -/
def Group.counted (g : Group) (m : LaneMask) : Group := g.onEntry m fun e => { e with passes := 0, raised := none }

/-- The instruction of a slot runs, unless a register that it reads cannot be read (R356). -/
def State.runSlot (s : State) (x : Slot) (g : Group) (e : Entry) (i : Instr) (words : Nat) : Prepared :=
  let m := s.flawedLanes x (e.issue x.group g i words x.port).active i
  if m != 0 then .rest (s.slotTrap x g .eccFatal m words) else .run i { s with issue := some { x with words := words } }

/-- A slot issues: its instruction is decoded, a repeating entry's is stepped (R204, R205, R208). One that has become
unready since it was selected, because a slot before it acted, is dropped (R36, R96, R205). -/
def State.issueSlot (s : State) (x : Slot) : Prepared :=
  match s.groups.lookup x.group with
  | none => .rest s
  | some g => match g.entryOf x.mask with
    | none => .rest s
    | some e =>
      let h := s.slotHere x g e
      if e.pc != x.pc then .rest s
      else if !s.entryFree x.group g e h then .rest (s.dropSlot x)
      else
        let s := s.onGroup x.group fun g => g.counted x.mask
        let g := g.counted x.mask
        match h with
        | .missing va => match s.fetchLine g va with
          | (s, .trap c) => .rest (s.slotTrap x g c x.mask (s.slotWords x g))
          | (s, _) => .rest s
        | .bad c => .rest (s.slotTrap x g c x.mask (s.slotWords x g))
        | .instr i w =>
          if !e.repeating then s.runSlot x g e i w
          else if !mayRepeat i g.count g.rep then .rest (s.slotTrap x g .illegalField x.mask w)
          else match i.repeated g.count (repSteps g.rep) (repDone g.rep) with
            | some j => s.runSlot x g e j w
            | none => .rest (s.slotTrap x g .illegalField x.mask w)

/-! ### Steps of other agents that are due (log 8) -/

/-- Lines on their way, groups that are stuck, levels to apply. -/
def State.dueCores (s : State) : List Instr :=
  (s.cores.flatMap fun p =>
    (p.2.fetching.map fun f => Instr.icacheLineArrival p.1 f.2) ++
      (if s.cycles % 16 = 0 && p.2.swallowNext.isSome then [.swallowLevelApply p.1] else []) ++
      (if p.2.permits.any fun x => !x.granted then [.permitGrant p.1] else [])) ++
    (s.groups.filter fun p => p.2.resident && p.2.stuck).map fun p => .rejoinStuck p.1

/-- The oldest operation of each queue of the cores' engines. -/
def State.dueQueues (s : State) : List Instr :=
  s.cores.flatMap fun p =>
    (match p.2.queue4 with
     | op :: _ => match op.work with
       | .segtab _ => [Instr.segtabApply p.1]
       | .wload _ _ _ _ => [.wloadLatch p.1]
       | .mma _ => [.mmaOperation p.1]
       | .accrd _ _ _ _ => [.accrdPerform p.1]
       | .accwr _ => [.accwrPerform p.1]
       | .accz _ _ => [.acczPerform p.1]
       | .epld _ => [.epldApply p.1]
     | [] => []) ++
    (match p.2.queue6 with
     | m :: _ => match m.work with
       | .init _ => [.winitAtHome p.1]
       | .push _ _ _ => [.wpushAtHome p.1]
       | .read _ _ _ => [.wreadAtHome p.1]
       | .len _ => [.wlenAtHome p.1]
       | .free => [.wfreeAtHome p.1]
     | [] => []) ++
    p.2.channels.flatMap fun c => if c.2.heads = [] then [] else [.copyRecord p.1 c.1, .codebookSetup p.1 c.1]

/-- The executor step of a command code (R141). -/
def executorStep (code bank : Nat) : Instr :=
  match code with
  | 0 => .dot bank
  | 1 => .axpy bank
  | 2 => .addv bank
  | 3 => .scale bank
  | 4 => .fill bank
  | 5 => .red bank
  | 6 => .cmpscan bank
  | _ => .vadd bank

/-- The engines of the memory stacks, their replies, and the adds on their way. -/
def State.dueMemory (s : State) : List Instr :=
  (s.executors.filterMap fun p => p.2.queue.head?.map fun c => executorStep c.code p.1) ++
    (s.walkers.filterMap fun p => p.2.queue.head?.map fun _ => Instr.walk p.1) ++
    (s.assays.filterMap fun p => p.2.queue.head?.map fun _ => Instr.assay p.1) ++
    (s.replies.map fun r => Instr.mcallReply r.call.ticket) ++
    ((s.adds.map fun a => s.stackOf a.pa).eraseDups.map .naddPerform)

/-- The launch engine: placement or resumption, raised heads, quanta, evictions. -/
def State.dueLaunch (s : State) : List Instr :=
  (s.clusters.filter fun p => p.2.frozen.isSome || s.expired p.2).map (fun p => Instr.quantumEnd p.1) ++
    (s.clusters.filter fun p => s.mayEvict p.1 p.2).map (fun p => Instr.waitdepEviction p.1) ++
    (s.queues.filter fun p => s.raiseDue p.1 && !s.headRaised p.1).map (fun p => Instr.launchRaised p.1) ++
    (s.slicesOut.filter fun n => !s.remapped.contains n).map .sliceRemap ++
    (match s.serve with
     | some (_, _, .launch _) => [.clusterPlacement 0]
     | some (_, _, .saved _) => [.clusterResume 0]
     | none => [])


/-- A counter wait whose limit has passed (R338). -/
def Entry.timedOut (e : Entry) (time : Nat) : Bool :=
  match e.hold with
  | .counter w => !w.expired && (match w.limit with
    | some (c, t) => t + c ≤ time
    | none => false)
  | _ => false

/-- Flash stacks, the transport engine, the foreman, limits that have passed. -/
def State.dueOthers (s : State) : List Instr :=
  (s.groups.flatMap fun p => (p.2.everyEntry.filter fun e => e.timedOut s.time).map fun e =>
      Instr.ccwaitTimeout p.1 ((lanes e.mask).headD 0)) ++
    (if s.link.retrains then [Instr.linkRetrain (Config.retrain s.cycles)] else []) ++
    ((s.flash.filter fun p => p.2.installs != []).flatMap fun p => [.installPermitTimeout p.1, .flashInstall p.1 []]) ++
    ((s.transport.queues.map (·.1)).map .sendDescriptor) ++
    ((s.foreman.events.map (·.1)).eraseDups.filter (fun u => !s.isOut u)).map .lastingFaulty ++
    ((s.foreman.sensors.filter fun p => 10 ≤ p.2.hot).map fun p => .columnOverheat p.1) ++
    ((s.foreman.sensors.filter fun p => 3 ≤ p.2.strikes && !p.2.failed).map fun p => .sensorFailed p.1) ++
    (match s.foreman.raiseEnd with
     | some t => if t ≤ s.time then [.powerRaiseEnd] else []
     | none => [])

/-- Refreshes that fall due: every 3,315 cycles (3.9 µs) in each bank, by its own phase (R145). A bank that no command
waits for and none runs in refreshes unseen (log 73). -/
def State.dueRefresh (s : State) : List Instr :=
  (s.executors.filter fun p => (s.cycles + Config.refreshPhase p.1) % 3315 = 0).map fun p => .refresh p.1

/-- Every step that is due. -/
def State.due (s : State) : List Instr :=
  s.dueRefresh ++ s.dueCores ++ s.dueQueues ++ s.dueMemory ++ s.dueLaunch ++ s.dueOthers

/-- The end of a cycle: the clocks move on, and the steps that are due come before the next one. -/
def State.endCycle (s : State) : State :=
  let s := { s with cycles := s.cycles + 1, turn := 0 }
  { s with agenda := s.due.map .event ++ s.agenda }

/-- The next core with a resident group, from the one whose turn it is. -/
def State.nextCore (s : State) : Option Nat :=
  (s.groups.filter fun p => p.2.resident && s.turn ≤ p.2.core).foldl (fun best p => match best with
    | none => some p.2.core
    | some n => some (min n p.2.core)) none

/-- The cores move: a slot issues, entries are raised, the next core selects, or the cycle ends. -/
def State.coresMove (s : State) : Prepared :=
  match s.slots with
  | x :: r => State.issueSlot { s with slots := r } x
  | [] => match s.dueRaises with
    | t :: ts => .rest { s with agenda := t :: ts ++ s.agenda }
    | [] => match s.nextCore with
      | some n => .rest (s.coreCycle n)
      | none => .rest s.endCycle

/-- An uncorrectable error arises: in a line behind level 2, or elsewhere (R356; log 16). -/
def State.arises (s : State) (f : Flaw) : State :=
  match f with
  | .line la => { s with badLines := la :: s.badLines }
  | f => { s with flaws := f :: s.flaws }

/-- What moves next: what the agenda says, or the cores. A lane instruction on the agenda is passed over: lanes issue
only by the issue rule. -/
def State.prepare (s : State) : Prepared :=
  match s.agenda with
  | [] => s.coresMove
  | .cores :: r => State.coresMove { s with agenda := r }
  | .flaw f :: r => .rest (State.arises { s with agenda := r } f)
  | .event i :: r =>
    if i.form.isSome then .rest { s with agenda := r } else .run i { s with agenda := r, issue := none }

/-! ### A machine about to issue given words (log 9) -/

/-- A team of one group of eight lanes on core 0, every register it reads listed as 0. -/
def testGroup (gid : Nat) (pc : DWord) : Group :=
  { team := gid + 1, cluster := gid + 2, grid := gid + 3, index := 0, width := 8, count := 256, base := 0, core := 0,
    space := 0, gridId := 0, clus := 0, teamIndex := 0, plimit := 0, pbase := 0, args := 0, trapEntry := some 0x2000,
    resident := true, vregs := [], uregs := (List.range 64).map fun k => (k, 0),
    preds := (List.range 12).map fun k => (k, 0), live := 0xFF,
    front := { entries := [Entry.make 128 pc 0xFF], parked := [], pool := [], waits := [] }, trap := none,
    returns := [], spilled := [], rep := 0, tmask := 0, tcause := 0, taddr := 0, gang := 0, triggered := false,
    raises := 0, flights := [], fresh := false }

/-- The state with that group resident and its entry in the slot that issues next, the words in the core's instruction
cache at the entry's address. -/
def State.aboutToIssue (s : State) (bytes : List Byte) : State :=
  let gid := s.serial
  let pc : DWord := 0x1000
  let line : ILine := { space := 0, line := 0x20, data := bytes ++ List.replicate (128 - bytes.length) 0 }
  let slot : Slot := { group := gid, mask := 0xFF, pc := pc, words := 0, port := 0, bits := none, behind := none }
  let team : Team :=
    { grid := gid + 3, cluster := gid + 2, index := 0, core := 0, scratch := [], size := 0, floorNeed := false,
      handles := [], saved := none }
  let cluster : Cluster :=
    { grid := gid + 3, index := 0, corner := 0, teams := [gid + 1], resident := true, since := s.time,
      arrived := s.time, frozen := none }
  let grid : Grid :=
    { id := 0, kernel := false, object := 0, entryPc := pc, trapEntry := some 0x2000, prio := 0, queue := 0,
      clusters := 1, rows := 1, cols := 1, groups := 1, width := 8, count := 256, scratch := 0, floor := false,
      plimit := 0, space := 0, pbase := 0, args := 0, completion := 0, producers := [], next := 1, failed := false,
      reason := 0 }
  let s := s.onCore 0 fun c => { c with icache := line :: c.icache.filter fun l => !(l.space = 0 && l.line = 0x20) }
  { s with
    groups := s.groups.put gid (testGroup gid pc), teams := s.teams.put (gid + 1) team,
    clusters := s.clusters.put (gid + 2) cluster, grids := s.grids.put (gid + 3) grid, serial := gid + 4,
    slots := [slot], agenda := [] }

end Sys2Proof.Machine
end

