-- ==== Sys2Proof/Machine/Step.lean ====
section
/-! DEFINITION. The step of the machine, and the state in which it issues given words. -/

namespace Sys2Proof.Machine

/-- One step: what moves next, run by `exec` where it is an instruction or a step of another agent. -/
def step (s : State) : Host.Outcome State Fault Refusal :=
  match s.prepare with
  | .run i t => exec i t
  | .rest t => .next t

/-- The state with an instruction of `nbits` bits `w`, zero above, where the next step issues it (log 9). -/
def State.withFetchWord (s : State) (nbits w : Nat) : State := s.aboutToIssue (leBytes 20 (w % 2 ^ nbits))

end Sys2Proof.Machine
end

