-- ==== Sys2Proof/Safety.lean ====
section
/-! DEFINITION. The terms in which claims are made: how an instruction completes and what it leaves alone, what a
lane, a group or a predicate reads afterwards, where a lane of a frontier stands, and the forms that every step keeps. -/

namespace Sys2Proof.Machine

/-! ### Completing -/

/-- The run answers a next state with this property. -/
def Completes (r : Result) (p : State → Prop) : Prop := ∃ t, r = .next t ∧ p t

/-- The entry that issues, with the lanes whose guard is true (R36, R192). -/
def State.issuing (s : State) (gd : Guard) : Option Issue :=
  s.issue.bind fun x => (s.groups.lookup x.group).map fun g =>
    { gid := x.group, grp := g, slot := x, active := g.passing x.group gd x.mask, blame := none }

/-- The issuing group, moved past its instruction and not changed otherwise (R35). -/
def Issue.moved (i : Issue) : Group := i.grp.advance i.slot

/-- The issuing group becomes `g`; every other group and everything else of the machine, every byte of memory among it,
is as before. -/
structure Issue.Changes (i : Issue) (s t : State) (g : Group) : Prop where
  rest : t = { s with groups := t.groups }
  own : t.groups.lookup i.gid = some g
  others : ∀ k, k ≠ i.gid → t.groups.lookup k = s.groups.lookup k

/-- A state whose groups are those of `s`, the issuing one rewritten. -/
def Issue.only (i : Issue) (s : State) (f : Group → Group) : State := s.onGroup i.gid f

/-! ### Registers afterwards (R8, R69) -/

/-- Every vector register of every lane reads alike in two groups. -/
def SameV (gid : Nat) (g h : Group) : Prop := ∀ l n, n < 256 → g.vreg gid l n = h.vreg gid l n

/-- Every uniform register reads alike. -/
def SameU (gid : Nat) (g h : Group) : Prop := ∀ n, g.ureg gid n = h.ureg gid n

/-- Every predicate reads alike. -/
def SameP (gid : Nat) (g h : Group) : Prop := ∀ n, g.pred gid n = h.pred gid n

/-- What register `n` of a lane receives when a result `r` of a type goes to `d`: both halves of a pair for 64 bits,
otherwise the extended value (R4, R69). -/
def resultWord (t : Ty) (d r n : Nat) : Option Word :=
  if t.bits = 64 then
    if n = d then some (BitVec.ofNat 32 r)
    else if n = d + 1 then some (BitVec.ofNat 32 (r / 2 ^ 32))
    else none
  else if n = d then some (extend 32 t r)
  else none

/-- A lane instruction completes: each active lane holds `f` of it in its destination; every other register of every
lane, and everything but the entry's position, is as before. -/
def LaneResult (s : State) (i : Issue) (t : Ty) (d : Nat) (f : Nat → Nat) (r : Result) : Prop :=
  Completes r fun s' => ∃ g, i.Changes s s' g ∧ g = { i.moved with vregs := g.vregs } ∧
    ∀ l n, n < 256 → g.vreg i.gid l n =
      if i.active.getLsbD l then (resultWord t d (f l) n).getD (i.grp.vreg i.gid l n) else i.grp.vreg i.gid l n

/-- A uniform instruction completes: where a lane is active the destination holds `r`, extended (R69, R192). -/
def UniResult (s : State) (i : Issue) (t : Ty) (d r : Nat) (res : Result) : Prop :=
  Completes res fun s' => ∃ g, i.Changes s s' g ∧ g = { i.moved with uregs := g.uregs } ∧
    ∀ n, g.ureg i.gid n = if n = d ∧ i.active ≠ 0 then extend 64 t r else i.grp.ureg i.gid n

/-- A predicate-writing instruction completes: each active lane holds `v` of it in PD (R229). -/
def PredResult (s : State) (i : Issue) (pd : Nat) (v : Nat → Bool) (res : Result) : Prop :=
  Completes res fun s' => ∃ g, i.Changes s s' g ∧ g = { i.moved with preds := g.preds } ∧
    ∀ n l, l < 64 → (g.pred i.gid n).getLsbD l =
      if n = pd ∧ i.active.getLsbD l then v l else (i.grp.pred i.gid n).getLsbD l

/-- The instruction completes and changes nothing but the entry's position. -/
def MovesOn (s : State) (i : Issue) (res : Result) : Prop :=
  Completes res fun s' => i.Changes s s' i.moved

/-! ### Positions (R34, R35) -/

/-- The program counter and priority of a lane that an entry holds. -/
def Front.at (f : Front) (l : Nat) : Option (DWord × BitVec 8) :=
  (f.entries.find? fun e => e.mask.getLsbD l).map fun e => (e.pc, e.prio)

/-- The issuing entry. -/
def Issue.stands (i : Issue) (e : Entry) : Prop := i.grp.entryOf i.slot.mask = some e

/-- Where a lane of the issuing entry goes when nothing sends it elsewhere: the next instruction, with the entry's
priority (R35). -/
def Issue.stay (i : Issue) (e : Entry) : Option (DWord × BitVec 8) := some (e.following i.slot, e.prio)

/-- Each lane of the issuing entry stands where `pos` says, or in no entry; lanes of other entries stand where they
stood. -/
def Issue.Places (i : Issue) (pos : Nat → Option (DWord × BitVec 8)) (f : Front) : Prop :=
  ∀ l, l < 64 → f.at l = if i.slot.mask.getLsbD l then pos l else i.grp.front.at l

/-- The issuing group but for its entries: only the windows that its lanes have open count the instruction (R202). -/
def Issue.placed (i : Issue) (es : List Entry) : Group :=
  { i.grp.follow i.slot.mask with front := { i.grp.front with entries := es } }

/-- The instruction completes by moving lanes, and changes nothing else. -/
def Jumps (s : State) (i : Issue) (pos : Nat → Option (DWord × BitVec 8)) (res : Result) : Prop :=
  Completes res fun s' => ∃ g, i.Changes s s' g ∧ g = i.placed g.front.entries ∧ i.Places pos g.front

/-! ### Traps (R47) -/

/-- The issuing entry traps with a cause, for lanes, with an address: what that does is one operation's (R47 to R49). -/
def Traps (s : State) (i : Issue) (c : Cause) (m : LaneMask) (addr : DWord) (res : Result) : Prop :=
  res = .next (s.trap i c m addr)

/-- A check of step 6 fails in some active lanes: they are named, with the address of the lowest (R230). -/
def TrapsWhere (s : State) (i : Issue) (c : Cause) (bad : Nat → Bool) (addr : Nat → DWord) (res : Result) : Prop :=
  ∀ l r, (lanes i.active).filter bad = l :: r → Traps s i c (maskOf (l :: r)) (addr l) res

/-! ### The forms that every step keeps -/

/-- Every memory of the machine is in canonical form: what the banks and the host hold, the flash, the scratchpads, the
floor scratchpads and those that a save keeps. -/
structure State.Canonical (s : State) : Prop where
  mem : Memory.wf s.mem
  flash : Memory.wf s.flashMem
  scratch : ∀ p ∈ s.teams, Memory.wf p.2.scratch
  floor : ∀ p ∈ s.slices, Memory.wf p.2.floor
  saved : ∀ p ∈ s.teams, ∀ k ∈ p.2.saved, ∀ m ∈ k.floor, Memory.wf m

end Sys2Proof.Machine
end

