-- ==== Sys2Proof/Certificates/Slice0/Obligations.lean ====
section
/-! DEFINITION. The statements for the provers. Tables say, for each instruction of one shape, what the manual has it
write; a statement ranges over its table, so that it holds for every instruction named there, in every form. -/

namespace Sys2Proof.Claims

open Sys2Proof.Machine

/-! ### Tables of results -/

/-- What an instruction that writes one register takes: its guard, the type it writes, its destination, and the value. -/
structure Rule where
  guard : Guard
  ty : Ty
  dest : Nat
  value : Issue → Nat → Nat

/-- A row for an instruction of format XA that writes its own type. -/
def rowOf (x : XA) (value : Issue → Nat → Nat) : Option Rule := some ⟨x.g, x.t, x.d.n.toNat, value⟩

/-- A row that writes another type. -/
def rowAs (x : XA) (t : Ty) (value : Issue → Nat → Nat) : Option Rule := some ⟨x.g, t, x.d.n.toNat, value⟩

/-- The number whose bit `j`, below `n`, is `f j`. -/
def numberOf (n : Nat) (f : Nat → Bool) : Nat := ((List.range n).map fun j => (f j).toNat * 2 ^ j).sum

/-- With `.sat` the nearest value of the type, otherwise the low bits (R70, R238). -/
def satOr (x : XA) (v : Int) : Nat := x.t.wrap (if x.q.getLsbD 0 then x.t.clamp v else v)

/-- The quotient of R70: toward zero, all ones for a zero divisor. -/
def quotientOf (t : Ty) (a b : Int) : Nat := if b = 0 then 2 ^ t.bits - 1 else t.wrap (a.tdiv b)

/-- The remainder of R70: the dividend for a zero divisor. -/
def remainderOf (t : Ty) (a b : Int) : Nat := if b = 0 then t.wrap a else t.wrap (a - b * a.tdiv b)

/-- Integer arithmetic on the lanes (R238, R240). -/
def arithmetic : Instr → Option Rule
  | .add x => rowOf x fun i l => satOr x (i.int x.t l x.a + i.int x.t l x.b)
  | .sub x => rowOf x fun i l => satOr x (i.int x.t l x.a - i.int x.t l x.b)
  | .mul x => rowOf x fun i l => x.t.wrap (i.int x.t l x.a * i.int x.t l x.b)
  | .mulhi x => rowOf x fun i l => x.t.wrap (i.int x.t l x.a * i.int x.t l x.b / 2 ^ x.t.bits)
  | .mad x => rowOf x fun i l => satOr x (i.int x.t l x.a * i.int x.t l x.b + i.int x.t l x.c)
  | .madw x => rowAs x .n64 fun i l =>
      ((i.int x.t l x.a * i.int x.t l x.b + i.int (if x.t.signed then .s64 else .n64) l x.c) % 2 ^ 64).toNat
  | .div x => rowOf x fun i l => quotientOf x.t (i.int x.t l x.a) (i.int x.t l x.b)
  | .rem x => rowOf x fun i l => remainderOf x.t (i.int x.t l x.a) (i.int x.t l x.b)
  | .min x => rowOf x fun i l => x.t.wrap (Min.min (i.int x.t l x.a) (i.int x.t l x.b))
  | .max x => rowOf x fun i l => x.t.wrap (Max.max (i.int x.t l x.a) (i.int x.t l x.b))
  | .abs x => rowOf x fun i l => x.t.wrap |i.int x.t l x.a|
  | .neg x => rowOf x fun i l => x.t.wrap (0 - i.int x.t l x.a)
  | .clamp x => rowOf x fun i l =>
      x.t.wrap (Min.min (Max.max (i.int x.t l x.a) (i.int x.t l x.b)) (i.int x.t l x.c))
  | .sad x => rowOf x fun i l => x.t.wrap (|i.int x.t l x.a - i.int x.t l x.b| + i.int x.t l x.c)
  | .lea x => rowAs x .n64 fun i l =>
      ((i.int .n64 l x.a + i.int (if x.q.getLsbD 3 then .n32 else .s32) l x.b * 2 ^ (x.q.toNat % 8)) % 2 ^ 64).toNat
  | _ => none

/-- Bit `k` of an operand that goes on above its type: copies of the sign bit, or zeros (R242). -/
def extendedBit (t : Ty) (a k : Nat) : Bool := if k < t.bits then a.testBit k else t.signed && a.testBit (t.bits - 1)

/-- Bit `j` of what `bfx` gives, by its descriptor (R242). -/
def fieldBit (t : Ty) (a desc j : Nat) : Bool :=
  let pos := desc % 256
  let len := desc / 256 % 256
  if len = 0 then false
  else if j < len then extendedBit t a (pos + j)
  else t.signed && extendedBit t a (pos + len - 1)

/-- Bit `j` of what `bfi` gives (R242). -/
def insertedBit (a b desc j : Nat) : Bool :=
  let pos := desc % 256
  let len := desc / 256 % 256
  if pos ≤ j ∧ j < pos + len then b.testBit (j - pos) else a.testBit j

/-- A row whose value is given bit by bit. -/
def rowBits (x : XA) (bit : Issue → Nat → Nat → Bool) : Option Rule :=
  rowOf x fun i l => numberOf x.t.bits (bit i l)

/-- Logic, shifts and bit fields on the lanes, bit by bit; counts by the bits they count (R241, R242). -/
def bitwise : Instr → Option Rule
  | .and x => rowBits x fun i l j => (i.raw x.t l x.a).testBit j && (i.raw x.t l x.b).testBit j
  | .or x => rowBits x fun i l j => (i.raw x.t l x.a).testBit j || (i.raw x.t l x.b).testBit j
  | .xor x => rowBits x fun i l j => (i.raw x.t l x.a).testBit j != (i.raw x.t l x.b).testBit j
  | .not x => rowBits x fun i l j => !(i.raw x.t l x.a).testBit j
  | .andn x => rowBits x fun i l j => (i.raw x.t l x.a).testBit j && !(i.raw x.t l x.b).testBit j
  | .shl x => rowBits x fun i l j =>
      decide (i.raw .n32 l x.b ≤ j) && (i.raw x.t l x.a).testBit (j - i.raw .n32 l x.b)
  | .shr x => rowBits x fun i l j => extendedBit x.t (i.raw x.t l x.a) (j + i.raw .n32 l x.b)
  | .rotl x => rowBits x fun i l j =>
      (i.raw x.t l x.a).testBit ((j + x.t.bits - i.raw .n32 l x.b % x.t.bits) % x.t.bits)
  | .popc x => rowAs x .n32 fun i l => (List.range x.t.bits).countP fun j => (i.raw x.t l x.a).testBit j
  | .clz x => rowAs x .n32 fun i l =>
      ((List.range x.t.bits).takeWhile fun j => !(i.raw x.t l x.a).testBit (x.t.bits - 1 - j)).length
  | .ctz x => rowAs x .n32 fun i l => ((List.range x.t.bits).takeWhile fun j => !(i.raw x.t l x.a).testBit j).length
  | .bfx x => rowBits x fun i l j => fieldBit x.t (i.raw x.t l x.a) (i.raw .b32 l x.b) j
  | .bfi x => rowBits x fun i l j => insertedBit (i.raw x.t l x.a) (i.raw x.t l x.b) (i.raw .b32 l x.c) j
  | .brev x => rowBits x fun i l j => (i.raw x.t l x.a).testBit (x.t.bits - 1 - j)
  | _ => none

/-- The predicate that Q[3:0] names, true everywhere for 15, inverted by Q[4], in a lane (R236, R241). -/
def chosen (i : Issue) (q : BitVec 8) (l : Nat) : Bool :=
  (decide (q.toNat % 16 = 15) || (i.grp.pred i.gid (q.toNat % 16)).getLsbD l) != q.getLsbD 4

/-- Selection, moves, and a predicate or a status register read into the lanes (R236, R241, R243, R329). -/
def moves : Instr → Option Rule
  | .sel x => rowOf x fun i l => if chosen i x.q l then i.raw x.t l x.a else i.raw x.t l x.b
  | .mov g wide d a => some ⟨g, if wide then .n64 else .b32, d.toNat, fun i l =>
      if wide then (i.grp.vreg i.gid l a.toNat).toNat + 2 ^ 32 * (i.grp.vreg i.gid l (a.toNat + 1)).toNat
      else (i.grp.vreg i.gid l a.toNat).toNat⟩
  | .movLiteral g wide d lit => some ⟨g, if wide then .n64 else .b32, d.toNat, fun _ _ => lit.toNat⟩
  | .pget x => if x.d.uni then none else rowAs x .b32 fun i l => if chosen i x.q l then 1 else 0
  | _ => none

/-- A binary operation on the exact values of two encodings, rounded once to the type (R76). -/
def rounded2 (x : XA) (f : Val → Val → Val) : Option Rule :=
  rowOf x fun i l => x.t.flt.rn (f (x.t.flt.value (i.raw x.t l x.a)) (x.t.flt.value (i.raw x.t l x.b)))

/-- An operation that gives a value and whether it is cut off, rounded once (R245). -/
def roundedCut (x : XA) (f : Val → Val × Bool) : Option Rule :=
  rowOf x fun i l =>
    x.t.flt.rn (f (x.t.flt.value (i.raw x.t l x.a))).1 (f (x.t.flt.value (i.raw x.t l x.a))).2

/-- Which of two encodings a minimum takes: a NaN yields, −0 lies below +0 (R76). -/
def lesser (f : Flt) (a b : Nat) : Nat :=
  if f.value a = .nan then (if f.value b = .nan then f.nan else b)
  else if f.value b = .nan then a
  else if (f.value a).lt (f.value b) ∨ (¬ (f.value b).lt (f.value a) ∧ (f.value a).isNeg) then a else b

/-- Which of two encodings a maximum takes (R76). -/
def greater (f : Flt) (a b : Nat) : Nat :=
  if f.value a = .nan then (if f.value b = .nan then f.nan else b)
  else if f.value b = .nan then a
  else if (f.value b).lt (f.value a) ∨ (¬ (f.value a).lt (f.value b) ∧ ¬ (f.value a).isNeg) then a else b

/-- An encoding with another sign bit; NaN gives the default NaN (R74, R246). -/
def signed (f : Flt) (a : Nat) (neg : Bool) : Nat :=
  if f.value a = .nan then f.nan else a % 2 ^ (f.e + f.m) + (if neg then 2 ^ (f.e + f.m) else 0)

/-- The sign bit of an encoding. -/
def signOf (f : Flt) (a : Nat) : Bool := a.testBit (f.e + f.m)

/-- Floating arithmetic on the lanes (R245, R246). -/
def floating : Instr → Option Rule
  | .fadd x => rounded2 x Val.add
  | .fsub x => rounded2 x fun a b => a.add b.neg
  | .fmul x => rounded2 x Val.mul
  | .fma x => rowOf x fun i l =>
      x.t.flt.rn (((x.t.flt.value (i.raw x.t l x.a)).mul (x.t.flt.value (i.raw x.t l x.b))).add
        (x.t.flt.value (i.raw x.t l x.c)))
  | .fmin x => rowOf x fun i l => lesser x.t.flt (i.raw x.t l x.a) (i.raw x.t l x.b)
  | .fmax x => rowOf x fun i l => greater x.t.flt (i.raw x.t l x.a) (i.raw x.t l x.b)
  | .fabs x => rowOf x fun i l => signed x.t.flt (i.raw x.t l x.a) false
  | .fneg x => rowOf x fun i l => signed x.t.flt (i.raw x.t l x.a) (!signOf x.t.flt (i.raw x.t l x.a))
  | .fdiv x => rowOf x fun i l =>
      let q := (x.t.flt.value (i.raw x.t l x.a)).div (x.t.flt.value (i.raw x.t l x.b))
      x.t.flt.rn q.1 q.2
  | .fsqrt x => roundedCut x Val.sqrt
  | .frcp x => roundedCut x fun a => (Val.fin false 1 0).div a
  | .frsq x => roundedCut x Val.rsqrt
  | .frnd x => rowOf x fun i l => x.t.flt.round x.sub.toNat (i.raw x.t l x.a)
  | .fsgn x => rowOf x fun i l =>
      let sa := signOf x.t.flt (i.raw x.t l x.a)
      let sb := signOf x.t.flt (i.raw x.t l x.b)
      signed x.t.flt (i.raw x.t l x.a) (if x.sub = 0 then sb else if x.sub = 1 then !sb else sa != sb)
  | _ => none

/-- A row for a function of one FP32 register. -/
def row32 (x : XA) (f : Word → Word) : Option Rule :=
  rowAs x .f32 fun i l => (f (BitVec.ofNat 32 (i.raw .f32 l x.a))).toNat

/-- The value of an encoding of any type. -/
def valueIn (t : Ty) (r : Nat) : Val := if t.floating then t.flt.value r else Val.ofInt (t.toInt r) 0

/-- A conversion between types (R78 to R80, R249). -/
def converted (t src : Ty) (rz toInf : Bool) (r : Nat) : Nat :=
  if t = src then (if t.floating ∧ t.flt.value r = .nan then t.flt.nan else r % 2 ^ t.bits)
  else convertVal t rz toInf (valueIn src r)

/-- Special functions and conversions on the lanes (R247, R249, R250). -/
def converting : Instr → Option Rule
  | .fexp2 x => row32 x fexp2
  | .flog2 x => row32 x flog2
  | .fsin x => row32 x fsin
  | .fcos x => row32 x fcos
  | .ftanh x => row32 x ftanh
  | .fsig x => row32 x fsig
  | .fsilu x => row32 x fsilu
  | .fgelu x => row32 x fgelu
  | .cvt x => rowOf x fun i l => converted x.t x.fromTy (x.q.getLsbD 4) (x.q.getLsbD 5) (i.raw x.fromTy l x.a)
  | .cvtsc x => rowOf x fun i l =>
      convertVal x.t false (x.q.getLsbD 5) (Flt.f32.value (Flt.f32.div (i.raw .f32 l x.a) (i.raw .f32 l x.b)))
  | _ => none

/-- Byte `k` of a word. -/
def byteOf (a k : Nat) : Nat := a / 256 ^ k % 256

/-- A row of four bytes. -/
def rowBytes (x : XA) (f : Issue → Nat → Nat → Nat) : Option Rule :=
  rowAs x .b32 fun i l => f i l 0 + 2 ^ 8 * f i l 1 + 2 ^ 16 * f i l 2 + 2 ^ 24 * f i l 3

/-- A row of two halves. -/
def rowHalves (x : XA) (f : Issue → Nat → Nat → Nat) : Option Rule :=
  rowAs x .b32 fun i l => f i l 0 + 2 ^ 16 * f i l 1

/-- Half `k` of a packed operand. -/
def half (i : Issue) (l : Nat) (a : Src) (k : Nat) : Nat := i.raw .b32 l a / 65536 ^ k % 65536

/-- A packed operation on the values of the halves, rounded once in each (R253). -/
def packed2 (x : XA) (f : Val → Val → Val) : Option Rule :=
  rowHalves x fun i l k => x.t.flt.rn (f (x.t.flt.value (half i l x.a k)) (x.t.flt.value (half i l x.b k)))

/-- The exact product of element `k` of two operands of packed elements (R252). -/
def term (fa fb : Flt) (w a b k : Nat) : Val :=
  (fa.value (a / 2 ^ (w * k) % 2 ^ w)).mul (fb.value (b / 2 ^ (w * k) % 2 ^ w))

/-- Packing, dot products and packed halves on the lanes (R251 to R253). -/
def packing : Instr → Option Rule
  | .pack x =>
    if x.t.bits = 16 then rowHalves x fun i l k => i.raw x.t l (if k = 0 then x.a else x.b)
    else rowBytes x fun i l k =>
      if k / 2 = x.q.toNat % 2 then i.raw x.t l (if k % 2 = 0 then x.a else x.b)
      else byteOf (i.grp.vreg i.gid l x.d.n.toNat).toNat k
  | .unpack x => rowOf x fun i l => i.raw .b32 l x.a / (2 ^ x.t.bits) ^ (x.q.toNat % 4) % 2 ^ x.t.bits
  | .bperm x => rowBytes x fun i l k =>
      let c := i.raw .b32 l x.c / 16 ^ k % 16
      if c < 4 then byteOf (i.raw .b32 l x.a) c else if c < 8 then byteOf (i.raw .b32 l x.b) (c - 4) else 0
  | .tern x => rowAs x .b32 fun i l => numberOf 32 fun j =>
      x.q.toNat.testBit (4 * ((i.raw .b32 l x.a).testBit j).toNat + 2 * ((i.raw .b32 l x.b).testBit j).toNat +
        ((i.raw .b32 l x.c).testBit j).toNat)
  | .fdot2 x => rowAs x .f32 fun i l =>
      let p := term x.t.flt x.t.flt 16 (i.raw .b32 l x.a) (i.raw .b32 l x.b)
      Flt.f32.rn (exactSum [Flt.f32.value (i.raw .f32 l x.c), p 0, p 1])
  | .fdot4 x => rowAs x .f32 fun i l =>
      let p := term x.t.flt x.fromTy.flt 8 (i.raw .b32 l x.a) (i.raw .b32 l x.b)
      Flt.f32.rn (exactSum [Flt.f32.value (i.raw .f32 l x.c), p 0, p 1, p 2, p 3])
  | .hadd x => packed2 x Val.add
  | .hsub x => packed2 x fun a b => a.add b.neg
  | .hmul x => packed2 x Val.mul
  | .hfma x => rowHalves x fun i l k =>
      x.t.flt.rn (((x.t.flt.value (half i l x.a k)).mul (x.t.flt.value (half i l x.b k))).add
        (x.t.flt.value (half i l x.c k)))
  | .hmin x => rowHalves x fun i l k => lesser x.t.flt (half i l x.a k) (half i l x.b k)
  | .hmax x => rowHalves x fun i l k => greater x.t.flt (half i l x.a k) (half i l x.b k)
  | .habs x => rowHalves x fun i l k => signed x.t.flt (half i l x.a k) false
  | .hneg x => rowHalves x fun i l k => signed x.t.flt (half i l x.a k) (!signOf x.t.flt (half i l x.a k))
  | .hcmp x => rowHalves x fun i l k =>
      if condFloat x.sub.toNat (x.t.flt.value (half i l x.a k)) (x.t.flt.value (half i l x.b k)) then 0xFFFF else 0
  | .hcvt x => rowHalves x fun i l k =>
      x.t.flt.rn (Flt.f32.value (i.raw .b32 l (if k = 0 then x.a else x.b)))
  | .hexp2 x => rowHalves x fun i l k =>
      x.t.flt.rn (Flt.f32.value (fexp2 (BitVec.ofNat 32 (Flt.f32.rn (x.t.flt.value (half i l x.a k))))).toNat)
  | .hrcp x => rowHalves x fun i l k =>
      let q := (Val.fin false 1 0).div (x.t.flt.value (half i l x.a k))
      x.t.flt.rn q.1 q.2
  | _ => none

/-- The uniform instructions: what they write once for their group (R228, R243, R244, R248). -/
def uniform : Instr → Option Rule
  | .uadd x => arithmetic (.add x)
  | .usub x => arithmetic (.sub x)
  | .umul x => arithmetic (.mul x)
  | .umad x => arithmetic (.mad x)
  | .udiv x => arithmetic (.div x)
  | .urem x => arithmetic (.rem x)
  | .umin x => arithmetic (.min x)
  | .umax x => arithmetic (.max x)
  | .uand x => bitwise (.and x)
  | .uor x => bitwise (.or x)
  | .uxor x => bitwise (.xor x)
  | .ushl x => bitwise (.shl x)
  | .ushr x => bitwise (.shr x)
  | .upopc x => bitwise (.popc x)
  | .uclz x => bitwise (.clz x)
  | .ubfx x => bitwise (.bfx x)
  | .ucmp x => rowAs x .n32 fun i l => if condInt x.sub.toNat (i.int x.t l x.a) (i.int x.t l x.b) then 1 else 0
  | .usel x => rowOf x fun i l => if i.raw x.t l x.c ≠ 0 then i.raw x.t l x.a else i.raw x.t l x.b
  | .umov g d a => some ⟨g, .n64, d.toNat, fun i _ => (i.grp.ureg i.gid a.toNat).toNat⟩
  | .umovLiteral g d lit => some ⟨g, .n64, d.toNat, fun _ _ => lit.toNat⟩
  | .ucvt x => converting (.cvt x)
  | .ufadd x => floating (.fadd x)
  | .ufmul x => floating (.fmul x)
  | .ufma x => floating (.fma x)
  | .ufmin x => floating (.fmin x)
  | .ufmax x => floating (.fmax x)
  | .ufcmp x => rowAs x .n32 fun i l =>
      if condFloat x.sub.toNat (x.t.flt.value (i.raw x.t l x.a)) (x.t.flt.value (i.raw x.t l x.b)) then 1 else 0
  | .ufcvt x => converting (.cvt x)
  | .pget x => if x.d.uni then rowAs x .n64 fun i _ => numberOf 64 fun l => i.active.getLsbD l && chosen i x.q l else none
  | _ => none

/-- What a predicate-writing instruction takes: its guard, PD, and the lanes' new predicates. -/
structure PRule where
  guard : Guard
  dest : Nat
  value : Issue → Nat → Bool

/-- A source of a format-P instruction in a lane (R235). -/
def pIn (i : Issue) (n : BitVec 4) (inv : Bool) (l : Nat) : Bool := (i.grp.pred i.gid n.toNat).getLsbD l != inv

/-- The predicate-writing instructions but for `vote` (R229, R235, R236, R239, R246). -/
def predicates : Instr → Option PRule
  | .pand p => some ⟨p.g, p.pd.toNat, fun i l => pIn i p.pa p.na l && pIn i p.pb p.nb l⟩
  | .por p => some ⟨p.g, p.pd.toNat, fun i l => pIn i p.pa p.na l || pIn i p.pb p.nb l⟩
  | .pxor p => some ⟨p.g, p.pd.toNat, fun i l => pIn i p.pa p.na l != pIn i p.pb p.nb l⟩
  | .pnot p => some ⟨p.g, p.pd.toNat, fun i l => !pIn i p.pa p.na l⟩
  | .pmov p => some ⟨p.g, p.pd.toNat, fun i l => pIn i p.pa p.na l⟩
  | .cmp x => some ⟨x.g, x.pd.toNat, fun i l => condInt x.sub.toNat (i.int x.t l x.a) (i.int x.t l x.b)⟩
  | .fcmp x => some ⟨x.g, x.pd.toNat, fun i l =>
      condFloat x.sub.toNat (x.t.flt.value (i.raw x.t l x.a)) (x.t.flt.value (i.raw x.t l x.b))⟩
  | .fclass x => some ⟨x.g, x.pd.toNat, fun i l =>
      let k := x.t.flt.classOf (i.raw x.t l x.a)
      if k = 8 then x.sub.getLsbD 0 else x.q.getLsbD k⟩
  | .pset x => some ⟨x.g, x.pd.toNat, fun i l => match x.a with
      | .v n => decide ((i.grp.vreg i.gid l n.toNat).toNat ≠ 0)
      | a => (i.raw .s64 0 a).testBit l⟩
  | _ => none

/-! ### Control (R35, R42, R43, R231, R232) -/

/-- The direct target: an offset in words from the instruction, or the literal (R200). -/
def direct (x : XC) (i : Issue) : DWord :=
  match x.target with
  | .rel off => BitVec.ofInt 64 (i.slot.pc.toNat + 4 * off.toInt)
  | .abs a => a

/-- The target that a lane's operand gives (R232). -/
def indirect (x : XC) (i : Issue) (l : Nat) : DWord := BitVec.ofNat 64 (i.raw .n64 l x.a)

/-- The lanes that a branch sends away, with their target (R231, R232). -/
structure BRule where
  ext : XC
  taken : Issue → Nat → Bool
  target : Issue → Nat → DWord

/-- The branches; `brx` goes where its operand says, once that is a word address below 2^48. -/
def branches : Instr → Option BRule
  | .bra x => some ⟨x, fun _ _ => true, fun i _ => direct x i⟩
  | .bnz x => some ⟨x, fun i l => decide (i.raw (if x.sub = 0 then .b32 else .n64) l x.a ≠ 0), fun i _ => direct x i⟩
  | .bz x => some ⟨x, fun i l => decide (i.raw (if x.sub = 0 then .b32 else .n64) l x.a = 0), fun i _ => direct x i⟩
  | .brx x => some ⟨x, fun _ _ => true, indirect x⟩
  | _ => none

/-- A target that an indirect transfer refuses (R232). -/
def badTarget (a : DWord) : Bool := decide (a.toNat % 4 ≠ 0) || decide (2 ^ 48 ≤ a.toNat)

/-- The calls, with their targets (R232). -/
def calls : Instr → Option BRule
  | .call x => some ⟨x, fun _ _ => true, fun i _ => direct x i⟩
  | .callx x => some ⟨x, fun _ _ => true, indirect x⟩
  | _ => none

/-- Whether an instruction takes its target from a register. -/
def takesIndirect : Instr → Bool
  | .brx _ | .callx _ => true
  | _ => false

/-- No lane of the group is parked or waits under a member mask, so that nothing is set free beside the lanes that the
instruction moves. -/
def quiet (g : Group) : Prop := g.front.parked = [] ∧ g.front.waits = []

/-- Of the parked lanes `ps` of a group, one whose condition holds: every lane that its mask names has parked at its address
or is not live (R43). -/
def mayLeave (width : Nat) (live : LaneMask) (ps : List Parked) (p : Parked) : Bool :=
  (List.range width).all fun l =>
    !p.mask.getLsbD l || !live.getLsbD l || ps.any fun q => decide (q.lane = l ∧ q.rejoin = p.rejoin)

/-- The lanes that leave together: one entry for each address, of all of them that are parked there, with the highest
priority that they named (R34, R43). -/
structure LeaveTogether (out : List Parked) (new : List Entry) : Prop where
  each : ∀ p ∈ out, ∃ q ∈ new, q.pc = p.rejoin
  apart : (new.map (·.pc)).Nodup
  fresh : ∀ q ∈ new, q = Entry.make q.prio q.pc q.mask
  lanes : ∀ q ∈ new, ∀ l, q.mask.getLsbD l = true ↔ ∃ p ∈ out, p.rejoin = q.pc ∧ p.lane = l
  named : ∀ q ∈ new, ∃ p ∈ out, p.rejoin = q.pc ∧ p.prio = q.prio
  highest : ∀ q ∈ new, ∀ p ∈ out, p.rejoin = q.pc → p.prio.toNat ≤ q.prio.toNat

/-- What an arrival or the end of lanes leaves of a group's frontier, where `ps` are then its parked lanes, `live` its live
ones, and `kept` the entries there were without those that leave: every parked lane whose condition holds leaves, and the
others stay parked (R43). -/
def Released (width : Nat) (live : LaneMask) (ps : List Parked) (kept : List Entry) (f : Front) : Prop :=
  ∃ new, f.entries = kept ++ new ∧ LeaveTogether (ps.filter (mayLeave width live ps)) new ∧
    f.parked = ps.filter fun p => !mayLeave width live ps p

/-- The lanes of a mask as a predicate on lanes. -/
def lanesOf (m : LaneMask) (l : Nat) : Bool := m.getLsbD l

/-! ### Member masks (R46, R254 to R259) -/

/-- What the manual's tree of combines leaves in a lane: from offset 2^(k-1) down to 1, the lower lane on the left
(R255). -/
def treeAt (op : Nat → Nat → Nat) : Nat → (Nat → Nat) → Nat → Nat
  | 0, v, l => v l
  | k + 1, v, l =>
    treeAt op k (fun j => op (v (if j.testBit k then j - 2 ^ k else j)) (v (if j.testBit k then j else j + 2 ^ k))) l

/-- The identity of an operator (R255). -/
def identityOf (sub : Nat) (t : Ty) : Nat :=
  if sub = 1 then (if t.floating then t.flt.rn (.inf false) else t.wrap t.maxInt)
  else if sub = 2 then (if t.floating then t.flt.rn (.inf true) else t.wrap t.minInt)
  else if sub = 3 then 2 ^ t.bits - 1
  else 0

/-- The operator of `redx` and `scan` (R255). -/
def operatorOf (sub : Nat) (t : Ty) (a b : Nat) : Nat :=
  if sub = 0 then (if t.floating then t.flt.rn ((t.flt.value a).add (t.flt.value b)) else t.wrap (t.toInt a + t.toInt b))
  else if sub = 1 then (if t.floating then lesser t.flt a b else if t.toInt b < t.toInt a then b else a)
  else if sub = 2 then (if t.floating then greater t.flt a b else if t.toInt a < t.toInt b then b else a)
  else if sub = 3 then a &&& b
  else if sub = 4 then a ||| b
  else a ^^^ b

/-- The value that a lane supplies: its own for a contributor, otherwise a stand-in (R254). -/
def supplied (i : Issue) (t : Ty) (a : Src) (other : Nat) (l : Nat) : Nat :=
  if i.active.getLsbD l then i.raw t l a else other

/-- The contributors, ascending, that meet a test. -/
def contributors (i : Issue) (p : Nat → Bool) : List Nat := (lanes i.active).filter p

/-- A floating result that is NaN is the default NaN of its format, also where no operand was combined (R74). -/
def defaultNaN (t : Ty) (r : Nat) : Nat := if t.floating = true ∧ t.flt.value r = .nan then t.flt.nan else r

/-- The left fold over the contributors of a list, or the identity (R256). -/
def folded (i : Issue) (x : XA) : List Nat → Nat
  | [] => identityOf x.sub.toNat x.t
  | l :: r => defaultNaN x.t
      (r.foldl (fun acc j => operatorOf x.sub.toNat x.t acc (i.raw x.t j x.a)) (i.raw x.t l x.a))

/-- The width of a group is a power of two of at most 64 lanes (R28). -/
def widthOk (i : Issue) (w : Nat) : Prop := i.grp.width = 2 ^ w ∧ w ≤ 6

/-- The vector result of a member-mask instruction in a contributor; none where it keeps what it has (R255 to R259). -/
def memberValue (w : Nat) (i : Issue) : Instr → Option (XA × (Nat → Option Nat))
  | .redx x => some (x, fun l => some (defaultNaN x.t
      (treeAt (operatorOf x.sub.toNat x.t) (w - x.q.toNat % 4) (supplied i x.t x.a (identityOf x.sub.toNat x.t)) l)))
  | .scan x => some (x, fun l => some
      (folded i x (contributors i fun j => if x.q.getLsbD 0 then decide (j < l) else decide (j ≤ l))))
  | .perm x => some (x, fun l => some (supplied i x.t x.a 0 (i.raw x.t l x.b % i.grp.width)))
  | .push x => some (x, fun l =>
      (contributors i fun j => i.raw x.t j x.b % i.grp.width = l).getLast?.map fun j => i.raw x.t j x.a)
  | .lrot x => some (x, fun l => some
      (supplied i x.t x.a 0 (((l : Int) - (i.raw x.t 0 x.b % i.grp.width : Nat)) % (i.grp.width : Int)).toNat))
  | .compress x => some (x, fun l => some
      (match (contributors i fun j => chosen i x.q j)[l]? with
       | some j => i.raw x.t j x.a
       | none => 0))
  | _ => none

/-- What a member-mask instruction writes to a uniform register, and which (R237, R257, R259). -/
def memberUni (i : Issue) : Instr → Option (Nat × Ty × Nat)
  | .rdlane x => some (x.d.n.toNat, x.t, supplied i x.t x.a 0 (i.raw x.t 0 x.b % i.grp.width))
  | .compress x => match x.b with
    | .g n => some (n.toNat, .n64, (contributors i fun j => chosen i x.q j).length)
    | _ => none
  | .vote x => if x.sub = 3 then some (x.d.n.toNat, .n64, numberOf 64 fun l => i.active.getLsbD l && chosen i x.q l)
    else none
  | _ => none

/-- What `vote` writes to PD of each contributor (R237). -/
def memberPred (i : Issue) : Instr → Option (Nat × Bool)
  | .vote x =>
    if x.sub = 0 then some (x.pd.toNat, decide (∀ l ∈ lanes i.active, chosen i x.q l = true))
    else if x.sub = 1 then some (x.pd.toNat, decide (∃ l ∈ lanes i.active, chosen i x.q l = true))
    else if x.sub = 2 then
      some (x.pd.toNat, decide (∀ l ∈ lanes i.active, ∀ k ∈ lanes i.active, chosen i x.q l = chosen i x.q k))
    else none
  | _ => none

/-- The member-mask instructions with the source of their mask (R254). -/
def memberMask : Instr → Option (XA × Src)
  | .vote x | .redx x | .scan x | .perm x | .push x | .compress x | .rdlane x | .lrot x => some (x, x.c)
  | _ => none

/-- Every named live lane stands in the issuing entry, every lane whose guard passes is named, some lane is, and nothing
waits that this arrival would complete: the operation executes at once (R46). -/
structure Together (i : Issue) (e : Entry) (m : LaneMask) : Prop where
  stands : i.stands e
  plain : e.repeating = false
  named : i.slot.mask &&& m ≠ 0
  covers : i.active &&& ~~~m = 0
  arrived : m &&& i.grp.live &&& ~~~i.slot.mask = 0
  inside : i.active &&& ~~~i.slot.mask = 0
  fresh : ∀ w ∈ i.grp.front.waits, w.pc ≠ i.slot.pc ∧ w.done i.grp.live = false

/-- What a group-wide operation leaves: registers as given, each lane of the entry past the instruction, all else as it
was (R46, R254). -/
def MemberResult (s : State) (i : Issue) (e : Entry) (c : Instr) (w : Nat) (res : Result) : Prop :=
  Completes res fun s' => ∃ g, i.Changes s s' g ∧
    g = { i.grp.follow i.slot.mask with
      vregs := g.vregs, uregs := g.uregs, preds := g.preds,
      front := { i.grp.front with entries := g.front.entries } } ∧
    i.Places (fun _ => i.stay e) g.front ∧
    (∀ l n, n < 256 → g.vreg i.gid l n =
      match memberValue w i c with
      | some (x, v) =>
        if i.active.getLsbD l then ((v l).bind fun r => resultWord x.t x.d.n.toNat r n).getD (i.grp.vreg i.gid l n)
        else i.grp.vreg i.gid l n
      | none => i.grp.vreg i.gid l n) ∧
    (∀ n, g.ureg i.gid n =
      match memberUni i c with
      | some (d, t, r) => if n = d then extend 64 t r else i.grp.ureg i.gid n
      | none => i.grp.ureg i.gid n) ∧
    ∀ n l, l < 64 → (g.pred i.gid n).getLsbD l =
      match memberPred i c with
      | some (d, b) => if n = d ∧ i.active.getLsbD l then b else (i.grp.pred i.gid n).getLsbD l
      | none => (i.grp.pred i.gid n).getLsbD l

/-! ### Traps and status (R32, R48) -/

/-- The code of a cause, as R48 lists it. -/
def codeOf : Cause → Nat
  | .illegalOp => 1
  | .illegalField => 2
  | .xlateFault => 3
  | .protection => 4
  | .atomicAlign => 5
  | .privateLimit => 6
  | .floorAbsent => 7
  | .flashWrite => 8
  | .memberMask => 9
  | .rejoinStuck => 10
  | .gangMismatch => 11
  | .segtabRange => 12
  | .codebookTag => 13
  | .windowObj => 14
  | .eccFatal => 15
  | .userTrap => 16
  | .doubleFault => 17

/-- Nothing holds the trap of an instruction back and no group waits with its group at a latch: it is taken at once. -/
structure Immediate (s : State) (i : Issue) : Prop where
  group : s.groups.lookup i.gid = some i.grp
  alone : (s.core i.grp.core).matrix.latch = none
  clear : ∀ f ∈ i.grp.flights, f.mask &&& i.slot.mask = 0

/-- What the status registers read as, by code (R32, R329). -/
def statusOf (s : State) (i : Issue) (code lane : Nat) : Option Nat :=
  let e := i.grp.issuing i.slot
  match code with
  | 0 => some lane
  | 1 => some i.grp.width
  | 2 => some i.grp.index
  | 3 => some i.grp.teamIndex
  | 4 => some i.grp.clus.toNat
  | 5 => some i.grp.gridId.toNat
  | 6 => some (coreId i.grp.core)
  | 7 => some i.grp.core
  | 8 => some e.prio.toNat
  | 9 => some i.grp.rep.toNat
  | 10 => some i.grp.tmask.toNat
  | 11 => some i.grp.tcause.toNat
  | 12 => some i.grp.taddr.toNat
  | 13 => some i.grp.plimit.toNat
  | 14 => some (s.waysFor i.grp.core i.grp.team)
  | 15 => some (s.permitOf i.grp.core i.gid)
  | 16 => some (s.cycles * 100 / 850 % 2 ^ 64)
  | 32 => some i.grp.args.toNat
  | 33 => some i.grp.pbase.toNat
  | _ => none

/-- The registers of 64 bits among them: `sreg` writes a pair (R329). -/
def statusWide (code : Nat) : Bool := decide (code = 10 ∨ code = 11 ∨ code = 12 ∨ code = 16 ∨ code = 32 ∨ code = 33)

/-! ### Memory (R91 to R95, R103, R107, R260 to R274) -/

/-- The access of a load or a store: space, bytes, kind, scope with its unit, and alignment for a scope of `.sm` and
outward (R119, R260 to R263). -/
def accessOf (space : Nat) (acc : Access) (x : XM) (i : Issue) : Reach :=
  { space := space, size := 2 ^ x.v.toNat * (x.t.bits / 8), acc := acc, scope := x.s.toNat,
    unit := if 6 ≤ x.s.toNat ∧ x.s.toNat ≤ 8 then i.scalar x.c else 0, aligned := decide (3 ≤ x.s.toNat) }

/-- The access of an atomic: naturally aligned, at `.dev` where no scope is given and the space is `.g` or `.p`
(R269, R270). -/
def atomicAccess (x : XM) (i : Issue) : Reach :=
  { space := x.sl.toNat, size := x.t.bits / 8, acc := .write,
    scope := if x.s = 0 then (if x.sl = 0 ∨ x.sl = 3 then 4 else 0) else x.s.toNat,
    unit := if 6 ≤ x.s.toNat ∧ x.s.toNat ≤ 8 then i.scalar x.c else 0, aligned := true }

/-- Where a lane's access to `.g` or `.p` falls, once its pieces translate to `pa`, with `st` for stable pages. -/
def spotOf (i : Issue) (r : Reach) (x : XM) (pa : DWord → Nat) (st : DWord → Bool) (l : Nat) : Spot :=
  .mem ((i.parts r x l).map fun p => (pa p.1, p.2, st p.1))

/-- What an access to `.g` or `.p` is asked before its addresses are translated: the unit, the address rule or the private
limit, alignment (R95, R114, R119, R126, R263, R270). -/
structure Formed (i : Issue) (r : Reach) (x : XM) : Prop where
  space : r.space = 0 ∨ r.space = 3
  unit : badUnit r.scope r.unit = false
  address : ∀ l, i.active.getLsbD l = true → r.space = 0 → canonical (i.address x l) = true
  limit : ∀ l, i.active.getLsbD l = true → r.space = 3 → i.grp.badWord (i.place x 3 l) r.size = none
  aligned : ∀ l, i.active.getLsbD l = true → r.aligned = true → (i.named r x l).toNat % r.size = 0

/-- An access to `.g` or `.p` passes every check of step 6, through leaves that the core's translation cache holds:
besides those before translation, permissions and cover of the unit (R95, R107, R114, R119, R126, R230, R263, R270). -/
structure Allowed (s : State) (i : Issue) (r : Reach) (x : XM) (pa : DWord → Nat) (st : DWord → Bool) : Prop
    extends Formed i r x where
  leaf : ∀ l, i.active.getLsbD l = true → ∀ p ∈ i.parts r x l, canonical p.1 = true ∧
    ∃ t c, (s.core i.grp.core).leafOf i.grp.space p.1.toNat = some t ∧
      s.classify t.size t.entry p.1.toNat (if r.space = 3 then r.acc.own else r.acc) = .ok (pa p.1) (st p.1) c ∧
      (r.space = 3 → bits 2 2 t.entry = 1)
  covered : ∀ l, i.active.getLsbD l = true → ∀ p ∈ i.parts r x l, 6 ≤ r.scope →
    s.covers r.scope r.unit (pa p.1) = true

/-- Those of some steps, taken one after another, that find at their turn memory that they need and that cannot be read; the
others are performed (R345, R356). -/
def lostOf {α : Type} (bad : State → α → Bool) (act : State → α → State) (s : State) (as : List α) : List α :=
  (as.foldl (fun q a => if bad q.1 a then (q.1, q.2 ++ [a]) else (act q.1 a, q.2)) (s, [])).2

/-- The lanes of an access whose memory cannot be read when their turn comes, in ascending order. -/
def lostLanes (s : State) (i : Issue) (r : Reach) (spot : Nat → Spot) (step : Spot → State → Nat → State) : List Nat :=
  lostOf (fun s l => s.spotBad i.grp.core r.scope r.size (spot l)) (fun s l => step (spot l) s l) s (lanes i.active)

/-- At its turn every active lane's memory can be read. -/
def Readable (s : State) (i : Issue) (r : Reach) (spot : Nat → Spot) (step : Spot → State → Nat → State) : Prop :=
  lostLanes s i r spot step = []

/-- The bytes that a lane stores, element by element (R261). -/
def storedBytes (i : Issue) (x : XM) (l : Nat) : List Byte :=
  (List.range (2 ^ x.v.toNat)).flatMap fun j => leBytes (x.t.bits / 8) (i.raw x.t l (match x.b with
    | .v n => .v (n + BitVec.ofNat 8 (j * (if x.t.bits = 64 then 2 else 1)))
    | b => b))

/-- One lane's load, and one lane's store, at the scope of its access. -/
def loadStep (i : Issue) (r : Reach) (p : Spot) (s : State) (_ : Nat) : State :=
  (s.readSpot i.grp.core r.scope r.size p).1
def storeStep (i : Issue) (x : XM) (r : Reach) (p : Spot) (s : State) (l : Nat) : State :=
  s.writeSpot i.grp.core r.scope p (storedBytes i x l)

/-- The state after the release that a `.rel` form performs first, for a form with active lanes (R119). -/
def released (s : State) (i : Issue) (x : XM) (r : Reach) : State :=
  if x.o = 2 ∧ i.active ≠ 0 then s.releaseAt i.grp.core r.scope r.unit fun _ => true else s

/-- A release at `.sys` is answered: the link is up (R345). -/
def linkAnswers (s : State) (x : XM) (r : Reach) : Prop := x.o = 2 → r.scope = 5 → s.link.up = true

/-- An address that an access translates, with its lane, and how that ends. -/
abbrev Piece := (Nat × DWord) × Xl

/-- The addresses of the active lanes are translated in ascending order of the lanes, each after the one before (R104, R107,
R230). -/
def translated (s : State) (i : Issue) (r : Reach) (x : XM) : State × List Piece :=
  ((lanes i.active).flatMap fun l => (i.parts r x l).map fun p => (l, p.1)).foldl (fun q w =>
    let o := q.1.translate i.grp.core i.grp.space w.2 (if r.space = 3 then r.acc.own else r.acc)
    (o.1, q.2 ++ [(w, o.2)])) (s, [])

/-- The cause that refuses a piece; a table that cannot be read is told apart, since it counts last (R107, R345). -/
def refusedBy (p : Piece) : Option Cause := match p.2 with
  | .fault c => if c = .eccFatal then none else some c
  | _ => none

/-- Every piece of a lane has an address, and one of them lies outside the unit that a memory scope names (R119). -/
def uncovered (s : State) (r : Reach) (ps : List Piece) (l : Nat) : Bool :=
  let mine := ps.filter fun p => p.1.1 = l
  mine.all (fun p => match p.2 with
    | .ok _ _ _ => true
    | _ => false) && mine.any fun p => !s.covers r.scope r.unit p.2.pa

/-- The issuing entry parks on a miss of some lanes: it shares a walk that the host has not answered in the same 64 KiB page,
or a record of its own goes to the host; nothing else changes (R108, R109). -/
def Parks (s : State) (i : Issue) (m : LaneMask) (va : DWord) (acc : Access) (res : Result) : Prop :=
  let same (k : Nat × Nat) : Prop := k.2 / 65536 = va.toNat / 65536
  let parked (t : Nat) (u : State) : State := u.onGroup i.gid fun g => g.onEntry i.slot.mask fun e =>
    { e with hold := .xlate t va (i.blame.getD m) i.slot.port, len := i.slot.words }
  let open' := s.misses i.grp.core i.grp.space
  ((∃ k ∈ open', same k) → ∃ k ∈ open', same k ∧ res = .next (parked k.1 s)) ∧
  ((∀ k ∈ open', ¬ same k) → res = .next (parked s.serial { s with
    serial := s.serial + 1
    outbox := s.outbox ++ [.miss s.serial va i.grp.gridId (coreId i.grp.core) acc.code] }))

/-- An access to `.g` or `.p` that a check refuses: the first check, in the manual's order, that some lane fails decides the
cause; the trap names the lanes that fail it, and the address of the lowest. Where no lane fails a check and some lane
misses, the entry parks. Last come tables that cannot be read, a release at `.sys` while the link is down, and lines that
cannot be read when their lane's turn comes; `step` is what a lane's access does, for the lanes after it (R95, R104, R107,
R108, R114, R119, R230, R263, R269, R270, R345, R356). Of this the manual leaves open, and the model chooses: that the unit is
checked first (log 32), the cause of the lowest failing lane (log 33), that a table which cannot be read counts last (log 31),
and that every such release traps while the link is down (log 47). -/
structure AccessTraps (s : State) (i : Issue) (r : Reach) (x : XM) (step : Spot → State → Nat → State) (res : Result) :
    Prop where
  unit : i.active ≠ 0 → badUnit r.scope r.unit = true → Traps s i .illegalField i.active i.slot.pc res
  limit : badUnit r.scope r.unit = false → r.space = 3 → TrapsWhere s i .privateLimit
    (fun l => (i.grp.badWord (i.offset x l) r.size).isSome) (i.named r x) res
  address : badUnit r.scope r.unit = false → r.space = 0 →
    TrapsWhere s i .xlateFault (fun l => !canonical (i.address x l)) (i.address x) res
  aligned : badUnit r.scope r.unit = false → r.aligned = true →
    (∀ l, i.active.getLsbD l = true → r.space = 0 → canonical (i.address x l) = true) →
    (∀ l, i.active.getLsbD l = true → r.space = 3 → i.grp.badWord (i.offset x l) r.size = none) →
    TrapsWhere s i .atomicAlign (fun l => decide ((i.named r x l).toNat % r.size ≠ 0)) (i.named r x) res
  translation : Formed i r x → let p := translated s i r x
    ∀ w c, (p.2.findSome? fun q => (refusedBy q).map fun c => (q.1, c)) = some (w, c) →
      Traps p.1 i c (maskOf ((p.2.filter fun q => (refusedBy q).isSome).map fun q => q.1.1)) w.2 res
  covered : Formed i r x → let p := translated s i r x
    (∀ q ∈ p.2, refusedBy q = none) → 6 ≤ r.scope →
      TrapsWhere p.1 i .protection (uncovered p.1 r p.2) (i.named r x) res
  parks : Formed i r x → let p := translated s i r x
    (∀ q ∈ p.2, refusedBy q = none) → (6 ≤ r.scope → ∀ l, i.active.getLsbD l = true → uncovered p.1 r p.2 l = false) →
    ∀ w, ((p.2.find? fun q => q.2 = .miss).map fun q => q.1) = some w →
      Parks p.1 i (maskOf ((p.2.filter fun q => q.2 = .miss ∧ q.1.2.toNat / 65536 = w.2.toNat / 65536).map fun q => q.1.1))
        w.2 (if r.space = 3 then r.acc.own else r.acc) res
  table : Formed i r x → let p := translated s i r x
    (∀ q ∈ p.2, refusedBy q = none ∧ q.2 ≠ .miss) →
    (6 ≤ r.scope → ∀ l, i.active.getLsbD l = true → uncovered p.1 r p.2 l = false) →
    ∀ w, ((p.2.find? fun q => q.2 = .fault .eccFatal).map fun q => q.1) = some w → Traps p.1 i .eccFatal
      (maskOf ((p.2.filter fun q => q.2 = .fault .eccFatal).map fun q => q.1.1)) w.2 res
  link : Formed i r x → let p := translated s i r x
    (∀ q ∈ p.2, ∃ pa st bc, q.2 = .ok pa st bc) →
    (6 ≤ r.scope → ∀ l, i.active.getLsbD l = true → uncovered p.1 r p.2 l = false) →
    i.active ≠ 0 → ¬ linkAnswers p.1 x r → Traps p.1 i .eccFatal i.active i.slot.pc res
  unreadable : Formed i r x → let p := translated s i r x
    (∀ q ∈ p.2, ∃ pa st bc, q.2 = .ok pa st bc) →
    (6 ≤ r.scope → ∀ l, i.active.getLsbD l = true → uncovered p.1 r p.2 l = false) → linkAnswers p.1 x r →
    let spot (l : Nat) := spotOf i r x (fun va => ((p.2.find? fun q => q.1 = (l, va)).elim 0 fun q => q.2.pa))
      (fun va => ((p.2.find? fun q => q.1 = (l, va)).elim false fun q => q.2.stable)) l
    TrapsWhere p.1 i .eccFatal (fun l => (lostLanes (released p.1 i x r) i r spot step).contains l) (i.named r x) res

/-- A line behind level 2 cannot be read: it holds an uncorrectable error, or it is the host's and the link is down; and the
same at its home, where a whole copy answers for itself (R345, R356). -/
def behindLost (s : State) (pa : Nat) : Bool :=
  s.badLines.contains (pa / 128) || (decide (0x800000000000 ≤ pa ∧ pa < 0x1000000000000) && !s.link.up)
def homeLost (s : State) (pa : Nat) : Bool :=
  match findLine (s.slice (s.home pa)).supers pa with
  | some l => s.flaws.contains (.slice (pa / 128)) || (!l.full && behindLost s pa)
  | none => behindLost s pa

/-- A piece of an access lies in a line that cannot be read, at the scope's point (R119, R345, R356). -/
def pieceLost (s : State) (core scope : Nat) (p : Nat × Nat × Bool) : Bool :=
  if scope < 3 then
    if (findLine (s.core core).l1 p.1).any fun l => l.holds (p.1 % 128) p.2.1 then s.flaws.contains (.l1 core (p.1 / 128))
    else if ((findLine (s.core core).column p.1).bind fun l => l.seen (s.core core).stamp).any fun l => l.full then
      s.flaws.contains (.column core (p.1 / 128))
    else homeLost s p.1
  else if 6 ≤ scope ∨ (scope = 5 ∧ 0x800000000000 ≤ p.1 ∧ p.1 < 0x1000000000000) then behindLost s p.1
  else homeLost s p.1

/-- What register `n` receives when a load of `count` elements writes the bytes `bs` from `d` on (R261). -/
def loadedWord (t : Ty) (d count : Nat) (bs : List Byte) (n : Nat) : Option Word :=
  (List.range count).findSome? fun j =>
    resultWord t (d + j * (if t.bits = 64 then 2 else 1)) (leNat ((bs.drop (j * (t.bits / 8))).take (t.bits / 8))) n

/-- A load completes from a state `s1` of the memory system: each active lane's registers hold the bytes that `data`
gives it; every other register, and all but the entry's position, is as in `s1`. -/
def Loaded (s1 : State) (i : Issue) (x : XM) (data : Nat → Option (List Byte)) (s' : State) : Prop :=
  ∃ g, i.Changes s1 s' g ∧ g = { i.moved with vregs := g.vregs } ∧ ∀ l n, n < 256 → g.vreg i.gid l n =
    if i.active.getLsbD l then
      ((data l).bind fun bs => loadedWord x.t x.d.n.toNat (2 ^ x.v.toNat) bs n).getD (i.grp.vreg i.gid l n)
    else i.grp.vreg i.gid l n

/-- The state after the acquire that an `.acq` form performs last (R119). -/
def acquired (s : State) (i : Issue) (x : XM) (r : Reach) : State :=
  if x.o = 1 ∧ i.active ≠ 0 then s.acquireAt i.grp.core r.scope r.unit none else s

/-- The loads of `.g` and `.p` by lanes. -/
def laneLoads : Instr → Option (Nat × XM)
  | .ldG x => some (0, x)
  | .ldP x => some (3, x)
  | _ => none

/-- The stores to `.g` and `.p` by lanes. -/
def laneStores : Instr → Option (Nat × XM)
  | .stG x => some (0, x)
  | .stP x => some (3, x)
  | _ => none

/-- The stores of the active lanes, in ascending order, at a scope (R264). -/
def storeAll (s : State) (i : Issue) (x : XM) (r : Reach) (spot : Nat → Spot) : State :=
  (lanes i.active).foldl (fun s l => s.writeSpot i.grp.core r.scope (spot l) (storedBytes i x l)) s

/-- Of a core, only L1, the column cache with its stamp, and the translation cache have moved. -/
def CachesOf (c d : Core) : Prop := d = { c with l1 := d.l1, column := d.column, stamp := d.stamp, tlb := d.tlb }

/-- The same waits are registered at the home atomic units; what each has compared may have moved (R338). -/
def SameWatches (s t : State) : Prop :=
  (t.watches.map fun w => (w.ticket, w.pa, w.bound)) = s.watches.map fun w => (w.ticket, w.pa, w.bound)

/-- Only the memory system has moved: of the cores their caches, of the slices their lines, the bytes behind them, the
staging region, the choices it made, and what the home atomic units have compared. -/
def MemorySystem (s t : State) : Prop :=
  t = { s with cores := t.cores, slices := t.slices, mem := t.mem, staging := t.staging, draws := t.draws,
               watches := t.watches } ∧
  (∀ n, CachesOf (s.core n) (t.core n)) ∧
  (∀ n, t.slice n = { s.slice n with supers := (t.slice n).supers }) ∧ SameWatches s t

/-- The byte of a physical address that a core's L1 holds valid. -/
def cachedByte (s : State) (core a : Nat) : Option Byte :=
  (findLine (s.core core).l1 a).bind fun l => if l.full then l.data[a % 128]? else none

/-- Every line of an access lies whole in the core's L1. -/
def Hits (s : State) (core : Nat) (spot : Spot) : Prop :=
  match spot with
  | .mem parts => ∀ p ∈ parts, 0 < p.2.1 ∧ p.1 % 128 + p.2.1 ≤ 128 ∧
      ∃ l, findLine (s.core core).l1 p.1 = some l ∧ l.full = true ∧ l.data.length = 128
  | _ => False

/-- The bytes that the pieces of a spot hold in a core's L1. -/
def hitBytes (s : State) (core : Nat) (spot : Spot) : List Byte :=
  match spot with
  | .mem parts => parts.flatMap fun p => (List.range p.2.1).map fun k => (cachedByte s core (p.1 + k)).getD 0
  | _ => []

/-- The byte that a store places at a physical address: piece by piece, in the order of its bytes. -/
def placedAt (parts : List (Nat × Nat × Bool)) (bs : List Byte) (a : Nat) : Option Byte :=
  match parts with
  | [] => none
  | p :: r => (placedAt r (bs.drop p.2.1) a).or (if p.1 ≤ a ∧ a < p.1 + p.2.1 then bs[a - p.1]? else none)

/-- The same for a spot. -/
def placedIn (spot : Spot) (bs : List Byte) (a : Nat) : Option Byte :=
  match spot with
  | .mem parts => placedAt parts bs a
  | _ => none

/-- Apart from its L1, a core is as before; every other core and every other part of the machine is, but the groups. -/
structure OnlyL1 (s t : State) (core : Nat) : Prop where
  rest : t = { s with groups := t.groups, cores := t.cores }
  this : t.core core = { s.core core with l1 := (t.core core).l1 }
  others : ∀ k, k ≠ core → t.core k = s.core k

/-! ### Scratchpad and floor (R91 to R93, R100, R103) -/

/-- A space of its own: which team's scratchpad, or the floor; the offset; the size of what is there. -/
inductive OwnPlace where
  | team (t off size : Nat)
  | floor (off : Nat)

/-- Where an offset of `.s`, `.c` or `.f` lies, if it is in bounds for `n` bytes (R92, R93, R103). -/
def placeOf (s : State) (i : Issue) (space : Nat) (a : Int) (n : Nat) : Option OwnPlace :=
  if a < 0 then none
  else if space = 1 then
    (s.teams.lookup i.grp.team).bind fun t =>
      if a.toNat + n ≤ t.size then some (.team i.grp.team a.toNat t.size) else none
  else if space = 2 then
    if 16 * 524288 ≤ a then none
    else
      (((s.clusters.lookup i.grp.cluster).bind fun k => k.teams[a.toNat / 524288]?).bind fun j =>
        (s.teams.lookup j).bind fun t =>
          if a.toNat % 524288 + n ≤ t.size then some (.team j (a.toNat % 524288) t.size) else none)
  else if a.toNat + n ≤ 8 * 2 ^ 20 then some (.floor a.toNat) else none

/-- The memory of a place with the offset. -/
def placeMemory (s : State) (i : Issue) : OwnPlace → Memory × Nat
  | .team t off _ => (((s.teams.lookup t).map fun t => t.scratch).getD [], off)
  | .floor off => ((s.slice i.grp.core).floor, off)

/-- The loads and stores of these spaces. -/
def ownLoads : Instr → Option (Nat × XM)
  | .ldS x => some (1, x)
  | .ldC x => some (2, x)
  | .ldF x => some (4, x)
  | _ => none

def ownStores : Instr → Option (Nat × XM)
  | .stS x => some (1, x)
  | .stC x => some (2, x)
  | .stF x => some (4, x)
  | _ => none

/-- A place as the spot that an access falls on. -/
def OwnPlace.spot : OwnPlace → Spot
  | .team t off _ => .scratch t off
  | .floor off => .floor off

/-- An access to `.s`, `.c` or `.f` passes its checks: the team has floor scratchpad for `.f`, every lane is in bounds,
aligned where a scope asks for it, and the scope is no memory scope. -/
structure OwnAllowed (s : State) (i : Issue) (r : Reach) (x : XM) (at' : Nat → OwnPlace) : Prop where
  scope : r.scope < 6
  floor : r.space = 4 → s.waysFor i.grp.core i.grp.team ≠ 16
  bounds : ∀ l, i.active.getLsbD l = true → placeOf s i r.space (i.offset x l) r.size = some (at' l)
  aligned : ∀ l, i.active.getLsbD l = true → r.aligned = true → (i.offset x l) % (r.size : Int) = 0

/-- No word of such an access holds an uncorrectable error (R356). -/
def OwnReadable (s : State) (i : Issue) (r : Reach) (at' : Nat → OwnPlace) : Prop :=
  ∀ l, i.active.getLsbD l = true → s.spotBad i.grp.core r.scope r.size (at' l).spot = false

/-- An access to `.s`, `.c` or `.f` that a check refuses: a unit that is too large; an absent floor scratchpad; an offset out
of bounds; a scoped access or an atomic that is misaligned; a memory scope; then a release at `.sys` while the link is down,
and words with an uncorrectable error (R92, R93, R103, R114, R119, R126, R230, R263, R269, R270, R345, R356). The model chooses
that the unit is checked first (log 32) and that every such release traps (log 47). -/
structure OwnTraps (s : State) (i : Issue) (r : Reach) (x : XM) (res : Result) : Prop where
  unit : i.active ≠ 0 → badUnit r.scope r.unit = true → Traps s i .illegalField i.active i.slot.pc res
  floor : badUnit r.scope r.unit = false → r.space = 4 → s.waysFor i.grp.core i.grp.team = 16 →
    TrapsWhere s i .floorAbsent (fun _ => true) (fun l => BitVec.ofInt 64 (i.offset x l)) res
  bounds : badUnit r.scope r.unit = false → (r.space = 4 → s.waysFor i.grp.core i.grp.team ≠ 16) →
    TrapsWhere s i .protection (fun l => (placeOf s i r.space (i.offset x l) r.size).isNone)
      (fun l => BitVec.ofInt 64 (i.offset x l)) res
  aligned : badUnit r.scope r.unit = false → (r.space = 4 → s.waysFor i.grp.core i.grp.team ≠ 16) → r.aligned = true →
    (∀ l, i.active.getLsbD l = true → (placeOf s i r.space (i.offset x l) r.size).isSome = true) →
    TrapsWhere s i .atomicAlign (fun l => decide ((i.offset x l) % (r.size : Int) ≠ 0))
      (fun l => BitVec.ofInt 64 (i.offset x l)) res
  scope : badUnit r.scope r.unit = false → (r.space = 4 → s.waysFor i.grp.core i.grp.team ≠ 16) → 6 ≤ r.scope →
    (∀ l, i.active.getLsbD l = true → (placeOf s i r.space (i.offset x l) r.size).isSome = true) →
    (∀ l, i.active.getLsbD l = true → r.aligned = true → (i.offset x l) % (r.size : Int) = 0) →
    TrapsWhere s i .protection (fun _ => true) (fun l => BitVec.ofInt 64 (i.offset x l)) res
  link : ∀ at', OwnAllowed s i r x at' → badUnit r.scope r.unit = false → i.active ≠ 0 → ¬ linkAnswers s x r →
    Traps s i .eccFatal i.active i.slot.pc res
  unreadable : ∀ at', OwnAllowed s i r x at' → badUnit r.scope r.unit = false → linkAnswers s x r →
    TrapsWhere s i .eccFatal (fun l => s.spotBad i.grp.core r.scope r.size (at' l).spot)
      (fun l => BitVec.ofInt 64 (i.offset x l)) res

/-- A byte of a team's scratchpad. -/
def scratchByte (s : State) (t k : Nat) : Byte := ((s.teams.lookup t).map fun m => m.scratch.read k).getD 0

/-- The byte that lane `l` stores at byte `k` of team `t`'s scratchpad, or of the floor for `none`. -/
def ownStored (i : Issue) (x : XM) (at' : Nat → OwnPlace) (t : Option Nat) (k l : Nat) : Option Byte :=
  match at' l, t with
  | .team j off _, some t => if j = t ∧ off ≤ k then (storedBytes i x l)[k - off]? else none
  | .floor off, none => if off ≤ k then (storedBytes i x l)[k - off]? else none
  | _, _ => none

/-- What the highest lane that stores to a byte leaves there (R264). -/
def lastStored (i : Issue) (f : Nat → Option Byte) : Option Byte := ((lanes i.active).filterMap f).getLast?

/-- An access passes its checks in whichever space it names, and falls on these spots. -/
def Reaches (s : State) (i : Issue) (r : Reach) (x : XM) (spot : Nat → Spot) : Prop :=
  (∃ pa st, Allowed s i r x pa st ∧ spot = spotOf i r x pa st) ∨
    ∃ at', r.space ≠ 0 ∧ r.space ≠ 3 ∧ OwnAllowed s i r x at' ∧ spot = fun l => (at' l).spot

/-- A range of addresses meets a page: it is not empty, and reaches into the page, also past the last address, where it goes on
at 0 (R332, R333). -/
def meetsRange (i : Issue) (base len : Src) (lo size : Nat) : Prop :=
  let a := (i.uni base).toNat
  let n := (i.uni len).toNat
  n ≠ 0 ∧ ((lo < a + n ∧ a < lo + size) ∨ lo + 2 ^ 64 < a + n)

/-- Whether `xlinv` names a translation (R332). -/
def namesPage (i : Issue) (x : XM) (t : Tlb) : Prop :=
  x.sub = 1 ∨
  (x.sub ≠ 1 ∧ x.ranged = true ∧ meetsRange i x.a x.b t.base (2 ^ t.size)) ∨
  (x.sub ≠ 1 ∧ x.ranged = false ∧ ∃ l, i.active.getLsbD l = true ∧ t.base ≤ (i.address x l).toNat ∧
    (i.address x l).toNat < t.base + 2 ^ t.size)

/-- Whether `icinv` names an instruction line (R333). -/
def namesLine (i : Issue) (x : XS) (l : ILine) : Prop :=
  x.i32.getLsbD 0 = true ∨
  (l.space = i.grp.space ∧ meetsRange i x.a x.b (l.line * 128) 128)

/-- The new value that an atomic stores (R268). -/
def atomicNew (c : Instr) (i : Issue) (l m : Nat) : Option Nat :=
  match c with
  | .atom x | .ared x | .uatom x =>
    let b := i.raw x.t l x.b
    some (if x.sub = 0 then (if x.t.floating then x.t.flt.rn ((x.t.flt.value m).add (x.t.flt.value b))
        else x.t.wrap (x.t.toInt m + x.t.toInt b))
      else if x.sub = 1 then (if x.t.floating then lesser x.t.flt m b else if x.t.toInt b < x.t.toInt m then b else m)
      else if x.sub = 2 then (if x.t.floating then greater x.t.flt m b else if x.t.toInt m < x.t.toInt b then b else m)
      else if x.sub = 3 then m &&& b
      else if x.sub = 4 then m ||| b
      else if x.sub = 5 then m ^^^ b
      else b)
  | .cas x | .ucas x => some (if m = i.raw x.t l x.b then i.raw x.t l x.c else m)
  | _ => none

/-- An atomic at `.sys` on global or private memory: the home's dirty bytes of a line of host memory go to the host first,
and the atomic is then performed at the level-2 home, as one at `.dev` is (R119, R126, R269; log 95). -/
def atomicPlace (s : State) (i : Issue) (r : Reach) (p : Spot) : State × Nat :=
  match p with
  | .mem parts => if r.scope = 5 then (parts.foldl (fun s q => s.yieldLine i.grp.core 5 q.1) s, 4) else (s, r.scope)
  | _ => (s, if r.scope = 5 then 4 else r.scope)

/-- One lane's atomic at its place: the old value is read, the new one written (R269). -/
def atomicOne (c : Instr) (i : Issue) (x : XM) (r : Reach) (spot : Nat → Spot) (p : State × List (Nat × Nat))
    (l : Nat) : State × List (Nat × Nat) :=
  let q := atomicPlace p.1 i r (spot l)
  let o := q.1.readSpot i.grp.core q.2 (x.t.bits / 8) (spot l)
  let old := leNat o.2
  (o.1.writeSpot i.grp.core q.2 (spot l) (leBytes (x.t.bits / 8) ((atomicNew c i l old).getD old)),
   p.2 ++ [(l, old)])

/-- The same as a step of the lanes' access. -/
def atomicStep (c : Instr) (i : Issue) (x : XM) (r : Reach) (p : Spot) (s : State) (l : Nat) : State :=
  (atomicOne c i x r (fun _ => p) (s, []) l).1

/-! ### Memory-side calls (R134 to R154, R277 to R286) -/

/-- The operands of a lane's call that the command uses: 0 for X, 1 for Y, 2 for Z, with the access each takes
(R136, R278): registers A to A + 5. -/
def callOperands (i : Issue) (a : Nat) (w : DWord) (l : Nat) : List (Nat × DWord × Access) :=
  let code := w.toNat % 16
  let pair (n : Nat) : DWord := i.grp.vreg i.gid l (n + 1) ++ i.grp.vreg i.gid l n
  [(0, pair a, if code = 3 ∨ code = 4 ∨ code = 8 ∨ code = 9 then Access.write else .read)] ++
    (if code = 0 ∨ code = 1 ∨ code = 2 ∨ code = 7 then
      [(1, pair (a + 2), if code = 0 then Access.read else .write)] else []) ++
    (if (code = 0 ∨ code = 5 ∨ code = 6) ∧ pair (a + 4) ≠ 0 then [(2, pair (a + 4), Access.write)] else [])

/-- The count and the rows of an executor's command (R135). -/
def commandCount (w : DWord) : Nat := w.toNat / 2 ^ 19 % 2 ^ 10 + 1
def commandRows (w : DWord) : Nat := w.toNat / 2 ^ 13 % 2 ^ 6 + 1

/-- A lane's call passes its checks, its operands translated to `pa` (R24, R136, R278, R280). -/
structure CallAllowed (s : State) (i : Issue) (x : XS) (w : DWord) (pa : Nat → Nat → Nat) (l : Nat) : Prop where
  named : (i.uni x.c).getLsbD l = true
  count : w.toNat % 16 = 8 → 1 ≤ (i.grp.vreg i.gid l (Src.index x.a + 6)).toNat ∧
    (i.grp.vreg i.gid l (Src.index x.a + 6)).toNat ≤ 65536
  operand : ∀ o ∈ callOperands i (Src.index x.a) w l,
    o.2.1.toNat % (if o.1 = 0 ∧ 8 ≤ w.toNat % 16 then 64 else 4) = 0 ∧ canonical o.2.1 = true ∧
    inDram (pa l o.1) = true ∧
    ∃ t st bc, (s.core i.grp.core).leafOf i.grp.space o.2.1.toNat = some t ∧
      s.classify t.size t.entry o.2.1.toNat o.2.2 = .ok (pa l o.1) st bc ∧
      (o.1 < 2 → bc = true ∧ s.bankOf (pa l o.1) = s.bankOf (pa l 0)) ∧
      (o.1 = 2 → s.bankOf (pa l 2) / 2048 = s.bankOf (pa l 0) / 2048) ∧
      (o.1 < 2 → w.toNat % 16 < 8 → o.2.1.toNat % 2048 / 4 + commandCount w ≤ 512 ∧
        ∀ k < commandRows w, (pa l o.1 + 2048 * k) / 2 ^ 21 = pa l o.1 / 2 ^ 21)

/-- The queue that a call joins: of the walker or the assay engine of the memory stack of X, or of the executor of the
bank of X (R13, R138). -/
def queueFor (s : State) (c : Call) : List Call :=
  let stack := s.bankOf c.x / 2048
  let of (es : Store Engine) (n : Nat) : List Call := ((es.lookup n).map fun e => e.queue).getD []
  if c.command.toNat % 16 = 8 then of s.walkers stack
  else if c.command.toNat % 16 = 9 then of s.assays stack
  else of s.executors (s.bankOf c.x)

/-- A call stands in the queue of the unit it goes to, or waits in the core's queue 5 (R138). -/
def Sent (s : State) (core : Nat) (c : Call) : Prop := c ∈ (s.core core).queue5 ∨ c ∈ queueFor s c

/-- The row step of each command code (R141). -/
def rowStepOf (code bank : Nat) : Option Instr :=
  match code with
  | 0 => some (.dot bank)
  | 1 => some (.axpy bank)
  | 2 => some (.addv bank)
  | 3 => some (.scale bank)
  | 4 => some (.fill bank)
  | 5 => some (.red bank)
  | 6 => some (.cmpscan bank)
  | 7 => some (.vadd bank)
  | _ => none

/-- A word of memory. -/
def wordAt (m : Memory) (a : Nat) : Word := BitVec.ofNat 32 (m.readNat a 4)

/-- Element arithmetic by a command's type: integers modulo 2^32, or FP32 rounded once (R142). -/
def addEl (int : Bool) (a b : Word) : Word := if int then a + b else fadd a b
def mulEl (int : Bool) (a b : Word) : Word := if int then a * b else fmul a b
def fmaEl (int : Bool) (a b c : Word) : Word := if int then a * b + c else ffma a b c

/-- The operator of a reduction and its identity: 0 add, 1 maximum, 2 minimum (R141, R142). -/
def redEl (sub : Nat) (int : Bool) (a b : Word) : Word :=
  if sub = 0 then addEl int a b
  else if sub = 1 then (if int then (if a.toInt < b.toInt then b else a) else fmax a b)
  else if int then (if b.toInt < a.toInt then b else a) else fmin a b
def redStart (sub : Nat) (int : Bool) : Word :=
  if sub = 1 then (if int then 0x80000000 else 0xFF800000)
  else if sub = 2 then (if int then 0x7FFFFFFF else 0x7F800000) else 0

/-- Whether a command works on integers, and its sub-operation (R135). -/
def onInts (c : Call) : Bool := decide (c.command.toNat / 16 % 4 = 1)
def subOf (c : Call) : Nat := if c.command.toNat % 16 = 5 then c.command.toNat / 2 ^ 29 % 8 else 0

/-- What row step `k` writes for element `j`: address and word (R141). -/
def rowWrite (c : Call) (m : Memory) (k j : Nat) : Option (Nat × Word) :=
  let int := onInts c
  let ax := c.x + 2048 * k + 4 * j
  let ay := c.y + 2048 * k + 4 * j
  match c.command.toNat % 16 with
  | 1 => some (ay, fmaEl int c.a (wordAt m ax) (wordAt m ay))
  | 2 => some (ay, addEl int (wordAt m ax) (wordAt m ay))
  | 3 => some (ax, mulEl int c.a (wordAt m ax))
  | 4 => some (ax, c.a)
  | 7 => some (ay, addEl int (wordAt m ax) (wordAt m ay))
  | _ => none

/-- The memory after words are written one after another. -/
def wroteWords (m : Memory) (ws : List (Nat × Word)) : Memory :=
  ws.foldl (fun m p => m.writeBytes p.1 (leBytes 4 p.2.toNat)) m

/-- Partial `p` of sixteen after row step `k`: the elements of the row whose index is `p` modulo 16 join it in order
(R142). -/
def partialAfter (c : Call) (m : Memory) (k p : Nat) (old : Word) : Word :=
  ((List.range (commandCount c.command)).filter fun j => j % 16 = p).foldl (fun acc j =>
    let x := wordAt m (c.x + 2048 * k + 4 * j)
    let y := wordAt m (c.y + 2048 * k + 4 * j)
    if c.command.toNat % 16 = 0 then fmaEl (onInts c) x y acc else redEl (subOf c) (onInts c) acc x) old

/-- Neighbours combined pairwise, `k` levels deep (R142). -/
def pairTree (op : Word → Word → Word) (v : Nat → Word) : Nat → Nat → Word
  | 0, j => v j
  | k + 1, j => op (pairTree op v k (2 * j)) (pairTree op v k (2 * j + 1))

/-- The state of a command as its next row step finds it: the step, the partials, the first match, the count. -/
def stepOf (e : Engine) (c : Call) : Nat := if e.running then e.step else c.start
def partialOf (e : Engine) (c : Call) (p : Nat) : Word :=
  if e.running then e.partials.getD p 0 else redStart (subOf c) (onInts c)

/-- The test that `cmpscan` makes of an element against the call's scalar (R141). -/
def scanHolds (c : Call) (x : Word) : Bool :=
  let k := c.command.toNat / 2 ^ 29 % 8
  if onInts c then condInt k x.toInt c.a.toInt
  else condFloat k (Flt.f32.value x.toNat) (Flt.f32.value c.a.toNat)

/-- The elements of row `k` of X that meet the test. -/
def scanHits (c : Call) (m : Memory) (k : Nat) : List Nat :=
  (List.range (commandCount c.command)).filter fun j => scanHolds c (wordAt m (c.x + 2048 * k + 4 * j))

/-- The first match and the count after row step `k`. -/
def firstAfter (e : Engine) (c : Call) (m : Memory) (k : Nat) : Option Nat :=
  (if e.running then e.first else none).or ((scanHits c m k).head?.map fun j => 512 * k + j)
def tallyAfter (e : Engine) (c : Call) (m : Memory) (k : Nat) : Nat :=
  (if e.running then e.tally else c.tally) + (scanHits c m k).length

/-- The reply of a command that ends with row step `k`, and the word for Z (R141, R142). -/
def replyOf (e : Engine) (c : Call) (m : Memory) (k : Nat) : Word × Word :=
  let code := c.command.toNat % 16
  if code = 0 ∨ code = 5 then
    let op := redEl (subOf c) (onInts c)
    let v := pairTree op (fun p => partialAfter c m k p (partialOf e c p)) 4 0
    (v, v)
  else if code = 6 then
    ((firstAfter e c m k).elim 0xFFFFFFFF fun j => BitVec.ofNat 32 j, BitVec.ofNat 32 (tallyAfter e c m k))
  else (0, 0)

/-- A call of the same core that was sent earlier and has not been performed (R129, R138). -/
def Ahead (s : State) (c d : Call) : Prop :=
  d.core = c.core ∧ d.ticket < c.ticket ∧
    (d ∈ (s.core c.core).queue5 ∨ ∃ p ∈ s.executors ++ s.walkers ++ s.assays, d ∈ p.2.queue)

/-- A byte lies in the row segments of X or Y of an executor's command, or in its Z (R140). -/
def Covers (c : Call) (a : Nat) : Prop :=
  let within (b : Nat) : Prop := b ≤ a ∧ a < b + 2048 * (commandRows c.command - 1) + 4 * commandCount c.command
  within c.x ∨ (c.command.toNat % 16 ∈ [0, 1, 2, 7] ∧ within c.y) ∨ ∃ z, c.z = some z ∧ z ≤ a ∧ a < z + 4

/-- Two calls may access one byte; the bytes of a walk and of a pass are any that their records name (log 73). -/
def Overlaps (c d : Call) : Prop :=
  8 ≤ c.command.toNat % 16 ∨ 8 ≤ d.command.toNat % 16 ∨ ∃ a, Covers c a ∧ Covers d a

/-- A call may be taken up: it has begun, or no earlier call of its core that may access one of its bytes is still to be
performed (R129). -/
def MayBegin (s : State) (e : Engine) (c : Call) : Prop := e.running = true ∨ ∀ d, Ahead s c d → ¬ Overlaps d c

/-- What one unit's step may move besides: the calls that take the room it leaves (R138). -/
structure Fed (s t : State) : Prop where
  rest : t = { s with cores := t.cores, executors := t.executors, walkers := t.walkers, assays := t.assays }
  cores : ∀ k, t.core k = { s.core k with queue5 := (t.core k).queue5 }

/-- The bytes that row step `k` reads lie in no line that cannot be read (R144). -/
def rowReadable (s : State) (c : Call) (k : Nat) : Prop :=
  (c.command.toNat % 16 ≠ 4 → s.badRead (c.x + 2048 * k) (4 * commandCount c.command) = false) ∧
  (c.command.toNat % 16 ∈ [0, 1, 2, 7] → s.badRead (c.y + 2048 * k) (4 * commandCount c.command) = false)

/-! ### Window accumulators (R184 to R189, R289 to R296) -/

/-- A configuration that R185 does not list: a bit above 29, an operator for another type, a window longer than the
capacity. -/
def badConfig (c : Nat) : Bool :=
  decide (2 ^ 30 ≤ c) ||
    !(match c % 16 with
      | 0 | 1 | 2 => decide (c / 16 % 4 ≤ 2)
      | 3 | 4 | 5 => decide (c / 16 % 4 = 1)
      | 6 => decide (c / 16 % 4 = 0)
      | 7 | 8 => decide (c / 16 % 4 = 3)
      | _ => false) ||
    decide (c / 2 ^ 18 % 2 ^ 12 < c / 2 ^ 6 % 2 ^ 12)

/-- The type of a window's values by its code. -/
def windowTy (k : Nat) : Ty := if k = 0 then .f32 else if k = 1 then .s32 else if k = 2 then .bf16 else .n64

/-- What a window instruction sends, what it refuses locally, and for a form that returns values the registers they go to
(R289 to R291). -/
structure WRule where
  ext : XS
  bad : Issue → Bool
  work : Issue → WinWork
  returns : Option (List (Bool × Nat × Nat))

/-- The five instructions. -/
def windowSends : Instr → Option WRule
  | .winit x => some ⟨x, fun i => badConfig (i.uni x.b).toNat, fun i => .init (i.uni x.b), none⟩
  | .wpush x =>
    let ty := x.i32.toNat % 4
    let vs (i : Issue) : List (Nat × DWord) :=
      (lanes i.active).map fun l => (l, BitVec.ofNat 64 (i.raw (windowTy ty) l x.b))
    if x.i32.getLsbD 2 then
      some ⟨x, fun _ => false, fun i => .push ty (some x.d.n.toNat) (vs i),
        some [(false, x.d.n.toNat, if ty = 3 then 2 else 1)]⟩
    else some ⟨x, fun _ => false, fun i => .push ty none (vs i), none⟩
  | .wread x =>
    let ty := x.i32.toNat % 4
    some ⟨x, fun _ => false, fun _ => .read ty x.d.uni x.d.n.toNat,
      some [(x.d.uni, x.d.n.toNat, if x.d.uni then 1 else if ty = 3 then 2 else 1)]⟩
  | .wlen x => some ⟨x, fun i => decide (i.scalar x.b = 0 ∨ 4096 < i.scalar x.b), fun i => .len (i.scalar x.b), none⟩
  | .wfree x => some ⟨x, fun _ => false, fun _ => .free, none⟩
  | _ => none

/-- An object address passes the local checks (R290). -/
structure WindowAllowed (s : State) (i : Issue) (va : DWord) (pa : Nat) : Prop where
  canonical : canonical va = true
  aligned : va.toNat % 128 = 0
  dram : inDram pa = true
  leaf : ∃ t st bc, (s.core i.grp.core).leafOf i.grp.space va.toNat = some t ∧
    s.classify t.size t.entry va.toNat .read = .ok pa st bc ∧ bits 2 2 t.entry = 1

/-- An empty integer window. -/
def emptyWindow (op width : Nat) : Window :=
  { capacity := width, width := width, ty := 1, op := op, front := [], fold := none, back := [], space := 0,
    foreman := false }

/-- The integer operators on 32-bit values: add, maximum, minimum, and, or, xor (R185). -/
def intCombine (op : Nat) (a b : Nat) : Nat :=
  if op = 0 then (a + b) % 2 ^ 32
  else if op = 1 then (if Ty.toInt .s32 a < Ty.toInt .s32 b then b else a)
  else if op = 2 then (if Ty.toInt .s32 b < Ty.toInt .s32 a then b else a)
  else if op = 3 then a &&& b
  else if op = 4 then a ||| b
  else a ^^^ b

/-- The operators of every window type: rounded arithmetic on FP32 and BF16, the order of R76, and pairs, of which the one
with the larger (or smaller) value stays, of equal values the one with the lower index, of one NaN the other pair whole, and
of two the default NaN with the lower index (R76, R185). -/
def windowCombine (op ty a b : Nat) : Nat :=
  let f := if ty = 2 then Flt.bf16 else Flt.f32
  let x := a % 2 ^ 32
  let y := b % 2 ^ 32
  let lower := if a / 2 ^ 32 ≤ b / 2 ^ 32 then a else b
  if 7 ≤ op then
    if Flt.f32.value x = .nan then (if Flt.f32.value y = .nan then lower / 2 ^ 32 * 2 ^ 32 + 0x7FC00000 else b)
    else if Flt.f32.value y = .nan then a
    else if x = y then lower
    else if (if op = 7 then greater Flt.f32 x y else lesser Flt.f32 x y) = x then a
    else b
  else if ty = 1 then intCombine op a b
  else if op = 0 then f.rn ((f.value a).add (f.value b))
  else if op = 1 then greater f a b
  else if op = 2 then lesser f a b
  else f.rn ((f.value a).mul (f.value b))

/-- The identity of a window's operator for its type (R185). -/
def windowIdentity (op ty : Nat) : Nat :=
  let least := if ty = 1 then 0x80000000 else if ty = 2 then 0xFF80 else 0xFF800000
  let most := if ty = 1 then 0x7FFFFFFF else if ty = 2 then 0x7F80 else 0x7F800000
  match op with
  | 1 => least
  | 2 => most
  | 3 => 2 ^ 32 - 1
  | 6 => 0x3F800000
  | 7 => (2 ^ 32 - 1) * 2 ^ 32 + least
  | 8 => (2 ^ 32 - 1) * 2 ^ 32 + most
  | _ => 0

/-- The combinations of operator and type (R185). -/
def windowPair (op ty : Nat) : Prop :=
  (op ≤ 2 ∧ ty ≤ 2) ∨ (3 ≤ op ∧ op ≤ 5 ∧ ty = 1) ∨ (op = 6 ∧ ty = 0) ∨ (7 ≤ op ∧ op ≤ 8 ∧ ty = 3)

/-- Values combined from the newest back to the oldest, as a flip does, and from the oldest on, as pushes do; nothing where
there is none (R186). -/
def foldBack (c : DWord → DWord → DWord) : List DWord → Option DWord
  | [] => none
  | e :: r => some (match foldBack c r with
      | some v => c e v
      | none => e)
def foldOn (c : DWord → DWord → DWord) : List DWord → Option DWord
  | [] => none
  | v :: r => some (r.foldl c v)

/-- A window's two stacks stand for the contributions that count, oldest first: `old` in the back stack, each entry the
aggregate from its own to the newest of them, and `new` in the front stack with their fold (R186). -/
structure TwoStacks (w : Window) (old new : List DWord) : Prop where
  front : w.front = new.reverse
  fold : w.fold = foldOn w.combine new
  back : w.back = (List.range old.length).filterMap fun k => foldBack w.combine (old.drop k)

/-- The contributions after a number of expirations: the oldest goes, and where the back stack is empty the front stack is
flipped into it first (R186). -/
def expired : Nat → List DWord × List DWord → List DWord × List DWord
  | 0, p => p
  | k + 1, ([], new) => expired k (new.tail, [])
  | k + 1, (_ :: old, new) => expired k (old, new)

/-- The values combined from the oldest to the newest; the identity where there is none. -/
def combinedAll (op : Nat) : List Nat → Nat
  | [] => (winIdentity op 1).toNat
  | v :: r => r.foldl (intCombine op) v

/-- A message is answered: it leaves queue 6, its group writes registers, what is in flight for it has landed, and an entry
held at it goes on (R291). -/
def Answered (s s1 : State) (core : Nat) (m : WinMsg) (g h : Group) (s' : State) : Prop :=
  s1 = { s with windows := s1.windows, slices := s1.slices, mem := s1.mem, draws := s1.draws, cores := s1.cores,
                watches := s1.watches } ∧ SameWatches s s1 ∧
  s1.cores = (s.onCore core fun c => { c with queue6 := c.queue6.tail }).cores ∧
  s' = { s1 with groups := s'.groups } ∧ s'.groups.lookup m.issuer.group = some h ∧
  (∀ k, k ≠ m.issuer.group → s'.groups.lookup k = s.groups.lookup k) ∧
  h = { (g.landed m.ticket).passHold (fun x => x = .window m.ticket) with vregs := h.vregs, uregs := h.uregs }

/-! ### The matrix engine (R155 to R168, R303 to R316) -/

/-- The issuing team's scratchpad, its size, and whether the team declared a floor need (R91, R164). -/
def padOf (s : State) (i : Issue) : Memory := ((s.teams.lookup i.grp.team).map fun t => t.scratch).getD []
def padSize (s : State) (i : Issue) : Nat := ((s.teams.lookup i.grp.team).map fun t => t.size).getD 0
def hasFloor (s : State) (i : Issue) : Bool := ((s.teams.lookup i.grp.team).map fun t => t.floorNeed).getD false

/-- A check of step 6: whether it fails, its cause, the address for `$taddr`. -/
abbrev Check := Bool × Cause × DWord

/-- What an instruction that acts once for its entry checks, in order, the work it places in queue 4, what the matrix state
holds as issued, and the group it leaves (R302, R303). -/
structure ERule where
  ext : XS
  checks : State → Issue → List Check
  work : State → Issue → Option Work4
  issued : State → Issue → Matrix → Matrix
  group : Nat → Issue → Group → Group

/-- Some of `n` bytes from an offset on lie in a 4-byte word with an uncorrectable error: of a team's scratchpad, or of a
core's floor scratchpad (R356). -/
def padFlawed (s : State) (team off n : Nat) : Bool := s.flaws.any fun f => match f with
  | .scratch t w => decide (t = team ∧ 4 * w < off + n ∧ off < 4 * w + 4)
  | _ => false
def floorFlawed (s : State) (core off n : Nat) : Bool := s.flaws.any fun f => match f with
  | .floor c w => decide (c = core ∧ 4 * w < off + n ∧ off < 4 * w + 4)
  | _ => false

/-- A segment-table entry in scratchpad: rows in bits 15 to 0, tile in 24 to 16, the rest zero (R162). -/
def tableWord (s : State) (i : Issue) (off k : Nat) : Nat := (padOf s i).readNat (off + 8 * k) 8
def badTableWord (e : Nat) : Bool := decide (e % 65536 = 0 ∨ 512 < e % 65536 ∨ e / 2 ^ 25 ≠ 0)
def tableAt (s : State) (i : Issue) (off n : Nat) : List (Nat × Nat) :=
  (List.range n).map fun k => (tableWord s i off k % 65536, tableWord s i off k / 65536 % 512)

/-- The format that a `wload` names: E4M3, E5M2, BF16, FP16 as 0 to 3 (R306, R307). -/
def loadFormat (x : XS) : Nat :=
  match x.i32.toNat / 4 % 16 with
  | 12 => 0
  | 13 => 1
  | 11 => 2
  | _ => 3

/-- A descriptor of the accumulator instructions: row, column base, whether an unnamed bit is set (R310). -/
def accRow (d : Nat) : Nat := d % 512
def accCol (d : Nat) : Nat := d / 2 ^ 16 % 128
def accOdd (d : Nat) : Bool := decide (d / 2 ^ 9 % 2 ^ 7 ≠ 0 ∨ d / 2 ^ 23 % 2 ^ 41 ≠ 0)

/-- The word of accumulator element (row + k, column base + lane) that `accwr` takes from a lane (R310). -/
def accSource (x : XS) (i : Issue) (k l : Nat) : Word :=
  match x.b with
  | .v n => i.grp.vreg i.gid l (n.toNat + k)
  | b => BitVec.ofNat 32 (i.raw .f32 l b)

/-- The words of an epilogue program before its `end`, and whether a quantise stands before word `k` (R311, R312). -/
def programOf (s : State) (i : Issue) (off : Nat) : List Word :=
  (elements (padOf s i) off 32).takeWhile fun w => decide (w.toNat / 2 ^ 26 ≠ 0)
def quantisedBefore (ws : List Word) (k : Nat) : Bool :=
  (ws.take k).any fun w => decide (9 ≤ w.toNat / 2 ^ 26 ∧ w.toNat / 2 ^ 26 ≤ 11)

/-- A store word names a slot whose base, stride or scale base is misaligned, or whose reserved word is set (R312). -/
def badSlot (s : State) (i : Issue) (off : Nat) (w : Word) : Bool :=
  let at' := off + 160 + 24 * (w.toNat % 4)
  decide (12 ≤ w.toNat / 2 ^ 26) && decide ((padOf s i).readNat at' 8 % 64 ≠ 0 ∨ (padOf s i).readNat (at' + 8) 4 % 64 ≠ 0 ∨
    (padOf s i).readNat (at' + 16) 8 % 4 ≠ 0 ∨ (padOf s i).readNat (at' + 12) 4 ≠ 0)

/-- The first word of a program that meets a test: whether there is one, and its address. -/
def firstWord (off : Nat) (ws : List Word) (bad : Nat → Word → Bool) (c : Cause) : Check :=
  match ws.zipIdx.find? fun p => bad p.2 p.1 with
  | some p => (true, c, BitVec.ofNat 64 (off + 4 * p.2))
  | none => (false, c, 0)

/-- The group past its instruction, nothing else. -/
def onward (_ : Nat) (_ : Issue) (g : Group) : Group := g

/-- How many followers the entry has issued already, where it issues its instruction again after trap return (R203). -/
def overBefore (i : Issue) : Nat := (i.grp.entryOf i.slot.mask).elim 0 fun e => e.done

/-- The instructions of the matrix engine that are not `mma` (R304 to R306, R310 to R313). That a `wload` without a floor
scratchpad names its own address is the model's choice (log 101). -/
def engineRule : Instr → Option ERule
  | .gang x => some
    { ext := x,
      checks := fun s i =>
        let m := i.scalar x.a
        let n := ((List.range 32).filter fun k => m.testBit k).length
        [(decide (m ≠ 0) && !hasFloor s i, .protection, i.slot.pc), (decide (2 ^ 32 ≤ m), .illegalField, i.slot.pc),
         (decide (m ≠ 0 ∧ (n < 2 ∨ 6 < n)), .illegalField, i.slot.pc),
         (decide (m ≠ 0) && !m.testBit i.grp.index, .illegalField, i.slot.pc),
         ((List.range 32).any fun k => m.testBit k &&
            !(s.groups.any fun p => decide (p.2.team = i.grp.team ∧ p.2.index = k ∧ p.2.live ≠ 0)),
          .illegalField, i.slot.pc)],
      work := fun _ _ => none, issued := fun _ _ m => m,
      group := fun _ i g => { g with gang := BitVec.ofNat 32 (i.scalar x.a) } }
  | .segtab x => some
    { ext := x,
      checks := fun s i =>
        let off := i.scalar x.a
        let n := i.scalar x.b
        [(!hasFloor s i, .protection, i.slot.pc), (decide (n = 0 ∨ 16 < n), .segtabRange, i.slot.pc),
         (decide (off % 8 ≠ 0), .atomicAlign, BitVec.ofNat 64 off),
         (decide (padSize s i < off + 8 * n), .protection, BitVec.ofNat 64 off),
         (padFlawed s i.grp.team off (8 * n), .eccFatal, BitVec.ofNat 64 off),
         (match (List.range n).find? fun k => badTableWord (tableWord s i off k) with
          | some k => (true, .segtabRange, BitVec.ofNat 64 (off + 8 * k))
          | none => (false, .segtabRange, 0))],
      work := fun s i => some (.segtab (tableAt s i (i.scalar x.a) (i.scalar x.b))),
      issued := fun s i m => { m with issueTable := tableAt s i (i.scalar x.a) (i.scalar x.b) }, group := onward }
  | .wload x => some
    { ext := x,
      checks := fun s i =>
        [(decide (s.waysFor i.grp.core i.grp.team = 16), .floorAbsent, i.slot.pc),
         (decide (510 < i.scalar x.a ∨ (x.i32.getLsbD 1 = true ∧ 2 ≤ loadFormat x)), .illegalField, i.slot.pc)],
      work := fun _ i =>
        some (.wload (loadFormat x) (x.i32.getLsbD 1).toNat (x.i32.getLsbD 0).toNat (i.scalar x.a)),
      issued := fun _ _ m => { m with
        issueFormats := m.issueFormats.put (2 * (x.i32.getLsbD 0).toNat + (x.i32.getLsbD 1).toNat) (loadFormat x) },
      group := onward }
  | .accrd x => some
    { ext := x,
      checks := fun s i =>
        let d := i.scalar x.a
        [(!hasFloor s i, .protection, i.slot.pc), (accOdd d, .illegalField, BitVec.ofNat 64 d),
         (decide (512 < accRow d + 2 ^ (x.i32.toNat % 4)), .protection, BitVec.ofNat 64 d)],
      work := fun _ i => some
        (.accrd (accRow (i.scalar x.a)) (accCol (i.scalar x.a)) (2 ^ (x.i32.toNat % 4)) x.d.n.toNat),
      issued := fun _ _ m => m,
      group := fun t i g => { g with flights := g.flights ++
        [{ ticket := t, pc := i.slot.pc, next := i.slot.next, mask := i.slot.mask, left := x.la.toNat - overBefore i,
           issued := overBefore i, writes := [(false, x.d.n.toNat, 2 ^ (x.i32.toNat % 4))] }] } }
  | .accwr x => some
    { ext := x,
      checks := fun s i =>
        let d := i.scalar x.a
        [(!hasFloor s i, .protection, i.slot.pc), (accOdd d, .illegalField, BitVec.ofNat 64 d),
         (decide (512 < accRow d + 2 ^ (x.i32.toNat % 4)), .protection, BitVec.ofNat 64 d)],
      work := fun _ i => some (.accwr ((lanes i.active).flatMap fun l => (List.range (2 ^ (x.i32.toNat % 4))).map fun k =>
        ((accRow (i.scalar x.a) + k) * 128 + (accCol (i.scalar x.a) + l) % 128, accSource x i k l))),
      issued := fun _ _ m => m, group := onward }
  | .accz x => some
    { ext := x,
      checks := fun s i =>
        let a := i.scalar x.a
        let b := i.scalar x.b
        [(!hasFloor s i, .protection, i.slot.pc),
         (decide (b = 0 ∨ 512 < b), .illegalField, BitVec.ofNat 64 a),
         (decide (512 < a + b), .protection, BitVec.ofNat 64 a)],
      work := fun _ i => some (.accz (i.scalar x.a) (i.scalar x.b)), issued := fun _ _ m => m, group := onward }
  | .epld x => some
    { ext := x,
      checks := fun s i =>
        let off := i.scalar x.a
        let ws := programOf s i off
        [(!hasFloor s i, .protection, i.slot.pc), (decide (off % 64 ≠ 0), .atomicAlign, BitVec.ofNat 64 off),
         (decide (padSize s i < off + 256), .protection, BitVec.ofNat 64 off),
         (padFlawed s i.grp.team off 256, .eccFatal, BitVec.ofNat 64 off),
         (decide (ws.length = 32), .illegalField, BitVec.ofNat 64 off),
         firstWord off ws (fun _ w => epiWordBad (padSize s i) w) .illegalField,
         firstWord off ws (fun k w => decide (w.toNat / 2 ^ 26 = 12 ∨ w.toNat / 2 ^ 26 = 13) && !quantisedBefore ws k)
           .illegalField,
         firstWord off ws (fun _ w => badSlot s i off w) .illegalField],
      work := fun s i => some (.epld (epilogueAt (padOf s i) (i.scalar x.a))),
      issued := fun s i m => { m with issueEpilogue := some (epilogueAt (padOf s i) (i.scalar x.a)) }, group := onward }
  | _ => none

/-- The checks of `mma`, in order (R308). -/
def productChecks (x : XS) (s : State) (i : Issue) : List Check :=
  let f := x.i32
  let w (k : Nat) : Nat := (i.grp.ureg i.gid (Src.index x.a + k)).toNat
  let eight : Bool := decide (f.toNat % 4 < 2)
  let a := w 0 % 2 ^ 32
  let stride := w 0 / 2 ^ 32
  let m := w 1 % 65536
  let k := w 1 / 65536 % 65536
  let scale := w 1 / 2 ^ 32
  let tile := w 2 % 65536
  let row := w 2 / 65536 % 65536
  let handle := w 3 % 64
  let bytes := if eight then k else 2 * k
  let blocks := if eight then (k + 127) / 128 else (k + 63) / 64
  let mat := if hasFloor s i then (s.core i.grp.core).matrix else Matrix.initial
  [(decide (w 2 / 2 ^ 32 ≠ 0 ∨ w 3 / 64 ≠ 0 ∨ m = 0 ∨ 512 < m ∨ k = 0 ∨ 8192 < k ∨ a % 64 ≠ 0 ∨ stride % 64 ≠ 0 ∨
      stride < bytes ∨ (eight = true ∧ scale % 4 ≠ 0) ∨ 510 < tile ∨ 511 < row), .illegalField, i.slot.pc),
   (decide ((f.getLsbD 8 = true ∧ s.handle i.grp.team handle ≠ 0) ∨ (f.getLsbD 7 = true ∧ mat.issueEpilogue = none) ∨
      (f.getLsbD 5 = true ∧ ¬ (mat.issueFormats.at 0 0 < 2 ↔ f.toNat / 4 % 4 < 2))), .illegalField, i.slot.pc),
   (decide (s.waysFor i.grp.core i.grp.team = 16), .floorAbsent, i.slot.pc),
   (if padSize s i < a + (m - 1) * stride + bytes then (true, .protection, BitVec.ofNat 64 a)
    else if eight = true ∧ padSize s i < scale + 4 * m * blocks then (true, .protection, BitVec.ofNat 64 scale)
    else if 512 < row + m then (true, .protection, BitVec.ofNat 64 row)
    else match (if f.getLsbD 7 then mat.issueEpilogue else none).bind fun e => slotBeyond e (padSize s i) m with
      | some at' => (true, .protection, at')
      | none => (false, .protection, 0)),
   (decide (f.getLsbD 6 = false ∧ 511 < tile + blocks), .protection, i.slot.pc),
   (decide (f.getLsbD 6 = true ∧ ((mat.issueTable.map fun e => e.1).sum ≠ m ∨ ∃ e ∈ mat.issueTable, 511 < e.2 + blocks)),
    .segtabRange, i.slot.pc)]

/-- The operation that an `mma` stands for, and the formats that the buffers hold once it has been issued (R303, R306). -/
def productOf (x : XS) (i : Issue) : MmaOp :=
  { flags := x.i32, params := (List.range 4).map fun k => i.grp.ureg i.gid (Src.index x.a + k), claimed := false,
    started := false, segment := 0, block := 0, drain := false, row := 0, held := none }
def formatsOnce (x : XS) (i : Issue) (m : Matrix) : Store Nat :=
  let p := mmaParams (productOf x i).params
  formatsAfter m.issueFormats x.i32 (mmaBlocks x.i32 p) (mmaSegments x.i32 p m.issueTable).length

/-- The entry waits at its instruction for something; nothing else changes. -/
def Waits (s : State) (i : Issue) (h : Hold) (res : Result) : Prop :=
  Completes res fun s' => ∃ g, i.Changes s s' g ∧ g = i.placed g.front.entries ∧
    ∀ q ∈ g.front.entries, q.mask = i.slot.mask → q.hold = h

/-- Only one core changes, besides the groups. -/
structure OnCore (s t : State) (core : Nat) (c : Core) : Prop where
  rest : t = { s with cores := t.cores, serial := t.serial }
  this : t.core core = c
  others : ∀ k, k ≠ core → t.core k = s.core k

/-- The oldest operation of queue 4 is done: the matrix state becomes `m`, the queue is `q`, its permit goes back. -/
def Performs (s : State) (core : Nat) (op : Op4) (q : List Op4) (m : Matrix) (res : Result) : Prop :=
  Completes res fun s' => OnCore s s' core { (s.core core).leavePermit op.ticket with queue4 := q, matrix := m }

/-- The permit that an operation of queue 4 uses is granted (R168, R309). -/
def permitted (s : State) (core : Nat) (op : Op4) : Bool :=
  ((s.core core).permits.find? fun p => p.users.contains op.ticket).any fun p => p.granted

/-- The bytes of the floor scratchpad that a half-tile comes from, the scales of an 8-bit tile with its half 0 (R156, R157). -/
def tileParts (fmt h t : Nat) : List (Nat × Nat) :=
  if fmt < 2 then (16384 * t + 8192 * h, 8192) :: (if h = 0 then [(0x7FC000 + 4 * t, 4)] else []) else [(16384 * t, 16384)]

/-- A word that a half-tile comes from holds an uncorrectable error (R356). -/
def tileLost (s : State) (core fmt h t : Nat) : Prop := ∃ r ∈ tileParts fmt h t, floorFlawed s core r.1 r.2 = true

/-- A word that a K block reads holds an uncorrectable error: of the tile that it latches, of a row of A, or of the row's
scale (R160, R356). -/
def blockLost (s : State) (core team : Nat) (f : BitVec 32) (p : MmaParams) (latches : Bool) (tile first rows block : Nat) :
    Prop :=
  let size := if mmaAf f < 2 then 1 else 2
  let full := if mmaAf f < 2 then 128 else 64
  (latches = true ∧ (tileLost s core (mmaWf f) 0 tile ∨ (mmaWf f < 2 ∧ tileLost s core (mmaWf f) 1 tile))) ∨
  ∃ a, first ≤ a ∧ a < first + rows ∧
    (padFlawed s team (p.a + a * p.stride + block * full * size) (min full (p.k - block * full) * size) = true ∨
     (mmaAf f < 2 ∧ padFlawed s team (p.scale + 4 * (a * mmaBlocks f p + block)) 4 = true))

/-- A byte of a half-tile as the floor scratchpad holds it: tiles of 16 KiB, 8-bit halves of 8 KiB (R156). -/
def tileByte (floor : Memory) (fmt h t j : Nat) : Byte :=
  if fmt < 2 then (if j < 8192 then floor.read (16384 * t + 8192 * h + j) else 0)
  else if j < 16384 then floor.read (16384 * t + j) else 0

/-! ### Copies (R169 to R173) -/

/-- Element `k` of a record in ascending order: its source byte and the first byte of its destination; how many elements there
are, and the bytes each is written as (R169, R170, R172). -/
def runsOf (r : Record) (d : Nat) : Nat := if d + 1 < r.dims then r.counts.getD d 1 else 1
def elementCount (r : Record) : Nat := r.length * runsOf r 0 * runsOf r 1
def elementWidth (r : Record) : Nat := if r.transform then 16 else 1
def elementAt (r : Record) (k : Nat) : Int × Int :=
  let b : Nat := k % r.length
  let i : Nat := k / r.length % runsOf r 0
  let j : Nat := k / (r.length * runsOf r 0)
  (r.src + i * r.srcStrides.getD 0 0 + j * r.srcStrides.getD 1 0 + b,
   r.dst + i * r.dstStrides.getD 0 0 + j * r.dstStrides.getD 1 0 + b * elementWidth r)

/-- A byte address of a record's end lies at a place: in global memory through a leaf that the core's translation cache holds,
in the issuing team's scratchpad, in its core's floor scratchpad, in a scratchpad of its cluster; in bounds, and in a scratchpad
with no uncorrectable error (R92, R93, R103, R107, R169, R356). -/
def LiesAt (s : State) (core : Nat) (i : Issuer) (space : Nat) (acc : Access) (a : Int) (p : Place) : Prop :=
  match space with
  | 0 =>
    let va := BitVec.ofInt 64 a
    canonical va = true ∧ ∃ pa st bc t, p = .mem pa ∧ (s.core core).leafOf i.space va.toNat = some t ∧
      s.classify t.size t.entry va.toNat acc = .ok pa st bc
  | 1 => ∃ m, s.teams.lookup i.team = some m ∧ 0 ≤ a ∧ a < m.size ∧ padFlawed s i.team a.toNat 1 = false ∧
      p = .scratch i.team a.toNat
  | 2 => s.waysFor core i.team ≠ 16 ∧ 0 ≤ a ∧ a < 8 * 2 ^ 20 ∧ floorFlawed s core a.toNat 1 = false ∧ p = .floor a.toNat
  | _ => 0 ≤ a ∧ a < 16 * 524288 ∧ ∃ m k t x, s.teams.lookup i.team = some m ∧ s.clusters.lookup m.cluster = some k ∧
      k.teams[a.toNat / 524288]? = some t ∧ s.teams.lookup t = some x ∧ a.toNat % 524288 < x.size ∧
      padFlawed s t (a.toNat % 524288) 1 = false ∧ p = .scratch t (a.toNat % 524288)

/-- The byte at a place, global memory at its level-2 home; and a byte written there (R129, R170). -/
def byteAt (s : State) (core : Nat) : Place → State × Byte
  | .mem pa => ((s.l2Read pa 1).1, (s.l2Read pa 1).2.headD 0)
  | .scratch t k => (s, scratchByte s t k)
  | .floor k => (s, (s.slice core).floor.read k)
  | _ => (s, 0)
def putByte (s : State) (core : Nat) (p : Place × Byte) : State :=
  match p.1 with
  | .mem pa => s.l2Write pa [p.2]
  | .scratch t k => { s with teams := s.teams.modify t fun m => { m with scratch := m.scratch.write k p.2 } }
  | .floor k => s.setSlice core { s.slice core with floor := (s.slice core).floor.write k p.2 }
  | _ => s

/-- What a byte is written as: itself, or the entry of the codebook that it names (R172). -/
def writtenAs (s : State) (core : Nat) (r : Record) (b : Byte) : List Byte :=
  if r.transform then ((((s.core core).codebook.map fun c => c.bytes).getD []).drop (16 * b.toNat)).take 16 else [b]

/-- The byte at a place lies in a line that cannot be read (R345, R356). -/
def byteLost (s : State) : Place → Bool
  | .mem pa => homeLost s pa
  | _ => false

/-- The elements of a record move one after another: each is read at its place and written at its destination's places, until
one of these lies in a line that cannot be read when its turn comes; whether that was so. -/
def moveElements (core : Nat) (r : Record) (ps : Nat → Place) (qs : Nat → Nat → Place) (s : State) : State × Bool :=
  (List.range (elementCount r)).foldl (fun p k =>
    if p.2 || byteLost p.1 (ps k) then (p.1, true)
    else
      let got := byteAt p.1 core (ps k)
      (((List.range (elementWidth r)).map (qs k)).zip (writtenAs got.1 core r got.2)).foldl (fun p q =>
        if p.2 || byteLost p.1 q.1 then (p.1, true) else (putByte p.1 core q, false)) (got.1, false)) (s, false)

/-- The elements of a record are read one after another, as they are written, until one cannot be read. -/
def readElements (core : Nat) (r : Record) (ps : Nat → Place) (s : State) : State × List Byte × Bool :=
  (List.range (elementCount r)).foldl (fun p k =>
    if p.2.2 || byteLost p.1 (ps k) then (p.1, p.2.1, true)
    else
      let got := byteAt p.1 core (ps k)
      (got.1, p.2.1 ++ writtenAs got.1 core r got.2, false)) (s, [], false)

/-- A record that moves bytes within the issuing team's scratchpad: no dimension beyond the first, no handle, no codebook,
both ends in bounds, apart, and with no uncorrectable error (R169, R170, R356). -/
structure Plain (s : State) (h : Head) (run : Running) (size : Nat) : Prop where
  kind : (recordOf run.bytes).kind = 0
  flat : (recordOf run.bytes).dims = 1
  ends : (recordOf run.bytes).source = 1 ∧ (recordOf run.bytes).dest = 1
  plain : (recordOf run.bytes).transform = false ∧ (recordOf run.bytes).multicast = false ∧
    (recordOf run.bytes).handle = none
  team : ((s.teams.lookup h.issuer.team).map fun t => t.size) = some size
  inside : (recordOf run.bytes).src + (recordOf run.bytes).length ≤ size ∧
    (recordOf run.bytes).dst + (recordOf run.bytes).length ≤ size
  apart : (recordOf run.bytes).src + (recordOf run.bytes).length ≤ (recordOf run.bytes).dst ∨
    (recordOf run.bytes).dst + (recordOf run.bytes).length ≤ (recordOf run.bytes).src
  sound : padFlawed s h.issuer.team (recordOf run.bytes).src (recordOf run.bytes).length = false ∧
    padFlawed s h.issuer.team (recordOf run.bytes).dst (recordOf run.bytes).length = false

/-- Copies of a 4096-byte codebook, byte by byte, once its addresses translate to `pa` (R172). -/
structure BookAllowed (s : State) (core : Nat) (h : Head) (run : Running) (pa : Nat → Nat) : Prop where
  kind : (recordOf run.bytes).kind = 1 ∧ (recordOf run.bytes).source = 0 ∧ (recordOf run.bytes).dims = 1 ∧
    (recordOf run.bytes).length = 4096 ∧ (recordOf run.bytes).transform = false
  leaf : ∀ k < 4096, let va := BitVec.ofNat 64 ((recordOf run.bytes).src + k)
    canonical va = true ∧ ∃ t st bc, (s.core core).leafOf h.issuer.space va.toNat = some t ∧
      s.classify t.size t.entry va.toNat .read = .ok (pa k) st bc

/-! ### System, launch and host (R49 to R67, R105 to R109, R324 to R338, R342 to R361) -/

/-- A completion counter passes its checks, in the lowest active lane (R336, R337). -/
structure CounterAllowed (s : State) (i : Issue) (va : DWord) (pa : Nat) : Prop where
  canonical : canonical va = true
  aligned : va.toNat % 8 = 0
  dram : inDram pa = true
  readable : s.unreadable pa = false
  leaf : ∃ t st bc, (s.core i.grp.core).leafOf i.grp.space va.toNat = some t ∧
    s.classify t.size t.entry va.toNat .read = .ok pa st bc

/-- Whether a grid has triggered: every cluster placed, every group triggered; one that is not live has exited
(R58, R59). -/
def hasTriggered (s : State) (gr : Nat) : Prop :=
  ∀ g, s.grids.lookup gr = some g → g.next = g.clusters ∧ ∀ p ∈ s.groups, p.2.grid = gr → p.2.triggered = true

/-- Whether every producer of the issuing group's grid has triggered or exited (R58). -/
def producersReady (s : State) (i : Issue) : Prop :=
  ∀ g, s.grids.lookup i.grp.grid = some g → ∀ p ∈ g.producers, hasTriggered s p

/-- The way partition of a core's slice has changed; besides, lines it gave up have been written back, and nothing else
has moved (R101, R102). -/
def Repartitioned (s t : State) (core n : Nat) : Prop :=
  t = { s with slices := t.slices, mem := t.mem, watches := t.watches } ∧ SameWatches s t ∧
  (t.slice core).ways = n ∧ ∀ k, k ≠ core → t.slice k = s.slice k

/-- The queues that `setways` and `qfence` watch: the tickets in the copy channels and queue 4 (R129, R131, R331). -/
def engineTickets (s : State) (core : Nat) : List Nat :=
  (List.range 4).flatMap (fun q => ((s.core core).channels.at q Channel.initial).heads.map fun h => h.ticket) ++
    (s.core core).queue4.map fun o => o.ticket

/-- A message of the launch channel as the launch engine reads it (R51). -/
def messageId (bs : List Byte) : Nat := leNat ((bs.drop 4).take 4)
def messageQueue (bs : List Byte) : Nat := leNat ((bs.drop 15).take 1)
def messageKind (bs : List Byte) : Nat := leNat (bs.take 1)

/-- Serial numbers are fresh: nothing of the machine has the number that the next group, team or cluster gets. -/
structure FreshSerials (s : State) : Prop where
  groups : ∀ p ∈ s.groups, p.1 < s.serial ∧ p.2.cluster < s.serial ∧ p.2.team < s.serial
  teams : ∀ p ∈ s.teams, p.1 < s.serial
  clusters : ∀ p ∈ s.clusters, p.1 < s.serial

/-- The foreman answers a request: 0 with the new state, or 1 with no effect (the two codes are the model's choice,
log 19); before `READY`, and while the link is down, nothing is served (R343, R355). -/
def Served (s : State) (ev : Instr) (ok : Prop) (t : State) : Prop :=
  (s.ready = false ∨ s.link.up = false → exec ev s = .next s) ∧
  (s.ready = true → s.link.up = true → ok → exec ev s = .next { t with outbox := t.outbox ++ [.answer 0 []] }) ∧
  (s.ready = true → s.link.up = true → ¬ ok → exec ev s = .next { s with outbox := s.outbox ++ [.answer 1 []] })

/-- The same for a request of the boot configuration: served at stage 0, refused once `READY` is set, and not served in
between (R22, R174, R355; that it is refused then rather than dropped is the model's choice, log 21). -/
def ServedAtBoot (s : State) (ev : Instr) (ok : Prop) (t : State) : Prop :=
  (s.link.up = false ∨ (s.foreman.stage ≠ 0 ∧ s.ready = false) → exec ev s = .next s) ∧
  (s.link.up = true → s.foreman.stage = 0 → ok → exec ev s = .next { t with outbox := t.outbox ++ [.answer 0 []] }) ∧
  (s.link.up = true → s.ready = true ∨ (s.foreman.stage = 0 ∧ ¬ ok) →
    exec ev s = .next { s with outbox := s.outbox ++ [.answer 1 []] })

/-- A descriptor of a send queue is gone: its status is written, its counter rises, and it is no longer on its way
(R348). -/
def descriptorAt (s : State) (q index : Nat) : Option Sending :=
  (s.transport.queues.lookup q).bind fun x => x.sending.find? fun d => d.index = index ∧ d.status = none

/-- The unit thresholds of R356. -/
def faultThreshold : Part → Option Nat
  | .column _ => some 64
  | .slice _ => some 256
  | .bank _ => some 32
  | .eraseBlock _ _ => some 16
  | _ => none

/-- The swallow level of a temperature (R360). -/
def levelFor (t : Int) : Nat :=
  if t < 86 then 0 else if 114 ≤ t then 15 else ((t - 86) / 2 + 1).toNat

/-! ### Trap return (R45, R46, R203, R205, R335) -/

/-- A member-mask wait that the skip form lets go: each one after `REJOIN_STUCK`, or the one at which a later arrival
faulted. -/
def letsGo (t : TrapState) (w : MemberWait) : Bool :=
  match t.resume with
  | .stuck => true
  | .member _ pc _ => w.pc = pc
  | _ => false

/-- Where trap return leaves a lane: where the saved frontier has it, or where the kind of the trap sends it. -/
def returnAt (t : TrapState) (skip : Bool) (l : Nat) : Option (DWord × BitVec 8) :=
  let there := t.front.at l
  let sent (m : LaneMask) (pc next : DWord) : Option (DWord × BitVec 8) :=
    there.map fun p => (if m.getLsbD l then (if skip then next else pc) else p.1, p.2)
  let freed := (t.front.waits.find? fun w => letsGo t w && w.arrived.getLsbD l).map fun w => (w.next, w.prio)
  match t.resume with
  | .entry m pc next => sent m pc next
  | .stuck =>
    if skip then
      (there.or ((t.front.parked.find? fun p => p.lane = l).map fun p => (p.rejoin, p.prio))).or freed
    else there
  | .member m pc next => if skip then (sent m pc next).or freed else sent m pc next
  | .unchanged => there

/-- The faulting instruction was being repeated. -/
def wasRepeated (t : TrapState) : Prop :=
  match t.resume with
  | .entry m _ _ => ∃ q ∈ t.front.entries, q.mask &&& m ≠ 0 ∧ q.repeating = true
  | .stuck => ∃ w ∈ t.front.waits, w.repeating = true
  | .member m pc _ => (∃ q ∈ t.front.entries, q.mask &&& m ≠ 0 ∧ q.repeating = true) ∨
      ∃ w ∈ t.front.waits, w.pc = pc ∧ w.repeating = true
  | .unchanged => False

/-! ### Slots (R190, R208, R333) -/

/-- What stands at a slot is an instruction of `n` words: the bits that it has fetched decode to it, or those that the
core's instruction cache holds, and it fits the launch's registers; behind a `rep` the next instruction's words are there
too. -/
def Stands (s : State) (x : Slot) (g : Group) (e : Entry) (i : Instr) (n : Nat) : Prop :=
  let c := s.core g.core
  let held (pc b : Nat) : Prop := ∃ w, c.codeBytes g.space pc 4 = .bytes w ∧
    c.codeBytes g.space pc (4 * wordsOf (w % 4)) = .bytes b
  ∃ b, decodeBits b = .ok i n ∧ i.fits g.count = true ∧
    (x.bits = some b ∨ (x.bits = none ∧ held e.pc.toNat b ∧
      ∀ q k, i = .rep q k → ∃ b', held (e.pc + 4).toNat b'))

/-- No register of a group holds an uncorrectable error (R356). -/
def NoRegisterFlaw (s : State) (gid : Nat) : Prop :=
  ∀ f ∈ s.flaws, (∀ l n, f ≠ .vector gid l n) ∧ (∀ n, f ≠ .uniform gid n) ∧ ∀ n, f ≠ .predicate gid n

/-! ### Return stacks in private memory (R42, R95, R232) -/

/-- The private words of a lane's spilled entry `d`. -/
def spillWords (i : Issue) (l d : Nat) : List DWord :=
  [i.grp.privateVa l ((i.grp.plimit.toNat : Int) - 2 * d - 2), i.grp.privateVa l ((i.grp.plimit.toNat : Int) - 2 * d - 1)]

/-- The lanes whose call spills, and those whose `ret` refills. -/
def spillLanes (i : Issue) : List Nat := (lanes i.active).filter fun l => decide (8 ≤ (i.grp.stackOf l).length)
def refillLanes (i : Issue) : List Nat :=
  (lanes i.active).filter fun l => decide (i.grp.stackOf l = [] ∧ i.grp.spilledOf l ≠ 0)

/-- The words of the lanes' entries translate through leaves that the core's translation cache holds. -/
def StackAllowed (s : State) (i : Issue) (acc : Access) (ls : List Nat) (depth : Nat → Nat) (pa : DWord → Nat)
    (st : DWord → Bool) : Prop :=
  ∀ l ∈ ls, ∀ va ∈ spillWords i l (depth l), canonical va = true ∧
    ∃ t c, (s.core i.grp.core).leafOf i.grp.space va.toNat = some t ∧
      s.classify t.size t.entry va.toNat acc = .ok (pa va) (st va) c

/-- The words that a call stores, lane by lane, of each lane's oldest entry the low word first; and those that a `ret`
reads. -/
def spilledWords (i : Issue) : List (DWord × Nat) :=
  (spillLanes i).flatMap fun l =>
    let old := ((i.grp.stackOf l).getD 7 0).toNat
    (spillWords i l (i.grp.spilledOf l)).zip [old % 2 ^ 32, old / 2 ^ 32]
def refilledWords (i : Issue) : List DWord := (refillLanes i).flatMap fun l => spillWords i l (i.grp.spilledOf l - 1)

/-- One word is stored, or read. -/
def spillOne (i : Issue) (pa : DWord → Nat) (st : DWord → Bool) (s : State) (w : DWord × Nat) : State :=
  s.coreWrite i.grp.core (pa w.1) (leBytes 4 w.2) (st w.1)
def refillOne (i : Issue) (pa : DWord → Nat) (st : DWord → Bool) (s : State) (va : DWord) : State :=
  (s.coreRead i.grp.core (pa va) 4 (st va)).1

/-- Each spilling lane's oldest entry goes to its two words. -/
def spillAll (s : State) (i : Issue) (pa : DWord → Nat) (st : DWord → Bool) : State :=
  (spilledWords i).foldl (spillOne i pa st) s

/-- Each refilling lane reads its two words. -/
def refillAll (s : State) (i : Issue) (pa : DWord → Nat) (st : DWord → Bool) : State × List (Nat × Nat) :=
  (refillLanes i).foldl (fun (s, out) l =>
    let (s, bs) := (spillWords i l (i.grp.spilledOf l - 1)).foldl (fun (s, bs) va =>
      let (s, more) := s.coreRead i.grp.core (pa va) 4 (st va)
      (s, bs ++ more)) (s, ([] : List Byte))
    (s, out ++ [(l, leNat bs)])) (s, [])

/-- Every word of a spill, or of a refill, lies in a line that can be read when its turn comes (R345, R356). -/
def SpillReadable (s : State) (i : Issue) (pa : DWord → Nat) (st : DWord → Bool) : Prop :=
  lostOf (fun s w => s.unreadableAt i.grp.core (pa w.1) 4) (spillOne i pa st) s (spilledWords i) = []
def RefillReadable (s : State) (i : Issue) (pa : DWord → Nat) (st : DWord → Bool) : Prop :=
  lostOf (fun s va => s.unreadableAt i.grp.core (pa va) 4) (refillOne i pa st) s (refilledWords i) = []

end Sys2Proof.Claims

open Sys2Proof Sys2Proof.Machine Sys2Proof.Claims

/-! ### Encoding (R190 to R208) -/

/-- Words written out from the manual's encodings decode to the instructions they stand for (R208, R231, R235, R239). -/
def Obligations.WrittenWordsDecode : Prop :=
  decodeBits 0x00003C04 = .ok (.nop .always) 1 ∧
  decodeBits 0x00003C20 = .ok (.exit .always) 1 ∧
  decodeBits 0x1190BC40 = .ok
    (.pand { g := .always, nb := true, na := false, pb := 3, pa := 2, pd := 1 }) 1 ∧
  decodeBits (0x00803CBD + 2 ^ 32 * 0x08000003 + 2 ^ 64 * 0x00002002) = .ok
    (.cmp { g := .always, sub := 2, la := 0, d := { uni := false, n := 0 }, a := .v 1, b := .v 3, c := .v 0,
            pd := 2, q := 0, t := .s32 }) 3 ∧
  decodeBits 0x00000000 = .illegalOp

/-- Decoding what `encode` writes gives the instruction back, for every well-formed instruction of the stream, with every
operand at every value (R190 to R208). -/
def Obligations.EncodedInstructionsDecode : Prop :=
  ∀ i : Instr, i.wellFormed = true → ∃ w n, encode i = some w ∧ decodeBits w = .ok i n ∧ w < 2 ^ (32 * n)

/-- Every word that decodes is the encoding of what it decodes to, for the instruction's length: no two encodings of one
length mean one instruction, and what decodes is well formed (R190, R201, R208). -/
def Obligations.DecodedInstructionsEncode : Prop :=
  ∀ w i n, decodeBits w = .ok i n → i.wellFormed = true ∧ encode i = some (w % 2 ^ (32 * n))

/-! ### The step -/

/-- An entry's words, as its slot has fetched them or as the core's instruction cache holds them, decode to an instruction
that the launch admits; where the entry is ready the step is `exec` of it, with the entry as the issuing one and its pass
count 0 (R36, R40). A repeating entry runs the instruction with its operands stepped (R204, R205). A slot whose entry is not
ready any more is dropped. That what the agenda names runs likewise, and that a lane instruction there is passed over, is
the model's own way to order the other agents (DESIGN CHOICE, log 8). -/
def Obligations.StepRunsTheDecodedInstruction : Prop :=
  (∀ (s : State) (x : Slot) (r : List Slot) (g : Group) (e : Entry) (i : Instr) (n : Nat),
    s.agenda = [] → s.slots = x :: r → s.groups.lookup x.group = some g → g.entryOf x.mask = some e →
    e.pc = x.pc → Stands s x g e i n →
    (∀ j, (e.repeating = false ∧ j = i) ∨ (e.repeating = true ∧ mayRepeat i g.count g.rep = true ∧
        i.repeated g.count (repSteps g.rep) (repDone g.rep) = some j) →
      e.hold = .free → (∀ f ∈ g.flights, f.mask &&& e.mask = 0) →
      (∀ t, g.trap = some t → ∀ q ∈ t.front.entries, ∀ k, q.hold ≠ .window k) →
      State.lacks { s with slots := r } (e.issue x.group g j n 0) j = false → NoRegisterFlaw s x.group →
      step s = exec j { s.onGroup x.group (fun h => h.onEntry x.mask fun q => { q with passes := 0, raised := none }) with
        slots := r, issue := some { x with words := n } }) ∧
    (e.hold ≠ .free ∨ (∃ f ∈ g.flights, f.mask &&& e.mask ≠ 0 ∧ f.left = 0) →
      step s = .next { s.onGroup x.group (fun h => h.onEntry x.mask fun q => { q with passes := q.passes + 1 }) with
        slots := r })) ∧
  ∀ (s : State) (i : Instr) (r : List Turn), s.agenda = .event i :: r →
    (i.form = none → step s = exec i { s with agenda := r, issue := none }) ∧
    (i.form.isSome = true → step s = .next { s with agenda := r })

/-- Every memory holds its bytes in canonical form after reset; the form is the model's own (log 2). -/
def Sys2Proof.Claims.ResetIsCanonical : Prop := State.reset.Canonical

/-- What the manual says of reset: stage 0 without `READY`, `$time` 0, the kernel launch counter at 0x8000_0000, a staging
region of 48 GiB, no group resident (R17, R55, R174, R354). That caches and queues are empty, each core is `Core.initial`
and a slice has 16 ways of cache is the model's choice (log 1). -/
def Sys2Proof.Claims.ResetLeaves : Prop :=
  State.reset.foreman.stage = 0 ∧ State.reset.ready = false ∧ State.reset.time = 0 ∧
  State.reset.nextLaunch = 0x80000000 ∧ State.reset.stagingGib = 48 ∧ State.reset.groups = [] ∧
  State.reset.grids = [] ∧ State.reset.queues = [] ∧
  ∀ n, State.reset.core n = Core.initial ∧ (State.reset.core n).l1 = [] ∧ (State.reset.core n).tlb = [] ∧
    (State.reset.core n).icache = [] ∧ (State.reset.slice n).supers = [] ∧ (State.reset.slice n).ways = 16

/-- What reset leaves, and every memory in canonical form: all of the statements just given. -/
def Obligations.ResetState : Prop :=
  Sys2Proof.Claims.ResetIsCanonical ∧ Sys2Proof.Claims.ResetLeaves

/-- Every step keeps every memory in canonical form: rising addresses, no byte that an unlisted address reads as. The form
is the model's own way to hold byte-addressed memory (log 2). -/
def Obligations.StepKeepsMemoryCanonical : Prop :=
  ∀ s t : State, s.Canonical → step s = .next t → t.Canonical

/-! ### Results of the lane and uniform instructions -/

/-- Integer arithmetic: each active lane receives the exact result, wrapped or clamped (R69, R70, R238, R240). -/
def Sys2Proof.Claims.ArithmeticResults : Prop :=
  ∀ (c : Instr) (r : Rule) (s : State) (i : Issue), arithmetic c = some r → c.wellFormed = true →
    s.issuing r.guard = some i → LaneResult s i r.ty r.dest (r.value i) (exec c s)

/-- Logic, shifts, counts and bit fields, bit by bit (R241, R242). -/
def Sys2Proof.Claims.BitwiseResults : Prop :=
  ∀ (c : Instr) (r : Rule) (s : State) (i : Issue), bitwise c = some r → c.wellFormed = true →
    s.issuing r.guard = some i → LaneResult s i r.ty r.dest (r.value i) (exec c s)

/-- Selection, moves and predicates read into the lanes (R236, R241, R243). -/
def Sys2Proof.Claims.MoveResults : Prop :=
  ∀ (c : Instr) (r : Rule) (s : State) (i : Issue), moves c = some r → c.wellFormed = true →
    s.issuing r.guard = some i → LaneResult s i r.ty r.dest (r.value i) (exec c s)

/-- Results and frame of the integer instructions on the lanes: all of the statements just given. -/
def Obligations.IntegerResults : Prop :=
  Sys2Proof.Claims.ArithmeticResults ∧ Sys2Proof.Claims.BitwiseResults ∧ Sys2Proof.Claims.MoveResults

/-- Floating arithmetic: the exact value, rounded once (R76, R245, R246). -/
def Sys2Proof.Claims.FloatingResults : Prop :=
  ∀ (c : Instr) (r : Rule) (s : State) (i : Issue), floating c = some r → c.wellFormed = true →
    s.issuing r.guard = some i → LaneResult s i r.ty r.dest (r.value i) (exec c s)

/-- Special functions and conversions (R249, R250). The special functions' values are the model's own: R247 bounds their
errors and gives no bits, and these bounds are not stated here (log 11). -/
def Sys2Proof.Claims.ConversionResults : Prop :=
  ∀ (c : Instr) (r : Rule) (s : State) (i : Issue), converting c = some r → c.wellFormed = true →
    s.issuing r.guard = some i → LaneResult s i r.ty r.dest (r.value i) (exec c s)

/-- Packing, dot products and packed halves (R251 to R253). That `fdot2` takes a small immediate as its 32 sign-extended bits,
whose halves are the elements, is the model's choice (log 94). -/
def Sys2Proof.Claims.PackedResults : Prop :=
  ∀ (c : Instr) (r : Rule) (s : State) (i : Issue), packing c = some r → c.wellFormed = true →
    s.issuing r.guard = some i → LaneResult s i r.ty r.dest (r.value i) (exec c s)

/-- Results and frame of the floating, converting and packed instructions: all of the statements just given. -/
def Obligations.FloatResults : Prop :=
  Sys2Proof.Claims.FloatingResults ∧ Sys2Proof.Claims.ConversionResults ∧ Sys2Proof.Claims.PackedResults

/-- The uniform instructions write their register once, where a lane is active (R192, R228, R244, R248). That a result of type
`.b32` leaves zeros in the upper half of the register is the model's choice (log 81). -/
def Obligations.UniformResults : Prop :=
  ∀ (c : Instr) (r : Rule) (s : State) (i : Issue), uniform c = some r → c.wellFormed = true →
    s.issuing r.guard = some i → UniResult s i r.ty r.dest (r.value i 0) (exec c s)

/-- The predicate-writing instructions write PD of each active lane (R229, R235, R236, R239, R246). -/
def Obligations.PredicateResults : Prop :=
  ∀ (c : Instr) (r : PRule) (s : State) (i : Issue), predicates c = some r → c.wellFormed = true →
    s.issuing r.guard = some i → PredResult s i r.dest (r.value i) (exec c s)

/-- The fixed results of R70 in the named instructions: the integer arithmetic of the lanes and its uniform forms, shifts left,
quotients and remainders, none of which traps (a `.sat` form clamps). The combining units, `redx`, `scan`, atomics and windows
have their own statements. That a uniform result of type `.b32` leaves zeros in the upper half of the register is the model's
choice (log 81). -/
def Obligations.WrappingAndDivision : Prop :=
  (∀ (x : XA) (s : State) (i : Issue) (c : Instr) (f : Int → Int → Int → Int),
    (c, f) ∈ ([(.mad x, fun a b c => a * b + c), (.sad x, fun a b c => |a - b| + c), (.abs x, fun a _ _ => |a|),
      (.neg x, fun a _ _ => -a)] : List (Instr × (Int → Int → Int → Int))) →
    x.q.getLsbD 0 = false → c.wellFormed = true → s.issuing x.g = some i →
    LaneResult s i x.t x.d.n.toNat
      (fun l => (f (i.int x.t l x.a) (i.int x.t l x.b) (i.int x.t l x.c) % 2 ^ x.t.bits).toNat) (exec c s)) ∧
  (∀ (x : XA) (s : State) (i : Issue), x.q.getLsbD 0 = false → (Instr.umad x).wellFormed = true →
    s.issuing x.g = some i →
    UniResult s i x.t x.d.n.toNat
      ((i.int x.t 0 x.a * i.int x.t 0 x.b + i.int x.t 0 x.c) % 2 ^ x.t.bits).toNat (exec (.umad x) s)) ∧
  (∀ (x : XA) (s : State) (i : Issue), (Instr.madw x).wellFormed = true → s.issuing x.g = some i →
    LaneResult s i .n64 x.d.n.toNat
      (fun l => ((i.int x.t l x.a * i.int x.t l x.b + i.raw .n64 l x.c) % 2 ^ 64).toNat) (exec (.madw x) s)) ∧
  (∀ (x : XA) (s : State) (i : Issue), (Instr.lea x).wellFormed = true → s.issuing x.g = some i →
    LaneResult s i .n64 x.d.n.toNat
      (fun l => ((i.raw .n64 l x.a + i.int (if x.q.getLsbD 3 then .n32 else .s32) l x.b * 2 ^ (x.q.toNat % 8)) %
        2 ^ 64).toNat) (exec (.lea x) s)) ∧
  (∀ (x : XA) (s : State) (i : Issue) (c : Instr) (f : Int → Int → Int),
    (c, f) ∈ ([(.uadd x, fun a b => a + b), (.usub x, fun a b => a - b), (.umul x, fun a b => a * b)] :
      List (Instr × (Int → Int → Int))) →
    x.q.getLsbD 0 = false → c.wellFormed = true → s.issuing x.g = some i →
    UniResult s i x.t x.d.n.toNat (f (i.int x.t 0 x.a) (i.int x.t 0 x.b) % 2 ^ x.t.bits).toNat (exec c s)) ∧
  (∀ (x : XA) (s : State) (i : Issue), (Instr.ushl x).wellFormed = true → s.issuing x.g = some i →
    UniResult s i x.t x.d.n.toNat (i.raw x.t 0 x.a * 2 ^ i.raw .n32 0 x.b % 2 ^ x.t.bits) (exec (.ushl x) s)) ∧
  (∀ (x : XA) (s : State) (i : Issue), (Instr.udiv x).wellFormed = true → s.issuing x.g = some i →
    ∃ r, UniResult s i x.t x.d.n.toNat r (exec (.udiv x) s) ∧
      (i.int x.t 0 x.b = 0 → r = 2 ^ x.t.bits - 1) ∧
      (x.t.signed = true → i.int x.t 0 x.a = x.t.minInt → i.int x.t 0 x.b = -1 → r = x.t.wrap x.t.minInt)) ∧
  (∀ (x : XA) (s : State) (i : Issue), (Instr.urem x).wellFormed = true → s.issuing x.g = some i →
    ∃ r, UniResult s i x.t x.d.n.toNat r (exec (.urem x) s) ∧
      (i.int x.t 0 x.b = 0 → r = x.t.wrap (i.int x.t 0 x.a)) ∧
      (x.t.signed = true → i.int x.t 0 x.a = x.t.minInt → i.int x.t 0 x.b = -1 → r = 0)) ∧
  (∀ (x : XA) (s : State) (i : Issue) (c : Instr) (f : Int → Int → Int),
    (c, f) ∈ ([(.add x, fun a b => a + b), (.sub x, fun a b => a - b), (.mul x, fun a b => a * b)] :
      List (Instr × (Int → Int → Int))) →
    x.q.getLsbD 0 = false → c.wellFormed = true → s.issuing x.g = some i →
    LaneResult s i x.t x.d.n.toNat
      (fun l => (f (i.int x.t l x.a) (i.int x.t l x.b) % 2 ^ x.t.bits).toNat) (exec c s)) ∧
  (∀ (x : XA) (s : State) (i : Issue), (Instr.shl x).wellFormed = true → s.issuing x.g = some i →
    LaneResult s i x.t x.d.n.toNat
      (fun l => i.raw x.t l x.a * 2 ^ i.raw .n32 l x.b % 2 ^ x.t.bits) (exec (.shl x) s)) ∧
  (∀ (x : XA) (s : State) (i : Issue), (Instr.div x).wellFormed = true → s.issuing x.g = some i →
    ∃ f, LaneResult s i x.t x.d.n.toNat f (exec (.div x) s) ∧
      ∀ l, (i.int x.t l x.b = 0 → f l = 2 ^ x.t.bits - 1) ∧
        (x.t.signed = true → i.int x.t l x.a = x.t.minInt → i.int x.t l x.b = -1 → f l = x.t.wrap x.t.minInt)) ∧
  ∀ (x : XA) (s : State) (i : Issue), (Instr.rem x).wellFormed = true → s.issuing x.g = some i →
    ∃ f, LaneResult s i x.t x.d.n.toNat f (exec (.rem x) s) ∧
      ∀ l, (i.int x.t l x.b = 0 → f l = x.t.wrap (i.int x.t l x.a)) ∧
        (x.t.signed = true → i.int x.t l x.a = x.t.minInt → i.int x.t l x.b = -1 → f l = 0)

/-- The notable encodings of the 8-bit formats, each with its negative form (R73). -/
def Obligations.NotableBytes : Prop :=
  (∀ p ∈ ([(Flt.e4m3, 0x00, 0), (.e4m3, 0x01, 1 / 512), (.e4m3, 0x07, 7 / 8 / 64), (.e4m3, 0x08, 1 / 64),
      (.e4m3, 0x38, 1), (.e4m3, 0x7E, 448), (.e5m2, 0x00, 0), (.e5m2, 0x01, 1 / 65536),
      (.e5m2, 0x03, 3 / 4 / 16384), (.e5m2, 0x04, 1 / 16384), (.e5m2, 0x3C, 1), (.e5m2, 0x7B, 57344)] :
      List (Flt × Nat × Rat)),
    ∃ m e, p.1.value p.2.1 = .fin false m e ∧ (m : Rat) * 2 ^ e = p.2.2 ∧
      p.1.value (p.2.1 + 0x80) = .fin true m e) ∧
  (∀ b < 256, Flt.e4m3.value b = .nan ↔ b = 0x7F ∨ b = 0xFF) ∧
  (∀ b < 256, ∀ n, Flt.e4m3.value b ≠ .inf n) ∧
  (∀ b < 256, Flt.e5m2.value b = .nan ↔ (0x7D ≤ b ∧ b ≤ 0x7F) ∨ (0xFD ≤ b ∧ b ≤ 0xFF)) ∧
  Flt.e5m2.value 0x7C = .inf false ∧ Flt.e5m2.value 0xFC = .inf true ∧
  Flt.e4m3.nan = 0x7F ∧ Flt.e5m2.nan = 0x7E

/-- A result that is NaN is the default NaN of its format, whatever the operands were (R74, R245, R246). -/
def Sys2Proof.Claims.NanResultsAreDefault : Prop :=
  Flt.f32.nan = 0x7FC00000 ∧ Flt.f16.nan = 0x7E00 ∧ Flt.bf16.nan = 0x7FC0 ∧ Flt.e4m3.nan = 0x7F ∧
  Flt.e5m2.nan = 0x7E ∧
  ∀ f ∈ [Flt.f32, Flt.f16, Flt.bf16, Flt.e4m3, Flt.e5m2], ∀ a b c r,
    r ∈ [f.add a b, f.sub a b, f.mul a b, f.fma a b c, f.min a b, f.max a b, f.abs a, f.neg a, f.div a b,
      f.sqrt a, f.rcp a, f.rsqrt a, f.round 0 a, withSign f 0 a b] → f.value r = .nan → r = f.nan

/-- Rounding a value that the format holds gives an encoding of the same value (R71, R72, R76). -/
def Sys2Proof.Claims.RoundingKeepsWhatIsExact : Prop :=
  ∀ f ∈ [Flt.f32, Flt.f16, Flt.bf16, Flt.e4m3, Flt.e5m2], ∀ x < 2 ^ (f.e + f.m + 1),
    f.value x ≠ .nan → f.rn (f.value x) = x

/-- Magnitude number `k` of a floating format, as if its exponent had no upper limit: below `2^m` the multiples of the smallest
subnormal, then `2^m` numbers to each exponent (R71, R72, R75). -/
def Sys2Proof.Claims.gridAt (f : Flt) (k : Nat) : Rat :=
  let low : Int := 1 - (2 ^ (f.e - 1) - 1) - f.m
  if k < 2 ^ f.m then (k : Rat) * 2 ^ low else ((k % 2 ^ f.m + 2 ^ f.m : Nat) : Rat) * 2 ^ (low + (k / 2 ^ f.m : Nat) - 1)

/-- Number `q` of the format is the nearest one to a magnitude; of two that are equally near it is the larger one where ties go
away from zero, and otherwise the even one (R76, R78). -/
def Sys2Proof.Claims.NearestAt (f : Flt) (away : Bool) (x : Rat) (q : Nat) : Prop :=
  (∀ k, |Claims.gridAt f q - x| ≤ |Claims.gridAt f k - x|) ∧
  ∀ k, k ≠ q → |Claims.gridAt f k - x| = |Claims.gridAt f q - x| → if away then k < q else q % 2 = 0

/-- A floating result in FP32, FP16 or BF16 is the nearest number, ties to even, subnormal numbers kept; a magnitude beyond the
largest finite one after rounding gives infinity of its sign (R75, R76). -/
def Sys2Proof.Claims.RoundingIsToNearest : Prop :=
  ∀ p ∈ [(Flt.f32, 0x7F800000), (.f16, 0x7C00), (.bf16, 0x7F80)], ∀ (neg : Bool) (mag : Nat) (exp : Int),
    ∃ q, Claims.NearestAt p.1 false ((mag : Rat) * 2 ^ exp) q ∧
      p.1.rn (.fin neg mag exp) = Min.min q p.2 + if neg then 2 ^ (p.1.e + p.1.m) else 0

/-- The sum and the product of two finite values are exact; a sum of zero is −0 only where both operands are. A NaN operand, the
difference of infinities and zero times infinity give NaN; any other infinity stays one (R76). -/
def Sys2Proof.Claims.SumsAndProductsAreExact : Prop :=
  (∀ v : Val, Val.nan.add v = .nan ∧ v.add .nan = .nan ∧ Val.nan.mul v = .nan ∧ v.mul .nan = .nan) ∧
  (∀ a b : Bool, (Val.inf a).add (.inf b) = (if a = b then .inf a else .nan) ∧ (Val.inf a).mul (.inf b) = .inf (a != b)) ∧
  (∀ (a n : Bool) (m : Nat) (e : Int), (Val.inf a).add (.fin n m e) = .inf a ∧ (Val.fin n m e).add (.inf a) = .inf a ∧
    (Val.inf a).mul (.fin n m e) = (if m = 0 then .nan else .inf (a != n)) ∧
    (Val.fin n m e).mul (.inf a) = if m = 0 then .nan else .inf (n != a)) ∧
  ∀ (na nb : Bool) (ma mb : Nat) (ea eb : Int),
    let val (n : Bool) (m : Nat) (e : Int) : Rat := (if n then -(m : Rat) else m) * 2 ^ e
    (∃ n m e, (Val.fin na ma ea).add (.fin nb mb eb) = .fin n m e ∧ val n m e = val na ma ea + val nb mb eb ∧
      (m = 0 → n = (na && nb))) ∧
    ∃ n m e, (Val.fin na ma ea).mul (.fin nb mb eb) = .fin n m e ∧ val n m e = val na ma ea * val nb mb eb ∧
      n = (na != nb)

/-- A conversion to a floating type rounds to nearest, ties away from zero in the 8-bit formats and to even in the others; it
keeps the sign of what rounds to zero; too large a value, an infinity and a NaN give what R79 lists (R78 to R80). -/
def Sys2Proof.Claims.FloatConversionsRound : Prop :=
  ∀ (rz toInf : Bool), ∀ p ∈ ([(.f32, 0x7F800000, 0x7F800000, 0x7FC00000), (.f16, 0x7C00, 0x7C00, 0x7E00),
      (.bf16, 0x7F80, 0x7F80, 0x7FC0), (.e4m3, 0x7F, 0x7E, 0x7F), (.e5m2, 0x7C, if toInf then 0x7C else 0x7B, 0x7E)] :
      List (Ty × Nat × Nat × Nat)),
    let sign (neg : Bool) : Nat := if neg then 2 ^ (p.1.bits - 1) else 0
    convertVal p.1 rz toInf .nan = p.2.2.2 ∧
    (∀ neg, convertVal p.1 rz toInf (.inf neg) = p.2.2.1 + sign neg) ∧
    ∀ (neg : Bool) (mag : Nat) (exp : Int), ∃ q, Claims.NearestAt p.1.flt (decide (p.1.bits = 8)) ((mag : Rat) * 2 ^ exp) q ∧
      convertVal p.1 rz toInf (.fin neg mag exp) = (if q < p.2.1 then q else p.2.2.1) + sign neg

/-- A conversion to an integer type rounds to nearest, ties away from zero in the 8-bit types and to even in the others, or
with `.rz` toward zero; what lies outside the range of the type, and an infinity, gives its nearer end, and a NaN 0 (R78,
R79). -/
def Sys2Proof.Claims.IntegerConversionsRound : Prop :=
  ∀ (t : Ty) (rz toInf : Bool), t.floating = false →
    let least : Int := if t.signed then -2 ^ (t.bits - 1) else 0
    let most : Int := if t.signed then 2 ^ (t.bits - 1) - 1 else 2 ^ t.bits - 1
    let is (v : Val) (z : Int) : Prop := convertVal t rz toInf v < 2 ^ t.bits ∧
      t.toInt (convertVal t rz toInf v) = Max.max least (Min.min most z)
    is .nan 0 ∧ is (.inf false) most ∧ is (.inf true) least ∧
    ∀ (neg : Bool) (mag : Nat) (exp : Int), let x : Rat := (if neg then -(mag : Rat) else mag) * 2 ^ exp
      ∃ z : Int, is (.fin neg mag exp) z ∧
        (rz = true → |(z : Rat)| ≤ |x| ∧ |x| < |(z : Rat)| + 1 ∧ 0 ≤ z * x) ∧
        (rz = false → (∀ y : Int, |z - x| ≤ |y - x|) ∧
          ∀ y : Int, y ≠ z → |y - x| = |z - x| → if t.bits = 8 then |y| < |z| else z % 2 = 0)

/-- NaN results are the default NaN; rounding keeps what is exact, goes to nearest with ties to even, and overflows to infinity;
sums and products are exact before it; conversions round and saturate as their destination says: all of the statements just
given. -/
def Obligations.RoundingRules : Prop :=
  Sys2Proof.Claims.NanResultsAreDefault ∧ Sys2Proof.Claims.RoundingKeepsWhatIsExact ∧
  Sys2Proof.Claims.RoundingIsToNearest ∧ Sys2Proof.Claims.SumsAndProductsAreExact ∧
  Sys2Proof.Claims.FloatConversionsRound ∧ Sys2Proof.Claims.IntegerConversionsRound

/-- Comparisons: with a NaN operand every condition is false but not-equal; +0 and −0 compare equal (R77). -/
def Obligations.UnorderedComparisons : Prop :=
  ∀ (x : XA) (s : State) (i : Issue), (Instr.fcmp x).wellFormed = true → s.issuing x.g = some i →
    ∃ v, PredResult s i x.pd.toNat v (exec (.fcmp x) s) ∧ ∀ l,
      (x.t.flt.value (i.raw x.t l x.a) = .nan ∨ x.t.flt.value (i.raw x.t l x.b) = .nan →
        v l = decide (x.sub = 1)) ∧
      ∀ na nb ea eb, x.t.flt.value (i.raw x.t l x.a) = .fin na 0 ea → x.t.flt.value (i.raw x.t l x.b) = .fin nb 0 eb →
        v l = decide (x.sub = 0 ∨ x.sub = 3 ∨ x.sub = 5)

/-! ### Positions -/

/-- An instruction that transfers no control moves its entry's lanes to the following instruction at the entry's priority
and leaves every other lane where it stands; a repeating entry counts the repeat and stays, until after the last one
`$rep` is 0 and it moves past (R35, R205). With which entries it combines there is not said here; that an entry sent back by
trap return combines with none is the model's choice (log 96). -/
def Sys2Proof.Claims.EntriesMoveOn : Prop :=
  ∀ (s : State) (gd : Guard) (i : Issue) (e : Entry), s.issuing gd = some i → i.stands e →
    (e.repeating = false → i.Places (fun _ => i.stay e) i.moved.front ∧ i.moved.rep = i.grp.rep) ∧
    (e.repeating = true → repDone i.grp.rep < repLast i.grp.rep →
      i.moved.front = i.grp.front ∧ i.moved.rep = i.grp.rep + 1) ∧
    (e.repeating = true → repLast i.grp.rep ≤ repDone i.grp.rep →
      i.Places (fun _ => i.stay e) i.moved.front ∧ i.moved.rep = 0) ∧
    i.moved = { i.grp with
      front := { i.grp.front with entries := i.moved.front.entries }, rep := i.moved.rep, flights := i.moved.flights }

/-- `nop` completes in every state; so does an instruction of those named whose guard is false in every lane: it has no
effect, and its entry goes on (R192). -/
def Sys2Proof.Claims.NothingActs : Prop :=
  ∀ (gd : Guard) (s : State) (i : Issue), s.issuing gd = some i →
    MovesOn s i (exec (.nop gd) s) ∧
    (i.active = 0 → ∀ n, ∀ c ∈ [Instr.trap gd n, .tret gd, .tretSkip gd, .waitdep gd, .trigger gd, .yield gd, .nfence gd,
      .permit gd, .permitRel gd], MovesOn s i (exec c s))

/-- `rep` before an instruction that may be repeated sets the repeat state and makes the following instruction the repeated
one; before any other it traps, before words that do not decode too (DEDUCED, log 39); it waits while the words behind it
are not in the instruction cache (R204, R205, R208). -/
def Sys2Proof.Claims.RepStartsRepeats : Prop :=
  ∀ (steps : BitVec 4) (count : BitVec 6) (s : State) (i : Issue) (e : Entry), s.issuing .always = some i →
    i.stands e →
    (s.nextRepeats i (steps ++ count ++ (0 : BitVec 6)) = true → i.slot.mask ≠ 0 →
      Completes (exec (.rep steps count) s) fun s' => ∃ g, i.Changes s s' g ∧
        g = { i.placed g.front.entries with rep := steps ++ count ++ (0 : BitVec 6) } ∧
        i.Places (fun _ => i.stay e) g.front ∧
        ∃ q ∈ g.front.entries, q.mask = i.slot.mask ∧ q.repeating = true) ∧
    ((∃ va, s.follower i = .missing va) → exec (.rep steps count) s = .next s) ∧
    ((∀ va, s.follower i ≠ .missing va) → s.nextRepeats i (steps ++ count ++ (0 : BitVec 6)) = false →
      Traps s i .illegalField i.active i.slot.pc (exec (.rep steps count) s))

/-- `sset $rep`: a bit above 15, or more repeats completed than n − 1, traps; 0 changes nothing; any other value becomes
the repeat state of the next instruction, in place of one that another entry has (DEDUCED, log 40) (R205, R330). -/
def Sys2Proof.Claims.SsetWritesRep : Prop :=
  ∀ (x : XS) (s : State) (i : Issue) (e : Entry), s.issuing x.g = some i → i.stands e →
    (i.active = 0 → MovesOn s i (exec (.sset x) s)) ∧
    (i.active ≠ 0 → 2 ^ 16 ≤ i.scalar x.a ∨ i.scalar x.a / 64 % 64 < i.scalar x.a % 64 →
      Traps s i .illegalField i.active i.slot.pc (exec (.sset x) s)) ∧
    (i.scalar x.a = 0 → MovesOn s i (exec (.sset x) s)) ∧
    (i.active ≠ 0 → i.slot.mask ≠ 0 → 0 < i.scalar x.a → i.scalar x.a < 2 ^ 16 →
      i.scalar x.a % 64 ≤ i.scalar x.a / 64 % 64 →
      Completes (exec (.sset x) s) fun s' => ∃ g, i.Changes s s' g ∧
        g = { i.placed g.front.entries with rep := BitVec.ofNat 16 (i.scalar x.a) } ∧
        i.Places (fun _ => i.stay e) g.front ∧
        ∃ q ∈ g.front.entries, q.mask = i.slot.mask ∧ q.repeating = true)

/-- How entries move on, and how repeats begin, count and end: all of the statements just given. -/
def Obligations.EntriesAdvanceAndRepeat : Prop :=
  Sys2Proof.Claims.EntriesMoveOn ∧ Sys2Proof.Claims.NothingActs ∧ Sys2Proof.Claims.RepStartsRepeats ∧
  Sys2Proof.Claims.SsetWritesRep

/-- Branches: the lanes that take them stand at the target with the named priority, the others go on; an indirect target
that is no word address below 2^48 traps (R35, R200, R231, R232). -/
def Obligations.BranchesMoveLanes : Prop :=
  ∀ (c : Instr) (r : BRule) (s : State) (i : Issue) (e : Entry), branches c = some r →
    s.issuing r.ext.g = some i → i.stands e →
    ((takesIndirect c = true → ∀ l, i.active.getLsbD l = true → badTarget (r.target i l) = false) →
      Jumps s i (fun l => if i.active.getLsbD l && r.taken i l then some (r.target i l, r.ext.prio) else i.stay e)
        (exec c s)) ∧
    (takesIndirect c = true →
      TrapsWhere s i .protection (fun l => badTarget (r.target i l)) (r.target i) (exec c s))

/-- Calls: each active lane pushes the address of the following instruction and stands at its target, while its hardware
stack has room; targets are checked, and a spill below private word 0 traps with nothing pushed (R42, R232). -/
def Sys2Proof.Claims.CallsPushReturns : Prop :=
  ∀ (c : Instr) (r : BRule) (s : State) (i : Issue) (e : Entry), calls c = some r →
    s.issuing r.ext.g = some i → i.stands e →
    ((takesIndirect c = true → ∀ l, i.active.getLsbD l = true → badTarget (r.target i l) = false) →
      (∀ l, i.active.getLsbD l = true → (i.grp.stackOf l).length < 8) →
      Completes (exec c s) fun s' => ∃ g, i.Changes s s' g ∧
        g = { i.placed g.front.entries with returns := g.returns } ∧
        i.Places (fun l => if i.active.getLsbD l then some (r.target i l, r.ext.prio) else i.stay e) g.front ∧
        ∀ l, g.stackOf l = if i.active.getLsbD l then e.following i.slot :: i.grp.stackOf l else i.grp.stackOf l) ∧
    ((takesIndirect c = true → ∀ l, i.active.getLsbD l = true → badTarget (r.target i l) = false) →
      TrapsWhere s i .privateLimit
        (fun l => decide (8 ≤ (i.grp.stackOf l).length) && decide (i.grp.plimit.toNat < 2 * i.grp.spilledOf l + 2))
        (fun l => i.grp.privateVa l (i.grp.plimit.toNat - 2 * i.grp.spilledOf l - 2)) (exec c s)) ∧
    (takesIndirect c = true →
      TrapsWhere s i .protection (fun l => badTarget (r.target i l)) (r.target i) (exec c s))

/-- A push onto a full hardware stack keeps the eight newest entries and counts the spilled one (R42). -/
def Sys2Proof.Claims.FullStacksSpill : Prop :=
  ∀ (g : Group) (l : Nat) (a : DWord), (g.stackOf l).length = 8 →
    (g.pushReturn l a).stackOf l = a :: (g.stackOf l).take 7 ∧
    (g.pushReturn l a).spilledOf l = g.spilledOf l + 1 ∧
    ∀ k, k ≠ l → (g.pushReturn l a).stackOf k = g.stackOf k ∧ (g.pushReturn l a).spilledOf k = g.spilledOf k

/-- `ret`: a lane with a return entry in hardware pops it and stands there; a lane with none at all stops being live
(R31, R42, R232). -/
def Sys2Proof.Claims.ReturnsPop : Prop :=
  ∀ (gd : Guard) (prio : BitVec 8) (s : State) (i : Issue) (e : Entry), s.issuing gd = some i → i.stands e →
    quiet i.grp →
    (∀ l, i.active.getLsbD l = true → i.grp.stackOf l = [] → i.grp.spilledOf l = 0) →
    Completes (exec (.ret gd prio) s) fun s' => ∃ g, i.Changes s s' g ∧
      g = { i.placed g.front.entries with returns := g.returns, live := g.live } ∧
      i.Places (fun l => if i.active.getLsbD l then (i.grp.stackOf l).head?.map fun a => (a, prio) else i.stay e)
        g.front ∧
      (∀ l, g.stackOf l = if i.active.getLsbD l then (i.grp.stackOf l).tail else i.grp.stackOf l) ∧
      ∀ l, l < 64 → g.live.getLsbD l =
        (i.grp.live.getLsbD l && !(i.active.getLsbD l && decide (i.grp.stackOf l = [])))

/-- `exit`: each active lane stops being live and stands nowhere; the others go on (R31, R232). -/
def Sys2Proof.Claims.ExitEndsLanes : Prop :=
  ∀ (gd : Guard) (s : State) (i : Issue) (e : Entry), s.issuing gd = some i → i.stands e → quiet i.grp →
    Completes (exec (.exit gd) s) fun s' => ∃ g, i.Changes s s' g ∧
      g = { i.placed g.front.entries with live := g.live } ∧
      i.Places (fun l => if i.active.getLsbD l then none else i.stay e) g.front ∧
      ∀ l, l < 64 → g.live.getLsbD l = (i.grp.live.getLsbD l && !i.active.getLsbD l)

/-- The end of lanes sets parked lanes free: an `exit`, and a `ret` in lanes with no return entry at all, end their lanes, and
every parked lane that waited for no other live one leaves, those of one address together, at the highest priority they
named (R31, R43). -/
def Sys2Proof.Claims.EndsRelease : Prop :=
  ∀ (gd : Guard) (s : State) (i : Issue) (e : Entry), s.issuing gd = some i → i.stands e →
    i.grp.front.waits = [] → (∀ p ∈ i.grp.front.parked, p.lane < 64) →
    let leaves (res : Result) (gone : LaneMask) (stack : Nat → List DWord) (pos : Nat → Option (DWord × BitVec 8)) : Prop :=
      Completes res fun s' => ∃ g kept, i.Changes s s' g ∧
        g = { i.placed g.front.entries with
          returns := g.returns, live := i.grp.live &&& ~~~gone
          front := { i.grp.front with entries := g.front.entries, parked := g.front.parked } } ∧
        (∀ l, g.stackOf l = stack l) ∧ i.Places pos { g.front with entries := kept } ∧
        Released i.grp.width (i.grp.live &&& ~~~gone) i.grp.front.parked kept g.front
    leaves (exec (.exit gd) s) i.active i.grp.stackOf (fun l => if i.active.getLsbD l then none else i.stay e) ∧
    ∀ prio, (∀ l, i.active.getLsbD l = true → i.grp.stackOf l = [] → i.grp.spilledOf l = 0) →
      leaves (exec (.ret gd prio) s) (maskOf ((lanes i.active).filter fun l => decide (i.grp.stackOf l = [])))
        (fun l => if i.active.getLsbD l then (i.grp.stackOf l).tail else i.grp.stackOf l)
        (fun l => if i.active.getLsbD l then (i.grp.stackOf l).head?.map fun a => (a, prio) else i.stay e)

/-- A call with full hardware stacks stores the oldest entry of each to its lane's two private words, and counts it
spilled; the newest eight stay (R42, R95, R232). -/
def Sys2Proof.Claims.FullCallsStore : Prop :=
  ∀ (c : Instr) (r : BRule) (s : State) (i : Issue) (e : Entry) (pa : DWord → Nat) (st : DWord → Bool),
    calls c = some r → s.issuing r.ext.g = some i → i.stands e →
    (takesIndirect c = true → ∀ l, i.active.getLsbD l = true → badTarget (r.target i l) = false) →
    (∀ l ∈ spillLanes i, 2 * i.grp.spilledOf l + 2 ≤ i.grp.plimit.toNat) →
    StackAllowed s i .write (spillLanes i) i.grp.spilledOf pa st → SpillReadable s i pa st →
    Completes (exec c s) fun s' => ∃ g, i.Changes (spillAll s i pa st) s' g ∧
      g = { i.placed g.front.entries with returns := g.returns, spilled := g.spilled } ∧
      i.Places (fun l => if i.active.getLsbD l then some (r.target i l, r.ext.prio) else i.stay e) g.front ∧
      ∀ l, g.stackOf l = (if i.active.getLsbD l then
          e.following i.slot :: (if l ∈ spillLanes i then (i.grp.stackOf l).take 7 else i.grp.stackOf l)
        else i.grp.stackOf l) ∧
        g.spilledOf l = i.grp.spilledOf l + (if l ∈ spillLanes i then 1 else 0)

/-- `ret` in lanes whose hardware stack is empty and that have spilled entries: each goes where the newest of these, read
from its two private words, says, and has one spilled entry less (R42, R95, R232). -/
def Sys2Proof.Claims.ReturnsRefill : Prop :=
  ∀ (gd : Guard) (prio : BitVec 8) (s : State) (i : Issue) (e : Entry) (pa : DWord → Nat) (st : DWord → Bool),
    s.issuing gd = some i → i.stands e → quiet i.grp →
    StackAllowed s i .readOwn (refillLanes i) (fun l => i.grp.spilledOf l - 1) pa st → RefillReadable s i pa st →
    Completes (exec (.ret gd prio) s) fun s' => ∃ g, i.Changes (refillAll s i pa st).1 s' g ∧
      g = { i.placed g.front.entries with returns := g.returns, spilled := g.spilled, live := g.live } ∧
      i.Places (fun l => if i.active.getLsbD l then
          (if l ∈ refillLanes i then ((refillAll s i pa st).2.lookup l).map fun a => (BitVec.ofNat 64 a, prio)
           else (i.grp.stackOf l).head?.map fun a => (a, prio))
        else i.stay e) g.front ∧
      ∀ l, g.spilledOf l = i.grp.spilledOf l - (if l ∈ refillLanes i then 1 else 0) ∧
        g.stackOf l = if i.active.getLsbD l then (i.grp.stackOf l).tail else i.grp.stackOf l

/-- Calls push, returns pop, full stacks spill to private memory and are refilled from it, exit ends lanes, and ended lanes
set parked ones free: all of the statements just given. -/
def Obligations.CallsAndReturns : Prop :=
  Sys2Proof.Claims.CallsPushReturns ∧ Sys2Proof.Claims.FullStacksSpill ∧ Sys2Proof.Claims.ReturnsPop ∧
  Sys2Proof.Claims.FullCallsStore ∧ Sys2Proof.Claims.ReturnsRefill ∧ Sys2Proof.Claims.ExitEndsLanes ∧
  Sys2Proof.Claims.EndsRelease

/-- `join`: the lanes park with the target, priority and mask they read; while a named live lane is elsewhere they stay
parked; when all named live lanes arrive together they stand at the target with the priority; a mask that omits an
arriving lane traps (R43). -/
def Sys2Proof.Claims.JoinParksAndReleases : Prop :=
  ∀ (x : XC) (s : State) (i : Issue) (e : Entry), s.issuing x.g = some i → i.stands e → quiet i.grp →
    let m := i.uni x.a &&& i.grp.lanesAll
    TrapsWhere s i .memberMask (fun l => !m.getLsbD l) (fun _ => i.slot.pc) (exec (.join x) s) ∧
    (i.active &&& ~~~m = 0 → m &&& i.grp.live &&& ~~~i.active ≠ 0 →
      Completes (exec (.join x) s) fun s' => ∃ g, i.Changes s s' g ∧
        g = { i.placed g.front.entries with front := { i.grp.front with
          entries := g.front.entries,
          parked := (lanes i.active).map fun l =>
            { lane := l, rejoin := direct x i, prio := x.prio, mask := m, origin := i.slot.pc } } } ∧
        i.Places (fun l => if i.active.getLsbD l then none else i.stay e) g.front) ∧
    (i.active &&& ~~~m = 0 → m &&& i.grp.live &&& ~~~i.active = 0 →
      Jumps s i (fun l => if i.active.getLsbD l then some (direct x i, x.prio) else i.stay e) (exec (.join x) s))

/-- A `join` into a group with lanes parked before: the arriving lanes park too, and every parked lane whose condition then
holds leaves, those of one address together, at the highest priority that they named; the others stay parked (R34, R43). -/
def Sys2Proof.Claims.LastArrivalsRelease : Prop :=
  ∀ (x : XC) (s : State) (i : Issue) (e : Entry), s.issuing x.g = some i → i.stands e →
    i.grp.front.waits = [] → (∀ p ∈ i.grp.front.parked, p.lane < 64) →
    let m := i.uni x.a &&& i.grp.lanesAll
    let ps := i.grp.front.parked ++ (lanes i.active).map fun l =>
      { lane := l, rejoin := direct x i, prio := x.prio, mask := m, origin := i.slot.pc }
    i.active &&& ~~~m = 0 →
    Completes (exec (.join x) s) fun s' => ∃ g kept, i.Changes s s' g ∧
      g = { i.placed g.front.entries with
        front := { i.grp.front with entries := g.front.entries, parked := g.front.parked } } ∧
      i.Places (fun l => if i.active.getLsbD l then none else i.stay e) { g.front with entries := kept } ∧
      Released i.grp.width i.grp.live ps kept g.front

/-- Every live lane of a group, of which there is one, waits at barrier `b` with this mask and form (R234). -/
structure AtBarrier (g : Group) (b : Nat) (m : Option DWord) (lax : Bool) : Prop where
  live : g.live ≠ 0
  waits : ∀ q ∈ g.front.entries, q.mask ≠ 0 ∧ q.hold = .bar b m lax
  apart : g.front.entries.Pairwise fun q r => q.mask &&& r.mask = 0
  whole : ∀ l, l < 64 → (g.live.getLsbD l = true ↔ ∃ q ∈ g.front.entries, q.mask.getLsbD l = true)

/-- No entry of a group waits for anything. -/
abbrev Unheld (g : Group) : Prop := ∀ q ∈ g.front.entries, q.hold = .free

/-- The group mask of a `bar`, where it has one, and whether the barrier waits for a group (R233, R234). -/
def barMask (x : XS) (i : Issue) : Option DWord := if x.i32.getLsbD 4 then some (i.uni x.a) else none
def Awaited (m : Option DWord) (g : Group) : Prop := ∀ w, m = some w → w.getLsbD g.index = true

/-- `bar`: a group mask that omits the group's own index traps; while a group that the barrier waits for has live lanes that
have not arrived, the group's own among them, the active lanes wait at the barrier (R233, R234). -/
def Sys2Proof.Claims.BarriersHoldLanes : Prop :=
  ∀ (x : XS) (s : State) (i : Issue) (e : Entry), s.issuing x.g = some i → i.stands e →
    let b := x.i32.toNat % 16
    let m := barMask x i
    let lax := x.i32.getLsbD 5
    (x.i32.getLsbD 4 = true → (i.uni x.a).getLsbD i.grp.index = false → i.active ≠ 0 →
      Traps s i .memberMask i.active i.slot.pc (exec (.bar x) s)) ∧
    (Awaited m i.grp → i.active ≠ 0 → (s.groups.map (·.1)).Nodup → Unheld i.grp →
      (∀ p ∈ s.groups, p.1 ≠ i.gid → p.2.team = i.grp.team → Unheld p.2 ∨ AtBarrier p.2 b m lax) →
      ((i.grp.live ≠ 0 ∧ i.active ≠ i.grp.live) ∨
        ∃ p ∈ s.groups, p.1 ≠ i.gid ∧ p.2.team = i.grp.team ∧ p.2.live ≠ 0 ∧ Awaited m p.2 ∧ Unheld p.2) →
      Completes (exec (.bar x) s) fun s' => ∃ g, i.Changes s s' g ∧ g = i.placed g.front.entries ∧
        i.Places (fun l => if i.active.getLsbD l then some (i.slot.pc, e.prio) else i.stay e) g.front ∧
        ∃ q ∈ g.front.entries, q.mask = i.active ∧ q.hold = .bar b m lax)

/-- The last group that a barrier waits for arrives with all its live lanes: every arrived group goes on past its `bar`, each
lane at its entry's priority, and no other group moves. Where the arrivals differ in whether a mask is given, in its value,
or in `.lax`, every arrived group traps with `MEMBER_MASK` instead (R47, R234). -/
def Sys2Proof.Claims.BarriersOpen : Prop :=
  ∀ (x : XS) (s : State) (i : Issue) (e : Entry), s.issuing x.g = some i → i.stands e →
    let b := x.i32.toNat % 16
    let m := barMask x i
    let lax := x.i32.getLsbD 5
    i.active = i.slot.mask → i.active = i.grp.live → i.active ≠ 0 → i.grp.front.entries = [e] →
    (s.groups.map (·.1)).Nodup → Awaited m i.grp →
    let peer (p : Nat × Group) : Prop := p ∈ s.groups ∧ p.1 ≠ i.gid ∧ p.2.team = i.grp.team
    ((∀ p, peer p → p.2.live = 0 ∨ AtBarrier p.2 b m lax ∨ (¬ Awaited m p.2 ∧ Unheld p.2)) →
      Completes (exec (.bar x) s) fun s' => s' = { s with groups := s'.groups } ∧
        (∃ g, s'.groups.lookup i.gid = some g ∧ g = i.placed g.front.entries ∧
          i.Places (fun _ => i.stay e) g.front) ∧
        (∀ p, peer p → AtBarrier p.2 b m lax → s'.groups.lookup p.1 = some { p.2 with
          front := { p.2.front with
            entries := p.2.front.entries.map fun q => Entry.make q.prio q.beyond q.mask } }) ∧
        ∀ p ∈ s.groups, p.1 ≠ i.gid → p.2.team ≠ i.grp.team ∨ ¬ AtBarrier p.2 b m lax →
          s'.groups.lookup p.1 = some p.2) ∧
    ((∀ p, peer p → p.2.live = 0 ∨ Unheld p.2 ∨ ∃ m' lax', AtBarrier p.2 b m' lax') →
      (∃ p m' lax', peer p ∧ AtBarrier p.2 b m' lax' ∧ (m', lax') ≠ (m, lax)) →
      let arrived (p : Nat × Group) : Prop := p ∈ s.groups ∧ p.2.team = i.grp.team ∧
        (p.1 = i.gid ∨ ∃ m' lax', AtBarrier p.2 b m' lax')
      (∀ p, arrived p → p.2.trap = none ∧ p.2.trapEntry.isSome = true ∧ (s.core p.2.core).matrix.latch = none) →
      Completes (exec (.bar x) s) fun s' =>
        s' = { s with groups := s'.groups, cores := s'.cores, slots := s'.slots } ∧
        (∀ p, arrived p → ∃ h entry, p.2.trapEntry = some entry ∧ s'.groups.lookup p.1 = some h ∧
          h.trap.isSome = true ∧ h.tmask = p.2.live ∧ h.tcause.toNat % 256 = codeOf .memberMask ∧
          (p.1 = i.gid → h.taddr = i.slot.pc) ∧
          ∀ l, l < 64 → h.front.at l = if p.2.live.getLsbD l then some (entry, 255) else none) ∧
        ∀ p ∈ s.groups, ¬ arrived p → s'.groups.lookup p.1 = some p.2)

/-- Join parks lanes and releases those parked before; barriers hold them and open: all of the statements just given. -/
def Obligations.JoinsAndBarriers : Prop :=
  Sys2Proof.Claims.JoinParksAndReleases ∧ Sys2Proof.Claims.LastArrivalsRelease ∧ Sys2Proof.Claims.BarriersHoldLanes ∧
  Sys2Proof.Claims.BarriersOpen

/-- `sreg` reads every status register: a lane register or pair, or a uniform register once (R32, R329). When `$permit` shows the
implicit permit of an install is the model's reading (log 108). -/
def Obligations.StatusRegistersRead : Prop :=
  ∀ (x : XS) (s : State) (i : Issue), (Instr.sreg x).wellFormed = true → s.issuing x.g = some i →
    (∀ l, statusOf s i x.i32.toNat l ≠ none) ∧
    (x.d.uni = false →
      LaneResult s i (if statusWide x.i32.toNat then .n64 else .n32) x.d.n.toNat
        (fun l => (statusOf s i x.i32.toNat l).getD 0) (exec (.sreg x) s)) ∧
    (x.d.uni = true →
      UniResult s i .n64 x.d.n.toNat ((statusOf s i x.i32.toNat 0).getD 0) (exec (.sreg x) s))

/-- The member-mask instructions: a lane whose guard passes but that the mask omits traps the whole entry; when every named
live lane stands in the entry the operation executes at once, and only contributors receive vector results
(R46, R237, R254 to R259). That `rdlane` at `.b32` leaves zeros in the upper half of the register is the model's choice
(log 81). -/
def Sys2Proof.Claims.MemberOperations : Prop :=
  ∀ (c : Instr) (x : XA) (mask : Src) (s : State) (i : Issue) (e : Entry) (w : Nat),
    memberMask c = some (x, mask) → c.wellFormed = true → s.issuing x.g = some i → i.stands e → widthOk i w →
    let m := i.uni mask &&& i.grp.lanesAll
    (i.active &&& ~~~m ≠ 0 →
      Traps s { i with blame := some (i.active &&& ~~~m) } .memberMask i.active i.slot.pc (exec c s)) ∧
    (Together i e m → MemberResult s i e c w (exec c s))

/-- The wait that an arrival leaves at its instruction: the first names the instruction and where the lanes go on; a later
one joins its lanes, and the wait keeps the higher priority. Each lane's operands are those it read on arriving (R46,
R258). -/
def WaitsAs (i : Issue) (c : Instr) (x : XA) (e : Entry) (m : LaneMask) (old : Option MemberWait) (w : MemberWait) : Prop :=
  let come := i.slot.mask &&& m
  w.pc = i.slot.pc ∧ w.mask = m ∧
  (old = none → w.next = e.following i.slot ∧ w.instr = c ∧ w.arrived = come ∧ w.active = i.active &&& m ∧
    w.prio = e.prio) ∧
  (∀ v, old = some v → w.next = v.next ∧ w.instr = v.instr ∧ w.arrived = v.arrived ||| come ∧
    w.active = v.active ||| (i.active &&& m) ∧ w.prio = if v.prio.toNat < e.prio.toNat then e.prio else v.prio) ∧
  ∀ l, come.getLsbD l = true → Seen.a w.seen l = i.raw x.t l x.a ∧ Seen.b w.seen l = i.raw x.t l x.b ∧
    Seen.q w.seen l = chosen i x.q l

/-- An arrival at a member-mask instruction while a named live lane is elsewhere: the named lanes of the entry leave the
frontier and wait, the others go on, and no register changes. The arrival of the last one executes the operation for all
that arrived, who go on together at the highest priority among them; a lane that does not contribute keeps its registers.
An arrival that reads another mask than the waiting lanes did traps, and the trap names those lanes (R46, R254). Only an
arrival that its own mask names is meant: that an entry which it names in no lane passes by is the model's choice
(log 97). -/
def Sys2Proof.Claims.MembersWait : Prop :=
  ∀ (c : Instr) (x : XA) (mask : Src) (s : State) (i : Issue) (e : Entry),
    memberMask c = some (x, mask) → c.wellFormed = true → s.issuing x.g = some i → i.stands e →
    let m := i.uni mask &&& i.grp.lanesAll
    let come := i.slot.mask &&& m
    let old := i.grp.front.waits.find? fun v => v.pc = i.slot.pc
    let others := i.grp.front.waits.filter fun v => v.pc != i.slot.pc
    i.active &&& ~~~m = 0 → come ≠ 0 → (∀ v ∈ others, v.done i.grp.live = false) →
    (∀ w, WaitsAs i c x e m old w → (∀ v, old = some v → v.mask = m) → m &&& i.grp.live &&& ~~~w.arrived ≠ 0 →
      Completes (exec c s) fun s' => ∃ g u, i.Changes s s' g ∧ WaitsAs i c x e m old u ∧
        g = { i.placed g.front.entries with
          front := { i.grp.front with entries := g.front.entries, waits := u :: others } } ∧
        i.Places (fun l => if m.getLsbD l then none else i.stay e) g.front) ∧
    (∀ v w, old = some v → v.mask = m → v.repeating = false → e.repeating = false → WaitsAs i c x e m old w →
      m &&& i.grp.live &&& ~~~w.arrived = 0 → (∀ q ∈ i.grp.front.entries, q.mask &&& v.arrived = 0) →
      Completes (exec c s) fun s' => ∃ g, i.Changes s s' g ∧ g.front.waits = others ∧
        g.front.parked = i.grp.front.parked ∧ g.front.pool = i.grp.front.pool ∧ g.live = i.grp.live ∧
        (∀ l, l < 64 → g.front.at l = if w.arrived.getLsbD l then some (w.next, w.prio)
          else if i.slot.mask.getLsbD l then i.stay e else i.grp.front.at l) ∧
        ∀ l n, n < 256 → w.active.getLsbD l = false → g.vreg i.gid l n = i.grp.vreg i.gid l n) ∧
    (∀ v, old = some v → v.mask ≠ m → Immediate s i → i.grp.trap = none → ∀ entry, i.grp.trapEntry = some entry →
      Completes (exec c s) fun s' => ∃ g t, s'.groups.lookup i.gid = some g ∧ g.trap = some t ∧
        t.front.waits = i.grp.front.waits ∧ g.tmask = v.arrived ∧ g.tcause.toNat % 256 = codeOf .memberMask ∧
        g.taddr = i.slot.pc ∧ g.vregs = i.grp.vregs ∧ g.uregs = i.grp.uregs ∧ g.preds = i.grp.preds ∧
        (∀ l, l < 64 → g.front.at l = if i.grp.live.getLsbD l then some (entry, 255) else none) ∧
        ∀ k, k ≠ i.gid → s'.groups.lookup k = s.groups.lookup k)

/-- Every lane of a segment receives the same bits from `redx` (R255). -/
def Sys2Proof.Claims.SegmentsAgree : Prop :=
  ∀ (op : Nat → Nat → Nat) (k : Nat) (v : Nat → Nat) (l j : Nat), l / 2 ^ k = j / 2 ^ k →
    treeAt op k v l = treeAt op k v j

/-- `wrlane` writes D of the lane that b names, whatever state it is in, and no other lane's (R258). -/
def Sys2Proof.Claims.WrlaneWritesOneLane : Prop :=
  ∀ (x : XA) (s : State) (i : Issue), (Instr.wrlane x).wellFormed = true → s.issuing x.g = some i →
    Completes (exec (.wrlane x) s) fun s' => ∃ g, i.Changes s s' g ∧ g = { i.moved with vregs := g.vregs } ∧
      ∀ l n, n < 256 → g.vreg i.gid l n =
        if i.active ≠ 0 ∧ l = i.raw x.t 0 x.b % i.grp.width then
          (resultWord x.t x.d.n.toNat (i.raw x.t 0 x.a) n).getD (i.grp.vreg i.gid l n)
        else i.grp.vreg i.gid l n

/-- The member-mask instructions and wrlane: all of the statements just given. -/
def Obligations.MemberInstructions : Prop :=
  Sys2Proof.Claims.MemberOperations ∧ Sys2Proof.Claims.MembersWait ∧ Sys2Proof.Claims.SegmentsAgree ∧
  Sys2Proof.Claims.WrlaneWritesOneLane

/-! ### Traps -/

/-- Taking a trap (R47): the frontier and `$rep` are saved, every live lane stands at the trap entry with priority 255,
`$rep` is 0, and the trap registers say the lanes, the address, and cause, port and instruction address in their fields
(R32, R48); a slot of the group that has not issued is dropped and its entry counts as passed over (R40); trap return is to
find the issuing entry at its instruction, or past it with the skip form, and past the followers that had issued where it
issued the instruction again (R203); a permit granted to the group that nothing uses
yet goes back (R168), and nothing else changes. -/
def Sys2Proof.Claims.TrapsEnterTheHandler : Prop :=
  ∀ (s : State) (i : Issue) (c : Cause) (m : LaneMask) (addr entry : DWord),
    Immediate s i → i.grp.trap = none → i.grp.trapEntry = some entry →
    let t := s.trap i c m addr
    ∃ g, t.groups.lookup i.gid = some g ∧
      g = { i.grp with trap := g.trap, front := g.front, rep := 0, flights := g.flights, tmask := i.blame.getD m,
                       tcause := g.tcause, taddr := addr } ∧
      g.trap = some
        { front := { i.grp.front with entries := i.grp.front.entries.map fun q =>
            if ∃ x ∈ s.slots, x.group = i.gid ∧ x.mask = q.mask then { q with passes := q.passes + 1 } else q },
          rep := i.grp.rep, followers := overBefore i,
          resume := .entry i.slot.mask i.slot.pc
            ((i.grp.entryOf i.slot.mask).elim i.slot.next fun q => q.following i.slot) } ∧
      g.flights = i.grp.flights.map (fun f => { f with left := 0 }) ∧
      (∀ l, l < 64 → g.front.at l = if i.grp.live.getLsbD l then some (entry, 255) else none) ∧
      g.front.parked = [] ∧ g.front.pool = [] ∧ g.front.waits = [] ∧
      g.tcause.toNat % 256 = codeOf c ∧ g.tcause.toNat / 256 % 256 = i.slot.port % 2 ∧
      g.tcause.toNat / 2 ^ 16 = i.slot.pc.toNat % 2 ^ 48 ∧
      (∀ k, k ≠ i.gid → t.groups.lookup k = s.groups.lookup k) ∧
      (∀ k, k ≠ i.grp.core → t.core k = s.core k) ∧
      t.core i.grp.core = { s.core i.grp.core with
        permits := (s.core i.grp.core).permits.filter fun p =>
          !decide (p.group = some i.gid ∧ p.explicit = false ∧ p.granted = true ∧ p.users = []) } ∧
      t = { s with groups := t.groups, cores := t.cores, slots := s.slots.filter fun x => x.group != i.gid }

/-- The causes have the codes 1 to 17 that R48 lists, and a trap or a double fault shows no other. -/
def Sys2Proof.Claims.CauseCodes : Prop :=
  ∀ (pc : DWord) (port : Nat) (c : Cause),
    c.code = codeOf c ∧ (tcauseOf pc port c).toNat % 256 = codeOf c ∧ 1 ≤ codeOf c ∧ codeOf c ≤ 17 ∧
      ∀ d, codeOf c = codeOf d → c = d

/-- A trap in trap mode, or without a trap entry, is a double fault: the group stops, its launch is marked failed, and the
foreman records what was raised and the trap registers as they stand (R49). -/
def Sys2Proof.Claims.DoubleFaultsStopTheGroup : Prop :=
  ∀ (s : State) (i : Issue) (c : Cause) (m : LaneMask) (addr : DWord),
    Immediate s i → i.grp.trap ≠ none ∨ i.grp.trapEntry = none →
    let t := s.trap i c m addr
    (∃ g, t.groups.lookup i.gid = some g ∧ g = { i.grp with live := 0, front := g.front, flights := [] } ∧
      ∀ l, g.front.at l = none) ∧
    (∀ k, k ≠ i.gid → t.groups.lookup k = s.groups.lookup k) ∧
    t.grids.lookup i.grp.grid = (s.grids.lookup i.grp.grid).map (fun d => { d with failed := true }) ∧
    (∀ p ∈ (t.core i.grp.core).permits, p.group = some i.gid → p.held = false) ∧
    t.outbox = s.outbox ++
      [.doubleFault i.gid (codeOf c) (tcauseOf i.slot.pc i.slot.port c) addr i.grp.tcause i.grp.taddr] ∧
    t.mem = s.mem

/-- Taking a trap, its cause codes, and the double fault: all of the statements just given. -/
def Obligations.TrapsAreTaken : Prop :=
  Sys2Proof.Claims.TrapsEnterTheHandler ∧ Sys2Proof.Claims.CauseCodes ∧ Sys2Proof.Claims.DoubleFaultsStopTheGroup

/-- `trap #n` raises `USER_TRAP`, cause 16, for the active lanes of its entry: `$tmask` holds them, `$tcause` names the
instruction, `$taddr` its address, the word there holds n in bits [30:15]; in trap mode it becomes a double fault
(R334). -/
def Obligations.TrapInstruction : Prop :=
  ∀ (gd : Guard) (n : BitVec 16) (s : State) (i : Issue), s.issuing gd = some i → i.active ≠ 0 → i.blame = none →
    Traps s i .userTrap i.active i.slot.pc (exec (.trap gd n) s) ∧ codeOf .userTrap = 16 ∧
    (∃ w, encode (.trap gd n) = some w ∧ w / 2 ^ 15 % 2 ^ 16 = n.toNat) ∧
    (Immediate s i → i.grp.trap = none → ∀ entry, i.grp.trapEntry = some entry →
      ∃ g, (s.trap i .userTrap i.active i.slot.pc).groups.lookup i.gid = some g ∧ g.tmask = i.active ∧
        g.tcause.toNat % 256 = 16 ∧ g.tcause.toNat / 2 ^ 16 = i.slot.pc.toNat % 2 ^ 48 ∧ g.taddr = i.slot.pc ∧
        ∀ l, l < 64 → g.front.at l = if i.grp.live.getLsbD l then some (entry, 255) else none) ∧
    (Immediate s i → i.grp.trap ≠ none →
      ∃ g, (s.trap i .userTrap i.active i.slot.pc).groups.lookup i.gid = some g ∧ g.live = 0 ∧
        ∃ r ∈ (s.trap i .userTrap i.active i.slot.pc).outbox,
          r = .doubleFault i.gid 16 (tcauseOf i.slot.pc i.slot.port .userTrap) i.slot.pc i.grp.tcause i.grp.taddr)

/-- Trap return (R335): outside trap mode it traps; while a lane of the handler is in the waiting pool it waits; otherwise
the handler's frontier is discarded and each lane still live stands where the saved frontier held it, those of the entry
that faulted at the faulting instruction again, or with the skip form past it and past its followers (R203); until it has
issued that instruction it combines with no other, which is the model's choice (log 96). After
`REJOIN_STUCK` the skip form sends parked lanes to their rejoin addresses and waiting lanes past their instruction (R45);
after `MEMBER_MASK` at a later arrival it lets the wait go too (R46); a fault of an engine leaves the frontier as it was.
`$rep` is restored, and the skip form clears it where the faulting instruction was being repeated (R205). -/
def Obligations.TrapReturns : Prop :=
  ∀ (gd : Guard) (skip : Bool) (s : State) (i : Issue), s.issuing gd = some i → i.active ≠ 0 →
    let c := if skip then Instr.tretSkip gd else .tret gd
    (i.grp.trap = none → Traps s i .illegalField i.active i.slot.pc (exec c s)) ∧
    (i.grp.trap ≠ none → i.grp.front.pool ≠ [] → exec c s = .next s) ∧
    ∀ t, i.grp.trap = some t → i.grp.front.pool = [] →
      Completes (exec c s) fun s' => ∃ g,
        s' = { s with groups := s'.groups, slots := s.slots.filter fun x => x.group != i.gid } ∧
        s'.groups.lookup i.gid = some g ∧ (∀ k, k ≠ i.gid → s'.groups.lookup k = s.groups.lookup k) ∧
        g = { i.grp with trap := none, front := g.front, rep := g.rep } ∧
        (∀ l, l < 64 → g.front.at l = if i.grp.live.getLsbD l then returnAt t skip l else none) ∧
        g.front.parked = (if skip ∧ t.resume = .stuck then []
          else t.front.parked.filter fun p => i.grp.live.getLsbD p.lane) ∧
        g.front.pool = t.front.pool.filter (fun p => i.grp.live.getLsbD p.lane) ∧
        g.front.waits = ((t.front.waits.filter fun w => !(skip && letsGo t w)).map fun w =>
          { w with arrived := w.arrived &&& i.grp.live, active := w.active &&& i.grp.live }).filter
            (fun w => w.arrived != 0) ∧
        (∀ m pc next, t.resume = .entry m pc next → skip = false → t.followers ≠ 0 →
          ∀ q ∈ g.front.entries, q.mask &&& m ≠ 0 → q.pc = pc ∧ q.after = some next ∧ q.done = t.followers) ∧
        (skip = false → g.rep = t.rep) ∧ (skip = true → (¬ wasRepeated t → g.rep = t.rep) ∧ (wasRepeated t → g.rep = 0))

/-! ### Memory -/

/-- The levels of the tables: the shift of the index, which is the size of a page there; the place of an entry; whether the
walk ends at a valid entry (R104, R106). -/
def Sys2Proof.Claims.shiftAt (k : Nat) : Nat := [39, 30, 21, 16].getD k 0
def Sys2Proof.Claims.placeInTable (va k table : Nat) : Nat :=
  table + va / 2 ^ Claims.shiftAt k % (if k = 3 then 32 else 512) * 8
def Sys2Proof.Claims.EndsWalk (k e : Nat) : Prop := k = 3 ∨ e.testBit 1 = true

/-- An entry is malformed at a level (R106). -/
def Sys2Proof.Claims.MalformedAt (k e : Nat) : Prop :=
  let to' := e / 256 % 2 ^ 40 * 256
  e / 2 ^ 48 % 2 ^ 16 ≠ 0 ∨ e.testBit 7 = true ∨ (k = 0 ∧ e.testBit 1 = true) ∨
  (Claims.EndsWalk k e ∧ to' % 2 ^ Claims.shiftAt k ≠ 0) ∨
  (¬ Claims.EndsWalk k e ∧ (e / 4 % 32 ≠ 0 ∨ to' % (if k = 2 then 256 else 4096) ≠ 0))

/-- A walk has come to level `k`: at each level before it the entry that it read, in the state that reading left, named the
next table (R104, R106). -/
structure Sys2Proof.Claims.Descent (s : State) (va root k : Nat) (S : Nat → State) (T E : Nat → Nat) : Prop where
  state : S 0 = s
  table : T 0 = root
  down : ∀ j < k, let a := Claims.placeInTable va j (T j)
    (S j).unreadable a = false ∧ S (j + 1) = ((S j).l2Read a 8).1 ∧ E j = leNat ((S j).l2Read a 8).2 ∧
    ¬ Claims.MalformedAt j (E j) ∧ (E j).testBit 0 = true ∧ ¬ Claims.EndsWalk j (E j) ∧
    T (j + 1) = E j / 256 % 2 ^ 40 * 256

/-- An access that every check allows, its lines readable as each lane's turn comes, falls where its pieces translate; before
it nothing changes but by a release that it performs first (R107, R119, R230, R263, R269). -/
def Sys2Proof.Claims.AllowedAccessesReach : Prop :=
  ∀ (s : State) (i : Issue) (r : Reach) (x : XM) (pa : DWord → Nat) (st : DWord → Bool) (rel : Bool)
    (step : Spot → State → Nat → State), Allowed s i r x pa st →
    (rel = true → r.scope = 5 → i.active ≠ 0 → s.link.up = true) →
    let t := if rel = true ∧ i.active ≠ 0 then s.releaseAt i.grp.core r.scope r.unit fun _ => true else s
    Readable t i r (spotOf i r x pa st) step →
    ∃ spot, (∀ l, i.active.getLsbD l = true → spot l = spotOf i r x pa st l) ∧
      ∀ k : State → (Nat → Spot) → Result, s.reach i r x rel (fun p s l => step (p l) s l) k = k t spot

/-- The rows of R107 that a valid leaf is held to, in order: the reserved ranges, the staging region among them; a flash page
outside the flash range or the reverse; a write to a flash page; a write, or a private access, to a page with Writable clear;
a fetch from one with Executable clear; a bank-contiguous page in a hashed region; otherwise the access proceeds. A private
access to a flash page is refused as one that is not writable (R20, R21, R95, R106, R107, R174, R176). -/
def Sys2Proof.Claims.LeavesDecide : Prop :=
  ∀ (s : State) (size e va : Nat) (acc : Access),
    let pa := e / 256 % 2 ^ 40 * 256 + va % 2 ^ size
    let bit (k : Nat) : Bool := e.testBit k
    let flash := 0x400000000000 ≤ pa ∧ pa < 0x440000000000
    let dram := pa < 0x6000000000
    let host := 0x800000000000 ≤ pa ∧ pa < 0x1000000000000
    let res := s.classify size e va acc
    let mapped := (dram ∧ pa < (384 - s.stagingGib) * 0x40000000) ∨ flash ∨ host
    (¬ mapped → res = .fault .protection) ∧
    (mapped → (bit 6 = true ↔ ¬ flash) → res = .fault .protection) ∧
    (mapped → bit 6 = true → flash → acc = .write → res = .fault .flashWrite) ∧
    (mapped → bit 6 = true → flash → acc = .readOwn → res = .fault .protection) ∧
    (mapped → (bit 6 = true ↔ flash) → ¬ flash → bit 2 = false → acc = .write ∨ acc = .readOwn →
      res = .fault .protection) ∧
    (mapped → (bit 6 = true ↔ flash) → bit 3 = false → acc = .fetch → res = .fault .protection) ∧
    (mapped → (bit 6 = true ↔ flash) → dram → bit 5 = true → s.modes.getD (pa / 2 ^ 35) false = false →
      (acc = .write ∨ acc = .readOwn → bit 2 = true) → (acc = .fetch → bit 3 = true) → res = .fault .protection) ∧
    (mapped → (bit 6 = true ↔ flash) → (acc = .write ∨ acc = .readOwn → ¬ flash ∧ bit 2 = true) →
      (acc = .fetch → bit 3 = true) → (dram → bit 5 = true → s.modes.getD (pa / 2 ^ 35) false = true) →
      res = .ok pa (bit 4) (bit 5))

/-- A translation: an address that breaks the rule traps; a leaf that the core's translation cache holds decides; without
one a walk begins at the root of the address space, where a malformed entry traps and one with Valid clear is a miss that
the host answers (R104, R106 to R109); so is an address space without a root, which is the model's choice (log 63). -/
def Sys2Proof.Claims.TranslationsEnd : Prop :=
  ∀ (s : State) (core space : Nat) (va : DWord) (acc : Access),
    (canonical va = false → s.translate core space va acc = (s, .fault .xlateFault)) ∧
    (canonical va = true →
      (∀ t, (s.core core).leafOf space va.toNat = some t →
        s.translate core space va acc = (s, s.classify t.size t.entry va.toNat acc)) ∧
      ((s.core core).leafOf space va.toNat = none →
        (s.foreman.spaces.lookup space = none → s.translate core space va acc = (s, .miss)) ∧
        ∀ root, s.foreman.spaces.lookup space = some root →
          let a := root + va.toNat / 2 ^ 39 % 512 * 8
          s.unreadable a = false → ∀ s1 bs, s.l2Read a 8 = (s1, bs) →
            let e := leNat bs
            (e / 2 ^ 48 % 2 ^ 16 ≠ 0 ∨ e.testBit 7 = true ∨ e.testBit 1 = true ∨ e / 4 % 32 ≠ 0 ∨
                e / 256 % 2 ^ 40 * 256 % 4096 ≠ 0 →
              s.translate core space va acc = (s1, .fault .xlateFault)) ∧
            (e / 2 ^ 48 % 2 ^ 16 = 0 → e.testBit 7 = false → e.testBit 1 = false → e / 4 % 32 = 0 →
              e / 256 % 2 ^ 40 * 256 % 4096 = 0 → e.testBit 0 = false →
              s.translate core space va acc = (s1, .miss))))

/-- A walk goes down the four levels: at each one it reads the entry of its index at the level-2 home. An entry that cannot be
read ends the access with `ECC_FATAL`; a malformed one traps; one with Valid clear is a miss; a leaf, at level 3 any entry,
decides, and the core's translation cache holds it then, in place of one of its entries where it holds 4,096; any other entry
names the table of the next level. Malformed is a reserved bit, a leaf at level 0, a page or a table that is not aligned to its
size, an entry that is no leaf with any of bits 6 to 2 (R104, R106, R107, R109). Which entry the cache drops is the model's
choice (log 10), and so is that a table may lie anywhere (log 63). -/
def Sys2Proof.Claims.WalksDescend : Prop :=
  ∀ (s : State) (core space : Nat) (va : DWord) (acc : Access) (root k : Nat) (S : Nat → State) (T E : Nat → Nat),
    k < 4 → canonical va = true → (s.core core).leafOf space va.toNat = none →
    s.foreman.spaces.lookup space = some root → Claims.Descent s va.toNat root k S T E →
    let a := Claims.placeInTable va.toNat k (T k)
    let res := s.translate core space va acc
    ((S k).unreadable a = true → res = (S k, .fault .eccFatal)) ∧
    ((S k).unreadable a = false → ∀ s1 bs, (S k).l2Read a 8 = (s1, bs) →
      let e := leNat bs
      let leaf : Tlb := { space := space, base := va.toNat / 2 ^ Claims.shiftAt k * 2 ^ Claims.shiftAt k,
                          size := Claims.shiftAt k, entry := e }
      (Claims.MalformedAt k e → res = (s1, .fault .xlateFault)) ∧
      (¬ Claims.MalformedAt k e → e.testBit 0 = false → res = (s1, .miss)) ∧
      (¬ Claims.MalformedAt k e → e.testBit 0 = true → Claims.EndsWalk k e →
        ∃ t c, res = (t, s1.classify (Claims.shiftAt k) e va.toNat acc) ∧
          t = { s1 with cores := t.cores, draws := t.draws } ∧ (∀ n, n ≠ core → t.core n = s1.core n) ∧
          t.core core = { s1.core core with tlb := leaf :: c } ∧
          ((s1.core core).tlb.length < 4096 → c = (s1.core core).tlb ∧ t.draws = s1.draws) ∧
          (4096 ≤ (s1.core core).tlb.length → ∃ n, n < 4096 ∧ c = (s1.core core).tlb.eraseIdx n)))

/-- The pieces of an access are looked at one after another, each once the line of the one before has been brought in: the
access meets an error where some piece lies in a line that cannot be read then, by the copy that answers it (R345, R356; that
the first copy on the way answers is the model's choice, log 16). A word of a scratchpad or of the floor scratchpad answers
for itself. -/
def Sys2Proof.Claims.PiecesAreLookedAt : Prop :=
  ∀ (s : State) (core scope n : Nat),
    (∀ parts, s.spotBad core scope n (.mem parts) = true ↔
      lostOf (fun t p => pieceLost t core scope p) (fun t p => (t.readAt core scope p.1 p.2.1 p.2.2).1)
        s parts ≠ []) ∧
    (∀ t off, s.spotBad core scope n (.scratch t off) = padFlawed s t off n) ∧
    ∀ off, s.spotBad core scope n (.floor off) = floorFlawed s core off n

/-- Loads and stores of `.g` and `.p`, by lanes and uniform, that a check of step 6 refuses, or that miss: they trap, or the
entry parks. A uniform form is an access of its lowest active lane, whose trap names every active one (R228, R230, R263,
R265). A release at `.sys` traps while the link is down (R345). The order of the checks, the cause of the lowest failing lane
and the traps of releases that wait for nothing are the model's choices (logs 31, 32, 33, 47). -/
def Sys2Proof.Claims.GlobalAccessesTrap : Prop :=
  ∀ (c : Instr) (acc : Access) (space : Nat) (x : XM) (s : State) (i : Issue),
    (laneLoads c = some (space, x) ∧ acc = .read) ∨ (laneStores c = some (space, x) ∧ acc = .write) ∨
      (c = .ldu x ∧ space = 0 ∧ acc = .read) ∨ (c = .stu x ∧ space = 0 ∧ acc = .write) →
    c.wellFormed = true → s.issuing x.g = some i →
    let j := if c = .ldu x ∨ c = .stu x then i.lead else i
    let r := accessOf space acc x i
    AccessTraps s j r x (if acc = .read then loadStep i r else storeStep i x r) (exec c s)

/-- Loads from `.g` and `.p`: the active lanes read in ascending order at their scope, an `.acq` form then acquires, and
the elements go to the destination registers (R119, R260, R261, R264). -/
def Sys2Proof.Claims.GlobalLoadsComplete : Prop :=
  ∀ (c : Instr) (space : Nat) (x : XM) (s : State) (i : Issue) (pa : DWord → Nat) (st : DWord → Bool),
    laneLoads c = some (space, x) → c.wellFormed = true → s.issuing x.g = some i →
    Allowed s i (accessOf space .read x i) x pa st →
    let r := accessOf space .read x i
    Readable s i r (spotOf i r x pa st) (loadStep i r) →
    let p := s.readLanes i.grp.core r.scope r.size (spotOf i r x pa st) (lanes i.active)
    Completes (exec c s) (Loaded (acquired p.1 i x r) i x fun l => p.2.lookup l)

/-- Stores to `.g` and `.p`: a `.rel` form releases first, then the active lanes store in ascending order at their scope;
no register changes (R119, R260, R261, R264). -/
def Sys2Proof.Claims.GlobalStoresComplete : Prop :=
  ∀ (c : Instr) (space : Nat) (x : XM) (s : State) (i : Issue) (pa : DWord → Nat) (st : DWord → Bool),
    laneStores c = some (space, x) → c.wellFormed = true → s.issuing x.g = some i →
    Allowed s i (accessOf space .write x i) x pa st → linkAnswers s x (accessOf space .write x i) →
    let r := accessOf space .write x i
    Readable (released s i x r) i r (spotOf i r x pa st) (storeStep i x r) →
    Completes (exec c s) fun s' => i.Changes (storeAll (released s i x r) i x r (spotOf i r x pa st)) s' i.moved

/-- Uniform loads and stores are accesses of the lowest active lane, once for the group (R228, R265). That `ldu` at `.b32`
leaves zeros in the upper half of the register is the model's choice (log 81). -/
def Sys2Proof.Claims.UniformAccessesComplete : Prop :=
  (∀ (x : XM) (s : State) (i : Issue) (pa : DWord → Nat) (st : DWord → Bool), (Instr.ldu x).wellFormed = true →
    s.issuing x.g = some i → i.active ≠ 0 → Allowed s i.lead (accessOf 0 .read x i) x pa st →
    let r := accessOf 0 .read x i
    Readable s i.lead r (spotOf i r x pa st) (loadStep i r) →
    let p := s.readSpot i.grp.core r.scope r.size (spotOf i r x pa st ((lanes i.active).headD 0))
    Completes (exec (.ldu x) s) fun s' => ∃ g, i.Changes (acquired p.1 i x r) s' g ∧
      g = { i.moved with uregs := g.uregs } ∧
      ∀ n, g.ureg i.gid n = if n = x.d.n.toNat then extend 64 x.t (leNat p.2) else i.grp.ureg i.gid n) ∧
  (∀ (x : XM) (s : State) (i : Issue) (pa : DWord → Nat) (st : DWord → Bool), (Instr.stu x).wellFormed = true →
    s.issuing x.g = some i → i.active ≠ 0 → Allowed s i.lead (accessOf 0 .write x i) x pa st →
    linkAnswers s x (accessOf 0 .write x i) →
    let r := accessOf 0 .write x i
    let l := (lanes i.active).headD 0
    Readable (released s i x r) i.lead r (spotOf i r x pa st) (storeStep i x r) →
    Completes (exec (.stu x) s) fun s' => i.Changes
      ((released s i x r).writeSpot i.grp.core r.scope (spotOf i r x pa st l) (storedBytes i x l)) s' i.moved) ∧
  ∀ (c : Instr) (x : XM) (s : State) (i : Issue), c = .ldu x ∨ c = .stu x → c.wellFormed = true →
    s.issuing x.g = some i → i.active = 0 → MovesOn s i (exec c s)

/-- `prf` completes in every state: it never traps at step 6, never parks, and no register changes; of the cores only the
caches of its own may move, and behind them the lines that they give up (R266). -/
def Sys2Proof.Claims.PrefetchesComplete : Prop :=
  ∀ (x : XM) (s : State) (i : Issue), (Instr.prf x).wellFormed = true → s.issuing x.g = some i →
    Completes (exec (.prf x) s) fun s' => ∃ s1, MemorySystem s s1 ∧ (∀ k, k ≠ i.grp.core → s1.core k = s.core k) ∧
      i.Changes s1 s' i.moved

/-- Loads, stores and prefetches of global and private memory complete, trap, or park on a miss: all of the statements just
given. -/
def Obligations.GlobalAccesses : Prop :=
  Sys2Proof.Claims.AllowedAccessesReach ∧ Sys2Proof.Claims.LeavesDecide ∧ Sys2Proof.Claims.TranslationsEnd ∧
  Sys2Proof.Claims.WalksDescend ∧ Sys2Proof.Claims.PiecesAreLookedAt ∧
  Sys2Proof.Claims.GlobalAccessesTrap ∧ Sys2Proof.Claims.GlobalLoadsComplete ∧ Sys2Proof.Claims.GlobalStoresComplete ∧
  Sys2Proof.Claims.UniformAccessesComplete ∧ Sys2Proof.Claims.PrefetchesComplete

/-- Plain loads whose lines lie in L1 read those bytes, and leave every line of L1 and all else as it is (R88, R119). -/
def Sys2Proof.Claims.LoadsThatHitReadL1 : Prop :=
  ∀ (c : Instr) (space : Nat) (x : XM) (s : State) (i : Issue) (pa : DWord → Nat) (st : DWord → Bool),
    laneLoads c = some (space, x) → c.wellFormed = true → s.issuing x.g = some i → x.s.toNat < 3 → x.o = 0 →
    Allowed s i (accessOf space .read x i) x pa st →
    let spot := spotOf i (accessOf space .read x i) x pa st
    Readable s i (accessOf space .read x i) spot (loadStep i (accessOf space .read x i)) →
    (∀ l, i.active.getLsbD l = true → Hits s i.grp.core (spot l)) →
    Completes (exec c s) fun s' => OnlyL1 s s' i.grp.core ∧
      (∀ a, findLine (s'.core i.grp.core).l1 a = findLine (s.core i.grp.core).l1 a) ∧
      ∃ g, s'.groups.lookup i.gid = some g ∧ g = { i.moved with vregs := g.vregs } ∧
        (∀ k, k ≠ i.gid → s'.groups.lookup k = s.groups.lookup k) ∧
        ∀ l n, n < 256 → g.vreg i.gid l n =
          if i.active.getLsbD l then
            (loadedWord x.t x.d.n.toNat (2 ^ x.v.toNat) (hitBytes s i.grp.core (spot l)) n).getD (i.grp.vreg i.gid l n)
          else i.grp.vreg i.gid l n

/-- Plain stores whose lines lie in L1 write there: the byte of an address is afterwards what the highest lane that
stores to it stored, and every other byte is as before, in L1 and everywhere else (R88, R89, R264). -/
def Sys2Proof.Claims.StoresThatHitWriteL1 : Prop :=
  ∀ (c : Instr) (space : Nat) (x : XM) (s : State) (i : Issue) (pa : DWord → Nat) (st : DWord → Bool),
    laneStores c = some (space, x) → c.wellFormed = true → s.issuing x.g = some i → x.s.toNat < 3 → x.o = 0 →
    Allowed s i (accessOf space .write x i) x pa st →
    let spot := spotOf i (accessOf space .write x i) x pa st
    Readable s i (accessOf space .write x i) spot (storeStep i x (accessOf space .write x i)) →
    (∀ l, i.active.getLsbD l = true → Hits s i.grp.core (spot l)) →
    Completes (exec c s) fun s' => OnlyL1 s s' i.grp.core ∧
      (∀ a, cachedByte s' i.grp.core a =
        (lastStored i fun l => placedIn (spot l) (storedBytes i x l) a).or (cachedByte s i.grp.core a)) ∧
      s'.groups.lookup i.gid = some i.moved ∧ ∀ k, k ≠ i.gid → s'.groups.lookup k = s.groups.lookup k

/-- Accesses that hit read and write the L1 bytes and nothing else: all of the statements just given. -/
def Obligations.HitsReadAndWriteFirstLevel : Prop :=
  Sys2Proof.Claims.LoadsThatHitReadL1 ∧ Sys2Proof.Claims.StoresThatHitWriteL1

/-- Loads from the scratchpads and the floor scratchpad; an offset out of bounds, a floor that is absent and a misaligned
scoped access trap (R92, R93, R100, R103, R119, R263). That the unit is checked first, that every release at `.sys` traps
while the link is down, and that a `.c` access to a team that has ended is out of bounds, are the model's choices (logs 32, 47,
82). -/
def Sys2Proof.Claims.OwnLoadsComplete : Prop :=
  ∀ (c : Instr) (space : Nat) (x : XM) (s : State) (i : Issue), ownLoads c = some (space, x) →
    c.wellFormed = true → s.issuing x.g = some i →
    let r := accessOf space .read x i
    (∀ at' : Nat → OwnPlace, OwnAllowed s i r x at' → OwnReadable s i r at' →
      Completes (exec c s) (Loaded (acquired s i x r) i x fun l =>
        let m := placeMemory s i (at' l)
        some (m.1.readBytes m.2 r.size))) ∧
    OwnTraps s i r x (exec c s)

/-- Stores to the scratchpads and the floor scratchpad: a byte holds afterwards what the highest lane that stores to it
stored, every other byte of every scratchpad and floor what it held (R92, R93, R103, R264). -/
def Sys2Proof.Claims.OwnStoresComplete : Prop :=
  ∀ (c : Instr) (space : Nat) (x : XM) (s : State) (i : Issue) (at' : Nat → OwnPlace), ownStores c = some (space, x) →
    c.wellFormed = true → s.issuing x.g = some i → s.Canonical →
    let r := accessOf space .write x i
    OwnAllowed s i r x at' → OwnReadable s i r at' → linkAnswers s x r →
    Completes (exec c s) fun s' =>
      i.Changes { released s i x r with teams := s'.teams, slices := s'.slices } s' i.moved ∧
      (∀ t, (s'.teams.lookup t).map (fun m => { m with scratch := [] }) =
        (s.teams.lookup t).map fun m => { m with scratch := [] }) ∧
      (∀ t k, (s.teams.lookup t).isSome = true → scratchByte s' t k =
        (lastStored i (ownStored i x at' (some t) k)).getD (scratchByte s t k)) ∧
      (∀ n, s'.slice n = { (released s i x r).slice n with floor := (s'.slice n).floor }) ∧
      ∀ n k, (s'.slice n).floor.read k =
        if n = i.grp.core then (lastStored i (ownStored i x at' none k)).getD ((s.slice n).floor.read k)
        else (s.slice n).floor.read k

/-- Stores to these spaces trap as loads from them do: out of bounds, without a floor scratchpad, misaligned with a scope, and
last at a word with an uncorrectable error (R92, R93, R103, R119, R263, R356), with the same choices of the model (logs 32, 47,
82). -/
def Sys2Proof.Claims.OwnStoresTrap : Prop :=
  ∀ (c : Instr) (space : Nat) (x : XM) (s : State) (i : Issue), ownStores c = some (space, x) →
    c.wellFormed = true → s.issuing x.g = some i → OwnTraps s i (accessOf space .write x i) x (exec c s)

/-- Scratchpad, cluster and floor accesses: all of the statements just given. -/
def Obligations.OwnSpaces : Prop :=
  Sys2Proof.Claims.OwnLoadsComplete ∧ Sys2Proof.Claims.OwnStoresComplete ∧ Sys2Proof.Claims.OwnStoresTrap

/-- Atomics: in ascending lane order each reads its place and writes the new value there, between the release and the
acquire of the forms that have them; the old values go to D, or a uniform form returns its one (R268 to R271). That one at
`.sys` goes by the home slice (log 95), that one at `.grp` or `.team` is performed in L1 on host memory too (log 102), and that a
uniform one at `.b32` leaves zeros in the upper half of the register (log 81), are the model's choices. -/
def Sys2Proof.Claims.AtomicsComplete : Prop :=
  ∀ (c : Instr) (x : XM) (s : State) (i : Issue) (spot : Nat → Spot),
    c ∈ [Instr.atom x, .cas x, .ared x, .uatom x, .ucas x] → c.wellFormed = true → s.issuing x.g = some i →
    let j := if c = .uatom x ∨ c = .ucas x then i.lead else i
    let r := atomicAccess x i
    Reaches s j r x spot → linkAnswers s x r → Readable (released s i x r) j r spot (atomicStep c i x r) →
    let p := (lanes j.active).foldl (atomicOne c i x r spot) (released s i x r, [])
    Completes (exec c s) fun s' => ∃ g, i.Changes (acquired p.1 i x r) s' g ∧
      g = { i.moved with vregs := g.vregs, uregs := g.uregs } ∧
      (∀ l n, n < 256 → g.vreg i.gid l n =
        if x.d.uni = false ∧ c ≠ .ared x ∧ j.active.getLsbD l then
          ((p.2.lookup l).bind fun old => resultWord x.t x.d.n.toNat old n).getD (i.grp.vreg i.gid l n)
        else i.grp.vreg i.gid l n) ∧
      ∀ n, g.ureg i.gid n =
        if x.d.uni = true ∧ c ≠ .ared x ∧ n = x.d.n.toNat ∧ j.active ≠ 0 then
          extend 64 x.t ((p.2.map (·.2)).headD 0)
        else i.grp.ureg i.gid n

/-- An atomic that a check refuses traps, and one whose translation misses parks: the checks of R270 in each space, those of
a uniform form for its lowest active lane. A release at `.sys` traps while the link is down (R126, R228, R230, R270, R345). The
order of the checks and the traps of releases that wait for nothing are the model's choices (logs 31, 32, 33, 47). -/
def Sys2Proof.Claims.AtomicsTrap : Prop :=
  ∀ (c : Instr) (x : XM) (s : State) (i : Issue),
    c ∈ [Instr.atom x, .cas x, .ared x, .uatom x, .ucas x] → c.wellFormed = true → s.issuing x.g = some i →
    let j := if c = .uatom x ∨ c = .ucas x then i.lead else i
    let r := atomicAccess x i
    (r.space = 0 ∨ r.space = 3 → AccessTraps s j r x (atomicStep c i x r) (exec c s)) ∧
    (r.space = 1 ∨ r.space = 2 → OwnTraps s j r x (exec c s))

/-- Atomics complete, trap, or park on a miss: both statements. -/
def Obligations.AtomicsExchange : Prop := Sys2Proof.Claims.AtomicsComplete ∧ Sys2Proof.Claims.AtomicsTrap

/-- `rel`, `acq` and `fence`: on the whole of memory, or on the lines of a range, a release at the scope, an acquire at it, or
nothing; no register changes. A unit operand that is too large traps, then a range that breaks the address rule, in this
order, which is the model's choice (log 32); a release at `.sys` traps while the link is down, but for one of an empty range,
which waits for nothing (R114 to R120, R272, R273, R345); that every other one does, whether or not something waits for its
acknowledgement, is the model's choice (log 47). -/
def Sys2Proof.Claims.OrderingCompletes : Prop :=
  ∀ (x : XM) (s : State) (i : Issue), s.issuing x.g = some i →
    let unit := if 6 ≤ x.s.toNat ∧ x.s.toNat ≤ 8 then i.scalar x.c else 0
    let all := [Instr.rel x, .acq x, .fence x]
    let f := if x.ranged then s.rangeFound i.grp.core i.grp.space (i.uni x.a) (i.uni x.b) else (s, [])
    (∀ c ∈ all, i.active = 0 → MovesOn s i (exec c s)) ∧
    (∀ c ∈ all, i.active ≠ 0 → badUnit x.s.toNat unit = true →
      Traps s i .illegalField i.active i.slot.pc (exec c s)) ∧
    (∀ c ∈ all, i.active ≠ 0 → badUnit x.s.toNat unit = false → x.ranged = true →
      badRange (i.uni x.a) (i.uni x.b) = true →
      Traps s i .xlateFault i.active (i.uni x.a + i.uni x.b - 1) (exec c s)) ∧
    (i.active ≠ 0 → badUnit x.s.toNat unit = false →
      (x.ranged = true → badRange (i.uni x.a) (i.uni x.b) = false) → foundLost f.2 = none →
      let within (a : Nat) : Bool := !x.ranged || inRanges (foundLines f.2) a
      let empty := x.ranged = true ∧ i.uni x.b = 0
      (f.1.link.up = true ∨ x.s.toNat ≠ 5 ∨ empty → Completes (exec (.rel x) s) fun s' =>
        i.Changes (f.1.releaseAt i.grp.core x.s.toNat unit within) s' i.moved) ∧
      (f.1.link.up = false → x.s.toNat = 5 → ¬ empty → Traps f.1 i .eccFatal i.active i.slot.pc (exec (.rel x) s)) ∧
      (Completes (exec (.acq x) s) fun s' =>
        i.Changes (f.1.acquireAt i.grp.core x.s.toNat unit
          (if x.ranged then some (inRanges (foundLines f.2)) else none)) s' i.moved) ∧
      MovesOn f.1 i (exec (.fence x) s))

/-- The lines of a range: its pieces are the lines from the one of its first byte to the one of its last; each translates as
a read of its page does, and one that translates to nothing gives no lines. Translating moves the memory system alone, and
nothing where the core's translation cache holds the leaves (R118, R274). R118 skips pages with Valid clear; that a page refused
by another row of R107 gives no lines either is the model's choice (log 83). -/
def Sys2Proof.Claims.RangesNameLines : Prop :=
  (∀ (base len : DWord) (a : Nat), (∃ p ∈ rangePieces base len, p.1 ≤ a ∧ a < p.1 + p.2) ↔
    len ≠ 0 ∧ base.toNat / 128 * 128 ≤ a ∧ a < (base.toNat + len.toNat - 1) / 128 * 128 + 128) ∧
  (∀ (base len : DWord), ∀ p ∈ rangePieces base len, p.1 / 65536 = (p.1 + p.2 - 1) / 65536) ∧
  (∀ (s : State) (core space : Nat) (base len : DWord), MemorySystem s (s.rangeFound core space base len).1) ∧
  ∀ (s : State) (core space : Nat) (base len : DWord) (dest : Nat → Option Nat),
    (∀ p ∈ rangePieces base len, canonical (BitVec.ofNat 64 p.1) = true ∧
      ∃ t, (s.core core).leafOf space (BitVec.ofNat 64 p.1).toNat = some t ∧
        match dest p.1 with
        | some pa => ∃ st bc, s.classify t.size t.entry (BitVec.ofNat 64 p.1).toNat .read = .ok pa st bc
        | none => ∃ c, s.classify t.size t.entry (BitVec.ofNat 64 p.1).toNat .read = .fault c) →
    (s.rangeFound core space base len).1 = s ∧ foundLost (s.rangeFound core space base len).2 = none ∧
    foundLines (s.rangeFound core space base len).2 =
      (rangePieces base len).filterMap fun p => (dest p.1).map fun pa => (pa, p.2)

/-- No copy of a line of a level is left but bytes that were written and not yet written out (R116). -/
def Dropped (ss : List Super) (p : Nat → Bool) : Prop :=
  ∀ b ∈ ss, ∀ q ∈ b.lines, p (b.tag * 512 + q.1 * 128) = true → q.2.full = false ∧ q.2.dirty ≠ 0

/-- After a release of scope `.clus` or beyond, the core holds no dirty line that the scope and the range cover; at `.sys`
no slice holds a dirty line of host memory in the range, from `.unit` outward none that the scope covers; a release at a
narrower scope does nothing (R115, R118). -/
def Sys2Proof.Claims.ReleasesCleanTheCore : Prop :=
  (∀ (s : State) (core scope unit : Nat) (within : Nat → Bool), scope < 3 → s.releaseAt core scope unit within = s) ∧
  ∀ (s : State) (core scope unit : Nat) (within : Nat → Bool), 3 ≤ scope →
    let t := s.releaseAt core scope unit within
    MemorySystem s t ∧
    (∀ p ∈ dirtyLines (t.core core).l1 ++ dirtyLines (t.core core).column,
      ¬ (within p.1 = true ∧ s.covers scope unit p.1 = true)) ∧
    (∀ n, ∀ p ∈ dirtyLines (t.slice n).supers, within p.1 = true →
      (scope = 5 → inHost p.1 = false) ∧ (6 ≤ scope → s.covers scope unit p.1 = false)) ∧
    ∀ k, k ≠ core → t.core k = s.core k

/-- After a full acquire of scope `.clus` or beyond, L1 holds only stable lines and bytes of its own that are not yet
written out, and the column cache's stamp is a new one. A ranged one leaves of the lines that the range and the scope cover,
in L1 and in the column cache, only such bytes, and touches no other line of theirs. The slices keep no copy of a host line
at `.sys`, nor of a line that the scope covers from `.unit` outward, but such bytes; an acquire at a narrower scope does
nothing (R97, R98, R116, R118). -/
def Sys2Proof.Claims.AcquiresFreshenTheCore : Prop :=
  (∀ (s : State) (core scope unit : Nat) (range : Option (Nat → Bool)), scope < 3 →
    s.acquireAt core scope unit range = s) ∧
  (∀ (s : State) (core scope unit : Nat), 3 ≤ scope →
    let t := s.acquireAt core scope unit none
    MemorySystem s t ∧
    (∀ b ∈ (t.core core).l1, ∀ p ∈ b.lines, p.2.stable = true ∨ (p.2.full = false ∧ p.2.dirty ≠ 0)) ∧
    (t.core core).stamp = (s.core core).stamp + 1 ∧ ∀ k, k ≠ core → t.core k = s.core k) ∧
  (∀ (s : State) (core scope unit : Nat) (p : Nat → Bool), 3 ≤ scope →
    let t := s.acquireAt core scope unit (some p)
    let q (a : Nat) : Bool := p a && s.covers scope unit a
    MemorySystem s t ∧ Dropped (t.core core).l1 q ∧ Dropped (t.core core).column q ∧
    (∀ a, q (a / 128 * 128) = false → findLine (t.core core).l1 a = findLine (s.core core).l1 a ∧
      findLine (t.core core).column a = findLine (s.core core).column a) ∧
    (t.core core).stamp = (s.core core).stamp ∧ ∀ k, k ≠ core → t.core k = s.core k) ∧
  ∀ (s : State) (core scope unit : Nat) (range : Option (Nat → Bool)), 3 ≤ scope →
    let within (a : Nat) : Bool := range.all fun p => p a
    let t := s.acquireAt core scope unit range
    (scope = 5 → ∀ n, Dropped (t.slice n).supers fun a => inHost a && within a) ∧
    (6 ≤ scope → ∀ n, Dropped (t.slice n).supers fun a => within a && s.covers scope unit a)

/-- What maintenance does to the lines that it names (R132): a clean leaves none of them dirty, in L1 at `.l1`, in the
column cache too from `.col`, in the slices too from `.l2`; an invalidate leaves no copy of them in the same levels but
bytes not yet written out, and at `.l2` and beyond the slices write theirs out first and keep nothing; an invalidate at
`.l1` or `.col` alone writes nothing and touches no other line. -/
def Sys2Proof.Claims.MaintenanceActs : Prop :=
  (∀ (s : State) (core level : Nat) (inval : Bool) (p : Nat → Bool), 1 ≤ level → level ≤ 4 →
    let t := s.maintain core level true inval p
    MemorySystem s t ∧ (∀ k, k ≠ core → t.core k = s.core k) ∧
    (∀ q ∈ dirtyLines (t.core core).l1, p q.1 = false) ∧
    (2 ≤ level → ∀ q ∈ dirtyLines (t.core core).column, p q.1 = false) ∧
    (3 ≤ level → ∀ n, ∀ q ∈ dirtyLines (t.slice n).supers, p q.1 = false)) ∧
  (∀ (s : State) (core level : Nat) (clean : Bool) (p : Nat → Bool), 1 ≤ level → level ≤ 4 →
    let t := s.maintain core level clean true p
    Dropped (t.core core).l1 p ∧ (2 ≤ level → Dropped (t.core core).column p) ∧
    (3 ≤ level → ∀ n, ∀ b ∈ (t.slice n).supers, ∀ q ∈ b.lines, p (b.tag * 512 + q.1 * 128) = false)) ∧
  ∀ (s : State) (core level : Nat) (p : Nat → Bool), 1 ≤ level → level ≤ 4 →
    let t := s.maintain core level false true p
    MemorySystem s t ∧ (∀ k, k ≠ core → t.core k = s.core k) ∧
    (∀ a, p (a / 128 * 128) = false ∨ level = 1 → findLine (t.core core).column a = findLine (s.core core).column a) ∧
    (∀ a, p (a / 128 * 128) = false → findLine (t.core core).l1 a = findLine (s.core core).l1 a) ∧
    (level < 3 → t.mem = s.mem ∧ t.slices = s.slices)

/-- The byte of an address that a list of superblocks holds as written and not yet written outward (R112). -/
def writtenIn (ss : List Super) (a : Nat) : Option Byte :=
  (findLine ss a).bind fun l => if l.dirty.getLsbD (a % 128) then l.data[a % 128]? else none

/-- The byte of an address that a core has written: L1's is the newer one (R89, R90). -/
def writtenBy (s : State) (core a : Nat) : Option Byte :=
  (writtenIn (s.core core).l1 a).or (writtenIn (s.core core).column a)

/-- Every superblock stands once in a cache, every line once in its superblock, and a line has 128 bytes (R88). -/
def Tidy (ss : List Super) : Prop :=
  (ss.map (·.tag)).Nodup ∧ ∀ b ∈ ss, (b.lines.map (·.1)).Nodup ∧ ∀ q ∈ b.lines, q.1 < 4 ∧ q.2.data.length = 128

/-- The caches of a core and the slices are so, the slices hold lines at home in them, and the bytes behind them are in
canonical form. -/
structure TidyCaches (s : State) (core : Nat) : Prop where
  l1 : Tidy (s.core core).l1
  column : Tidy (s.core core).column
  slices : ∀ n, Tidy (s.slice n).supers
  home : ∀ n, ∀ b ∈ (s.slice n).supers, s.home (b.tag * 512) = n
  mem : Memory.wf s.mem

/-- The homes of a core's dirty lines hold those lines, so that writing them out evicts nothing. -/
def HomesHold (s : State) (core : Nat) : Prop :=
  ∀ p ∈ dirtyLines (s.core core).l1 ++ dirtyLines (s.core core).column,
    ∃ l, findLine (s.slice (s.home p.1)).supers p.1 = some l ∧ l.full = true

/-- Where a written byte goes: after a release that covers its line it stands at the level-2 home, and at a memory scope, or
at `.sys` in host memory, in the bank arrays or in the host's memory. An acquire keeps every written byte of the core, and
those of the slices where it does not write them out itself (R112, R115, R116). -/
def Sys2Proof.Claims.WrittenBytesArrive : Prop :=
  (∀ (s : State) (core scope unit : Nat) (within : Nat → Bool) (a : Nat) (v : Byte), 3 ≤ scope → scope ≤ 9 → TidyCaches s core →
    HomesHold s core → within (a / 128 * 128) = true → s.covers scope unit (a / 128 * 128) = true →
    writtenBy s core a = some v →
    let t := s.releaseAt core scope unit within
    (scope < 6 → (scope = 5 → inHost (a / 128 * 128) = false) →
      writtenIn (t.slice (s.home a)).supers a = some v) ∧
    (6 ≤ scope ∨ (scope = 5 ∧ inHost (a / 128 * 128) = true ∧ s.link.up = true) → t.mem.read a = v)) ∧
  ∀ (s : State) (core scope unit : Nat) (range : Option (Nat → Bool)), scope ≤ 9 → TidyCaches s core →
    let t := s.acquireAt core scope unit range
    (∀ a, writtenBy t core a = writtenBy s core a) ∧
    (scope < 6 → ∀ n a, writtenIn (t.slice n).supers a = writtenIn (s.slice n).supers a) ∧
    (6 ≤ scope → ∀ n a v, writtenIn (s.slice n).supers a = some v → (range.all fun p => p (a / 128 * 128)) = true →
      s.covers scope unit (a / 128 * 128) = true → t.mem.read a = v)

/-- A clean moves written bytes outward: at `.l1` into the column cache, at `.col` to the level-2 home, from `.l2` on behind
it. An invalidate alone discards none: the core keeps its own, and the slices write theirs out first (R112, R132). -/
def Sys2Proof.Claims.MaintenanceKeepsBytes : Prop :=
  (∀ (s : State) (core level : Nat) (inval : Bool) (p : Nat → Bool) (a : Nat) (v : Byte), 1 ≤ level → level ≤ 4 →
    TidyCaches s core → p (a / 128 * 128) = true →
    let t := s.maintain core level true inval p
    (level = 1 → (∀ q ∈ dirtyLines (s.core core).l1, inHost q.1 = false ∧
        ∃ l, findLine (s.core core).column q.1 = some l ∧ l.full = true ∧
          (l.stable = true ∨ l.stamp = (s.core core).stamp)) →
      writtenIn (s.core core).l1 a = some v → writtenIn (t.core core).column a = some v) ∧
    (level = 2 → HomesHold s core → writtenBy s core a = some v →
      writtenIn (t.slice (s.home a)).supers a = some v) ∧
    (3 ≤ level → HomesHold s core → writtenBy s core a = some v →
      (inHost (a / 128 * 128) = true → s.link.up = true) → t.mem.read a = v)) ∧
  ∀ (s : State) (core level : Nat) (p : Nat → Bool), TidyCaches s core →
    let t := s.maintain core level false true p
    (∀ a, writtenBy t core a = writtenBy s core a) ∧
    ∀ n a v, 3 ≤ level → writtenIn (s.slice n).supers a = some v → p (a / 128 * 128) = true →
      (inHost (a / 128 * 128) = true → s.link.up = true) → t.mem.read a = v

/-- The lines that `clean`, `inval` or `cinv` names, with the lanes that name them: those of its range, or the line of each
active lane's address. -/
def maintained (s : State) (i : Issue) (x : XM) : State × List (LaneMask × List ((Nat × Nat) × Xl)) :=
  if x.ranged then
    let q := s.rangeFound i.grp.core i.grp.space (i.uni x.a) (i.uni x.b)
    (q.1, [(i.active, q.2)])
  else (lanes i.active).foldl (fun p l =>
    let q := p.1.rangeFound i.grp.core i.grp.space (i.address x l) 1
    (q.1, p.2 ++ [(laneBit l, q.2)])) (s, [])

/-- A line of host memory has dirty bytes that a maintenance at `.l2` or beyond sends: in a slice, and for a clean in the
core too (R132). -/
def sendsHost (s : State) (core : Nat) (clean : Bool) (a : Nat) : Prop :=
  inHost a = true ∧ ((∃ q ∈ s.slices, ∃ p ∈ dirtyLines q.2.supers, p.1 = a) ∨
    (clean = true ∧ ∃ p ∈ dirtyLines (s.core core).l1 ++ dirtyLines (s.core core).column, p.1 = a))

/-- A piece of a range holds a line of which this is true. -/
def Holds (line : Nat → Prop) (p : (Nat × Nat) × Xl) (a : Nat) : Prop :=
  ∃ pa st bc, p.2 = .ok pa st bc ∧ pa ≤ a ∧ a < pa + p.1.2 ∧ line a

/-- The virtual address of the first such line of a range: the lowest one of the first piece that holds one. -/
def FirstSent (line : Nat → Prop) (xs : List ((Nat × Nat) × Xl)) (va : DWord) : Prop :=
  ∃ pre p post a pa st bc, xs = pre ++ p :: post ∧ (∀ q ∈ pre, ∀ b, ¬ Holds line q b) ∧ Holds line p a ∧
    (∀ b, Holds line p b → a ≤ b) ∧ p.2 = .ok pa st bc ∧ va = BitVec.ofNat 64 (p.1.1 + (a - pa))

/-- The instruction traps with `ECC_FATAL` for the lanes whose lists give an address, with that of the lowest (R230). -/
def LostWhere (s : State) (i : Issue) (ps : List (LaneMask × List ((Nat × Nat) × Xl)))
    (lost : List ((Nat × Nat) × Xl) → DWord → Prop) (res : Result) : Prop :=
  ∀ pre p post va, ps = pre ++ p :: post → (∀ q ∈ pre, ∀ a, ¬ lost q.2 a) → lost p.2 va →
    ∃ m : LaneMask, Traps s i .eccFatal m va res ∧
      ∀ l, m.getLsbD l = true ↔ ∃ q ∈ ps, q.1.getLsbD l = true ∧ ∃ a, lost q.2 a

/-- The maintenance instructions: whether each cleans, whether it invalidates. -/
def maintains : Instr → Option (Bool × Bool × XM)
  | .clean x => some (true, false, x)
  | .inval x => some (false, true, x)
  | .cinv x => some (true, true, x)
  | _ => none

/-- `clean`, `inval` and `cinv` complete: with no active lane nothing happens; a range that breaks the address rule traps;
otherwise the maintenance of the lines named is done, at the level that the instruction names, and no register changes. A
maintenance that has dirty bytes of host memory to send traps while the link is down, and so does one that meets a table
which cannot be read: the lanes that name such a line, with its address (R118, R132, R230, R274, R345). -/
def Sys2Proof.Claims.MaintenanceCompletes : Prop :=
  ∀ (c : Instr) (x : XM) (s : State) (i : Issue) (clean inval : Bool), maintains c = some (clean, inval, x) →
    s.issuing x.g = some i →
    let f := maintained s i x
    let found := f.2.flatMap fun p => p.2
    let sent := sendsHost f.1 i.grp.core clean
    (i.active = 0 → MovesOn s i (exec c s)) ∧
    (i.active ≠ 0 → x.ranged = true → badRange (i.uni x.a) (i.uni x.b) = true →
      Traps s i .xlateFault i.active (i.uni x.a + i.uni x.b - 1) (exec c s)) ∧
    (x.ranged = false → TrapsWhere s i .xlateFault (fun l => !canonical (i.address x l)) (i.address x) (exec c s)) ∧
    (i.active ≠ 0 → (x.ranged = true → badRange (i.uni x.a) (i.uni x.b) = false) →
      (x.ranged = false → ∀ l, i.active.getLsbD l = true → canonical (i.address x l) = true) →
      LostWhere f.1 i f.2 (fun xs va => foundLost xs = some va) (exec c s) ∧
      ((∀ p ∈ f.2, foundLost p.2 = none) →
        (f.1.link.up = true ∨ x.sl.toNat < 3 ∨ (∀ p ∈ found, ∀ a, ¬ Holds sent p a) →
          Completes (exec c s) fun s' =>
            i.Changes (f.1.maintain i.grp.core x.sl.toNat clean inval (inRanges (foundLines found))) s' i.moved) ∧
        (f.1.link.up = false → 3 ≤ x.sl.toNat → LostWhere f.1 i f.2 (FirstSent sent) (exec c s))))

/-- Releases, acquires, fences and cache maintenance: all of the statements just given. -/
def Obligations.OrderingAndMaintenance : Prop :=
  Sys2Proof.Claims.OrderingCompletes ∧ Sys2Proof.Claims.RangesNameLines ∧ Sys2Proof.Claims.ReleasesCleanTheCore ∧
  Sys2Proof.Claims.AcquiresFreshenTheCore ∧ Sys2Proof.Claims.WrittenBytesArrive ∧ Sys2Proof.Claims.MaintenanceActs ∧
  Sys2Proof.Claims.MaintenanceKeepsBytes ∧ Sys2Proof.Claims.MaintenanceCompletes

/-- `xlinv` drops exactly the translations of its address space that it names, in its core or with `.dev` in every core;
nothing else changes, and an address or a range that breaks the address rule traps with the instruction's own address in
`$taddr`, since the entry names none (R323, R332). -/
def Sys2Proof.Claims.TranslationsAreDropped : Prop :=
  ∀ (x : XM) (s : State) (i : Issue), s.issuing x.g = some i →
    (i.active = 0 → MovesOn s i (exec (.xlinv x) s)) ∧
    (i.active ≠ 0 → x.sub ≠ 1 → x.ranged = true → badRange (i.uni x.a) (i.uni x.b) = true →
      Traps s i .xlateFault i.active i.slot.pc (exec (.xlinv x) s)) ∧
    (x.sub ≠ 1 → x.ranged = false →
      TrapsWhere s i .xlateFault (fun l => !canonical (i.address x l)) (fun _ => i.slot.pc) (exec (.xlinv x) s)) ∧
    (i.active ≠ 0 → (x.sub ≠ 1 → x.ranged = true → badRange (i.uni x.a) (i.uni x.b) = false) →
      (x.sub ≠ 1 → x.ranged = false → ∀ l, i.active.getLsbD l = true → canonical (i.address x l) = true) →
      Completes (exec (.xlinv x) s) fun s' => ∃ s1, i.Changes s1 s' i.moved ∧ s1 = { s with cores := s1.cores } ∧
        (∀ k, s1.core k = { s.core k with tlb := (s1.core k).tlb }) ∧
        ∀ k t, t ∈ (s1.core k).tlb ↔ t ∈ (s.core k).tlb ∧
          ¬ ((k = i.grp.core ∨ x.s = 4) ∧ t.space = i.grp.space ∧ namesPage i x t))

/-- `icinv` drops exactly the instruction lines that it names, in its core or in every core; nothing else changes, and a
range that breaks the address rule traps with the instruction's own address in `$taddr` (R323, R333). -/
def Sys2Proof.Claims.InstructionLinesAreDropped : Prop :=
  ∀ (x : XS) (s : State) (i : Issue), s.issuing x.g = some i →
    (i.active = 0 → MovesOn s i (exec (.icinv x) s)) ∧
    (i.active ≠ 0 → x.i32.getLsbD 0 = false → badRange (i.uni x.a) (i.uni x.b) = true →
      Traps s i .xlateFault i.active i.slot.pc (exec (.icinv x) s)) ∧
    (i.active ≠ 0 → x.i32.getLsbD 0 = true ∨ badRange (i.uni x.a) (i.uni x.b) = false →
      Completes (exec (.icinv x) s) fun s' => ∃ s1, i.Changes s1 s' i.moved ∧ s1 = { s with cores := s1.cores } ∧
        (∀ k, s1.core k = { s.core k with icache := (s1.core k).icache }) ∧
        ∀ k l, l ∈ (s1.core k).icache ↔ l ∈ (s.core k).icache ∧
          ¬ ((k = i.grp.core ∨ x.i32.getLsbD 1 = true) ∧ namesLine i x l))

/-- Xlinv and icinv drop exactly what they name: all of the statements just given. -/
def Obligations.CacheEntriesAreDropped : Prop :=
  Sys2Proof.Claims.TranslationsAreDropped ∧ Sys2Proof.Claims.InstructionLinesAreDropped

/-! ### Memory-side calls and return-free adds -/

/-- The permit with which a group's call goes out: none where the command needs none, otherwise the group's explicit permit
or an implicit one that nothing uses, once it is granted (R139). -/
def CallPermit (s : State) (i : Issue) (w : DWord) (perm : Option Nat) : Prop :=
  let mine := (s.core i.grp.core).permits.filter fun p => decide (p.group = some i.gid ∧ p.held = true)
  let explicit := mine.find? fun p => p.explicit
  if 8 ≤ w.toNat % 16 ∨ commandRows w ≤ 16 then perm = none
  else ∃ p, p.granted = true ∧ perm = some p.ticket ∧ (explicit = some p ∨
    (explicit = none ∧ (mine.find? fun p => !p.explicit && p.users.isEmpty) = some p))

/-- A command of more than 16 rows waits at its instruction while its group has no permit that is granted: the one it has
asked for, or a new request (R139). -/
def Sys2Proof.Claims.LongCallsWaitForAPermit : Prop :=
  ∀ (x : XS) (s : State) (i : Issue) (pa : Nat → Nat → Nat), (Instr.mcall x).wellFormed = true →
    s.issuing x.g = some i → i.active ≠ 0 →
    let w := i.uni x.b
    cmdBad w = false → (∀ l, i.active.getLsbD l = true → CallAllowed s i x w pa l) →
    w.toNat % 16 < 8 → 16 < commandRows w →
    (∀ p ∈ (s.core i.grp.core).permits, p.group = some i.gid → p.held = true → p.granted = false) →
    Completes (exec (.mcall x) s) fun s' => ∃ t, OnCore { s with groups := s'.groups } s' i.grp.core
        { s.core i.grp.core with permits := (s'.core i.grp.core).permits } ∧
      (∃ p ∈ (s'.core i.grp.core).permits, p.ticket = t ∧ p.group = some i.gid ∧ p.held = true ∧ p.granted = false) ∧
      (∀ p ∈ (s.core i.grp.core).permits, p ∈ (s'.core i.grp.core).permits) ∧
      (∀ k, k ≠ i.gid → s'.groups.lookup k = s.groups.lookup k) ∧
      ∀ g, s'.groups.lookup i.gid = some g → g = i.grp.onEntry i.slot.mask fun e =>
        { e with hold := .permit t, len := i.slot.words }

/-- `mcall`: a command word that R136 refuses, then a mask that omits a lane, traps; a call whose operands are all allowed,
and whose permit, where it needs one, is granted, sends one call a lane with its operands to the unit that R138 names, and
its lanes wait in the pool while the others go on (R44, R136 to R139, R277 to R280). -/
def Sys2Proof.Claims.CallsAreSent : Prop :=
  ∀ (x : XS) (s : State) (i : Issue) (e : Entry), (Instr.mcall x).wellFormed = true → s.issuing x.g = some i →
    i.stands e →
    let w := i.uni x.b
    let m := i.uni x.c &&& i.grp.lanesAll
    (i.active = 0 → MovesOn s i (exec (.mcall x) s)) ∧
    (i.active ≠ 0 → cmdBad w = true → Traps s i .illegalField i.active i.slot.pc (exec (.mcall x) s)) ∧
    (cmdBad w = false → TrapsWhere s i .memberMask (fun l => !(i.uni x.c).getLsbD l) (fun _ => i.slot.pc)
      (exec (.mcall x) s)) ∧
    ∀ (pa : Nat → Nat → Nat) (perm : Option Nat), i.active ≠ 0 → cmdBad w = false →
      (∀ l, i.active.getLsbD l = true → CallAllowed s i x w pa l) →
      CallPermit s i w perm → (s.core i.grp.core).queue5 = [] →
      Completes (exec (.mcall x) s) fun s' => ∃ g new,
        s' = { s with groups := s'.groups, cores := s'.cores, executors := s'.executors, walkers := s'.walkers,
                      assays := s'.assays, serial := s'.serial } ∧
        (∀ k, k ≠ i.grp.core → s'.core k = s.core k) ∧
        s'.core i.grp.core = { s.core i.grp.core with
          queue5 := (s'.core i.grp.core).queue5
          permits := (s.core i.grp.core).permits.map fun p =>
            if perm = some p.ticket then { p with users := p.users ++ new.map fun q => q.ticket } else p } ∧
        s'.groups.lookup i.gid = some g ∧ (∀ k, k ≠ i.gid → s'.groups.lookup k = s.groups.lookup k) ∧
        g = { i.placed g.front.entries with
              front := { i.grp.front with entries := g.front.entries, pool := i.grp.front.pool ++ new } } ∧
        i.Places (fun l => if i.active.getLsbD l then none else i.stay e) g.front ∧
        new.map (·.lane) = lanes i.active ∧
        (∀ p ∈ new, p.mask = m ∧ p.prio.toNat = x.i32.toNat / 2 ^ 24 ∧
          p.rejoin = i.slot.pc + (x.i32.setWidth 24).signExtend 64 * 4 ∧
          ∃ c, Sent s' i.grp.core c ∧ c.ticket = p.ticket ∧ c.lane = p.lane ∧ c.command = w ∧ c.x = pa p.lane 0 ∧
            c.a = i.grp.vreg i.gid p.lane (Src.index x.a + 6) ∧ c.d = x.d.n.toNat ∧ c.permit = perm ∧
            ∀ o ∈ callOperands i (Src.index x.a) w p.lane, (o.1 = 1 → c.y = pa p.lane 1) ∧
              (o.1 = 2 → c.z = some (pa p.lane 2)))

/-- The scope at which a call releases, with the unit that holds its X: its release code 0 and 1 name the bank, 2 the
channel, 3 the memory stack, 4 all of main DRAM; a walk or a pass has `.mem` (R135, R137, R147, R152). -/
def callScope (s : State) (c : Call) : Nat × Nat :=
  let code := c.command.toNat / 2 ^ 10 % 8
  if 8 ≤ c.command.toNat % 16 ∨ code = 4 then (9, 0)
  else if code = 2 then (7, s.bankOf c.x / 64)
  else if code = 3 then (8, s.bankOf c.x / 2048)
  else (6, s.bankOf c.x)

/-- What a reply leaves of the machine and of its group: the acquire that bit 6 of the command asks for, at the command's
release scope, or no acquire; the register of its lane, and no other; the lane out of the pool, with the entries and the
parked lanes given (R44, R137, R279). -/
def Replied (s1 : State) (r : Reply) (g : Group) (entries : List Entry) (parked : List Parked) (s' : State) : Prop :=
  ∃ h,
    let at' := callScope s1 r.call
    let s2 := if r.call.command.getLsbD 6 = true then s1.acquireAt g.core at'.1 at'.2 none else s1
    s' = { s2 with groups := s'.groups } ∧ s'.groups.lookup r.call.issuer.group = some h ∧
    (∀ k, k ≠ r.call.issuer.group → s'.groups.lookup k = s1.groups.lookup k) ∧
    (∀ l n, n < 256 → h.vreg r.call.issuer.group l n =
      if l = r.call.lane ∧ n = r.call.d then r.value else g.vreg r.call.issuer.group l n) ∧
    h = { g with
      vregs := h.vregs, trap := h.trap
      front := { g.front with
        entries := entries, parked := parked
        pool := g.front.pool.filter fun q => q.ticket != r.call.ticket } } ∧
    (g.trap = none → h.trap = none)

/-- A reply writes its lane's register and no other, performs the caller's acquire at the command's release scope where bit 6
of the command asks for it and no acquire where it does not, and the lane leaves the pool and parks at its rejoin address;
while a named live lane is elsewhere it stays there, and it goes on from there where none is; other groups and the rest of
the machine are as before. A reply that tells of an uncorrectable error makes the group trap instead (R43, R44, R137, R144,
R279). -/
def Sys2Proof.Claims.RepliesResumeLanes : Prop :=
  ∀ (ticket : Nat) (s : State) (r : Reply) (g : Group), (s.replies.find? fun r => r.call.ticket = ticket) = some r →
    s.groups.lookup r.call.issuer.group = some g → r.call.d < 256 → quiet g →
    let s1 := { s with replies := s.replies.filter fun q => q.call.ticket != ticket }.onCore r.call.core fun k =>
      k.leavePermit ticket
    (r.ecc = none →
      ∀ p, (g.front.pool.find? fun p => p.ticket = ticket) = some p →
      (∃ l < g.width, p.mask.getLsbD l = true ∧ g.live.getLsbD l = true ∧ l ≠ p.lane) →
      Completes (exec (.mcallReply ticket) s) (Replied s1 r g g.front.entries
        [{ lane := p.lane, rejoin := p.rejoin, prio := p.prio, mask := p.mask, origin := p.origin }])) ∧
    (r.ecc = none → ∀ p, (g.front.pool.find? fun p => p.ticket = ticket) = some p → p.lane < 64 →
      (∀ l < g.width, p.mask.getLsbD l = true → g.live.getLsbD l = true → l = p.lane) →
      Completes (exec (.mcallReply ticket) s) (Replied s1 r g
        (g.front.entries ++ [Entry.make p.prio p.rejoin (laneBit p.lane)]) [])) ∧
    (∀ off, r.ecc = some off → g.live.getLsbD r.call.lane = true →
      exec (.mcallReply ticket) s = .next ((s1.onGroup r.call.issuer.group fun g => g.replied ticket).takeTrap
        r.call.issuer.group
        { cause := .eccFatal, lanes := laneBit r.call.lane, addr := r.call.vx + BitVec.ofNat 64 off,
          pc := r.call.issuer.pc, port := r.call.issuer.port, followers := 0, resume := .unchanged }))

/-- A reply into a group with lanes parked before: its lane parks at its rejoin address, and every parked lane whose
condition then holds leaves, those of one address together, at the highest priority that they named; the register, the
acquire and the rest are as for any reply (R43, R44, R137, R279). -/
def Sys2Proof.Claims.LastRepliesRelease : Prop :=
  ∀ (ticket : Nat) (s : State) (r : Reply) (g : Group) (p : Pooled),
    (s.replies.find? fun r => r.call.ticket = ticket) = some r → r.ecc = none →
    s.groups.lookup r.call.issuer.group = some g → r.call.d < 256 → g.front.waits = [] →
    (∀ q ∈ g.front.parked, q.lane < 64) → (g.front.pool.find? fun p => p.ticket = ticket) = some p → p.lane < 64 →
    let s1 := { s with replies := s.replies.filter fun q => q.call.ticket != ticket }.onCore r.call.core fun k =>
      k.leavePermit ticket
    let ps := g.front.parked ++
      [{ lane := p.lane, rejoin := p.rejoin, prio := p.prio, mask := p.mask, origin := p.origin }]
    Completes (exec (.mcallReply ticket) s) fun s' => ∃ new,
      LeaveTogether (ps.filter (mayLeave g.width g.live ps)) new ∧
      Replied s1 r g (g.front.entries ++ new) (ps.filter fun q => !mayLeave g.width g.live ps q) s'

/-- A command word is refused: command 10 to 15; of `walk` and `assay` any bit above 6 or the type; of the others a reserved bit,
type 2 or 3, scope code 5 to 7, a sub-operation that the command has not, or an integer `vadd` (R135, R136, R278). -/
def Sys2Proof.Claims.CommandsAreChecked : Prop :=
  ∀ w : DWord, cmdBad w = true ↔
    let n := w.toNat
    let code := n % 16
    10 ≤ code ∨ (8 ≤ code ∧ (n / 2 ^ 7 ≠ 0 ∨ n / 2 ^ 4 % 4 ≠ 0)) ∨
    (code < 8 ∧ (n / 2 ^ 32 ≠ 0 ∨ 2 ≤ n / 2 ^ 4 % 4 ∨ 5 ≤ n / 2 ^ 10 % 8 ∨ 5 ≤ n / 2 ^ 7 % 8 ∨
      (if code = 5 then 2 else if code = 6 then 5 else 0) < n / 2 ^ 29 % 8 ∨ (code = 7 ∧ n / 2 ^ 4 % 4 = 1)))

/-- Memory-side calls are sent, and their replies resume the lanes: all of the statements just given. -/
def Obligations.CallsAndReplies : Prop :=
  Sys2Proof.Claims.CommandsAreChecked ∧ Sys2Proof.Claims.CallsAreSent ∧ Sys2Proof.Claims.LongCallsWaitForAPermit ∧ Sys2Proof.Claims.RepliesResumeLanes ∧
  Sys2Proof.Claims.LastRepliesRelease

/-- What a return-free add does at its bank: the FP32 sum, rounded once, at its place; where the word cannot be read nothing
is added, and the lane that sent it takes `ECC_FATAL` as for an engine's fault, which is the model's choice (R150, R356;
log 16). -/
def addDone (s : State) (a : Add) : State :=
  let t : State := { s with adds := s.adds.filter fun b => b.ticket != a.ticket }
  if s.badRead a.pa 4 = true then t.engineTrap a.issuer .eccFatal a.va
  else t.bankWrite a.pa (leBytes 4 (Flt.f32.rn ((Flt.f32.value (wordAt s.mem a.pa).toNat).add
    (Flt.f32.value a.value.toNat))))

/-- The oldest return-free add of a bank is performed at a row-step boundary where none has been since the last step (R146;
that the adds are the only ordinary accesses that the model queues at a bank is log 73). -/
def atBoundary (s : State) (bank : Nat) (e : Engine) : State :=
  match s.adds.find? fun a => s.bankOf a.pa = bank with
  | some a => if e.running = true ∧ e.served = 0 then addDone s a else s
  | none => s

/-- A row step of a bank executor: after the boundary before it, what its command writes for each element of the row, then
either the next step with its partials, or Z and the reply; every other byte is as before (R129, R140 to R143, R146). -/
def Sys2Proof.Claims.RowStepsCompute : Prop :=
  ∀ (code bank : Nat) (s : State) (ev : Instr) (c : Call) (q : List Call) (e : Engine), rowStepOf code bank = some ev →
    s.executors.lookup bank = some e → e.queue = c :: q → c.command.toNat % 16 = code → e.refreshUntil ≤ s.cycles →
    (e.running = true → e.partials.length = 16) → MayBegin s e c →
    let k := stepOf e c
    rowReadable s c k →
    let b := atBoundary s bank e
    let m := wroteWords b.mem ((List.range (commandCount c.command)).filterMap fun j => rowWrite c b.mem k j)
    (k + 1 < commandRows c.command → Completes (exec ev s) fun s' => ∃ f,
      s' = { b with mem := m, executors := s'.executors, watches := s'.watches } ∧ SameWatches s s' ∧
      s'.executors.lookup bank = some f ∧ (∀ n, n ≠ bank → s'.executors.lookup n = s.executors.lookup n) ∧
      f.queue = e.queue ∧ f.running = true ∧ f.step = k + 1 ∧ f.served = 0 ∧
      (code = 0 ∨ code = 5 → ∀ p < 16, f.partials.getD p 0 = partialAfter c b.mem k p (partialOf e c p)) ∧
      (code = 6 → f.first = firstAfter e c b.mem k ∧ f.tally = tallyAfter e c b.mem k)) ∧
    (commandRows c.command ≤ k + 1 → Completes (exec ev s) fun s' =>
      let m' := match c.z with
        | some a => m.writeBytes a (leBytes 4 (replyOf e c b.mem k).2.toNat)
        | none => m
      Fed { b with mem := m', watches := s'.watches,
                   replies := s.replies ++ [{ call := c, value := (replyOf e c b.mem k).1, ecc := none }] } s' ∧
      SameWatches s s' ∧
      (s'.executors.at bank Engine.initial).running = false ∧ q <+: (s'.executors.at bank Engine.initial).queue)

/-- A row step that reads a line that cannot be read ends its command at once, with the offset of the step (R144); one that
finds no command of its code, or refresh holding its bank, or an earlier call of its core that may access one of its bytes,
changes nothing (R129, R138, R145). -/
def Sys2Proof.Claims.RowStepsStop : Prop :=
  (∀ (code bank : Nat) (s : State) (ev : Instr) (c : Call) (q : List Call) (e : Engine), rowStepOf code bank = some ev →
    s.executors.lookup bank = some e → e.queue = c :: q → c.command.toNat % 16 = code → e.refreshUntil ≤ s.cycles →
    MayBegin s e c → ¬ rowReadable s c (stepOf e c) → Completes (exec ev s) fun s' =>
      Fed { atBoundary s bank e with
            replies := s.replies ++ [{ call := c, value := 0, ecc := some (2048 * stepOf e c) }] } s') ∧
  ∀ (code bank : Nat) (s : State) (ev : Instr), rowStepOf code bank = some ev →
    (∀ e c q, s.executors.lookup bank = some e → e.queue = c :: q →
      c.command.toNat % 16 ≠ code ∨ s.cycles < e.refreshUntil ∨ ¬ MayBegin s e c) →
    exec ev s = .next s

/-- Refresh holds a bank for 255 cycles, from a step boundary on, and changes nothing else (R145). -/
def Sys2Proof.Claims.RefreshHoldsABank : Prop :=
  ∀ (bank : Nat) (s : State), (s.executors.at bank Engine.initial).refreshUntil ≤ s.cycles →
    Completes (exec (.refresh bank) s) fun s' => ∃ f, s' = { s with executors := s'.executors } ∧
      s'.executors.lookup bank = some f ∧
      f = { s.executors.at bank Engine.initial with refreshUntil := s.cycles + 255 } ∧
      ∀ b, b ≠ bank → s'.executors.lookup b = s.executors.lookup b

/-- Row steps of the bank executors, and refresh: all of the statements just given. -/
def Obligations.RowSteps : Prop :=
  Sys2Proof.Claims.RowStepsCompute ∧ Sys2Proof.Claims.RowStepsStop ∧ Sys2Proof.Claims.RefreshHoldsABank

/-- A unit's read of four bytes at the bank arrays, translated under a root table for main DRAM: the state after it and the
word (R147). -/
def ReadsWord (space : Nat) (s : State) (va : DWord) (t : State) (w : Word) : Prop :=
  ∃ pa st bc, s.translateBare space va .read = (t, .ok pa st bc) ∧ inDram pa = true ∧ t.badRead pa 4 = false ∧
    w = wordAt t.mem pa

/-- A translation that a unit refuses: none, or one that is not for main DRAM (R149; the latter log 51). -/
def Refused (x : Xl) : Prop := ∀ pa st bc, x = .ok pa st bc → inDram pa = false

/-- One element pooled: the maximum, the weighted sum rounded once, or the sum (R148). -/
def pooledElement (pooling : Nat) (w acc t : Word) : Word :=
  if pooling = 2 then fmax acc t else if pooling = 3 then ffma w t acc else fadd acc t

/-- A table row, element by element from `va` on, joins the accumulators. -/
def RowPools (space pooling : Nat) (w : Word) : State → DWord → List Word → State → List Word → Prop
  | s, _, [], t, out => t = s ∧ out = []
  | s, va, a :: r, t, out => ∃ s1 v rest, ReadsWord space s va s1 v ∧ RowPools space pooling w s1 (va + 4) r t rest ∧
      out = pooledElement pooling w a v :: rest

/-- The rows that `n` indices name, from index number `j` on, join the accumulators in list order: the index, its weight
where the pooling has weights, then the row at base + 4Lj (R147, R148). -/
def RowsPool (space : Nat) (r : Lookup) : Nat → Nat → State → List Word → State → List Word → Prop
  | 0, _, s, acc, t, out => t = s ∧ out = acc
  | n + 1, j, s, acc, t, out => ∃ s1 ix s2 w s3 acc',
      ReadsWord space s (r.indices + BitVec.ofNat 64 (4 * j)) s1 ix ∧ ix.toNat < r.rows ∧
      (if r.pooling = 3 then ReadsWord space s1 (r.weights + BitVec.ofNat 64 (4 * j)) s2 w else s2 = s1) ∧
      RowPools space r.pooling w s2 (r.table + BitVec.ofNat 64 (4 * r.length * ix.toNat)) acc s3 acc' ∧
      RowsPool space r n (j + 1) s3 acc' t out

/-- Output elements from `va` on translate for writing. -/
def OutputsAre (space : Nat) : Nat → State → DWord → State → List Nat → Prop
  | 0, s, _, t, out => t = s ∧ out = []
  | n + 1, s, va, t, out => ∃ s1 pa st bc rest, s.translateBare space va .write = (s1, .ok pa st bc) ∧
      inDram pa = true ∧ OutputsAre space n s1 (va + 4) t rest ∧ out = pa :: rest

/-- Where pooling starts, and what is written in the end (R148). -/
def poolStart (r : Lookup) : List Word := List.replicate r.length (if r.pooling = 2 then 0xFF800000 else 0)
def pooledOutput (r : Lookup) (acc : List Word) : List Word :=
  if r.count = 0 then List.replicate r.length 0
  else if r.pooling = 1 then acc.map fun x =>
    BitVec.ofNat 32 (Flt.f32.rn ((Flt.f32.value x.toNat).div (Val.ofInt r.count 0)).1
      ((Flt.f32.value x.toNat).div (Val.ofInt r.count 0)).2)
  else acc

/-- A lookup record: fields that R147 forbids give status 3 (counts and lengths out of range among them, log 26); an index at
or above the row count status 1, an index or an output element that does not translate status 2, an index that cannot be read
status 4, without any output; otherwise the pooled elements are written, in order, and the status is 0. Which status wins
where two apply is log 51 (R147 to R149). -/
def Sys2Proof.Claims.LookupsPool : Prop :=
  ∀ (s : State) (space : Nat) (bs : List Byte),
    let r := lookupOf bs
    (lookupBad bs r = true → s.lookup space bs = (s, 3)) ∧
    (lookupBad bs r = false →
      (∀ s1 acc s2 out, RowsPool space r r.count 0 s (poolStart r) s1 acc →
        OutputsAre space r.length s1 r.output s2 out →
        ∃ t, s.lookup space bs = (t, 0) ∧ SameWatches s2 t ∧
          t = { s2 with mem := wroteWords s2.mem (out.zip (pooledOutput r acc)), watches := t.watches }) ∧
      (∀ s1 acc n s2 pas s3 x, RowsPool space r r.count 0 s (poolStart r) s1 acc → n < r.length →
        OutputsAre space n s1 r.output s2 pas →
        s2.translateBare space (r.output + BitVec.ofNat 64 (4 * n)) .write = (s3, x) → Refused x →
        s.lookup space bs = (s3, 2)) ∧
      ∀ j < r.count, ∀ s1 acc, RowsPool space r j 0 s (poolStart r) s1 acc →
        let va := r.indices + BitVec.ofNat 64 (4 * j)
        (∀ s2 ix, ReadsWord space s1 va s2 ix → r.rows ≤ ix.toNat → s.lookup space bs = (s2, 1)) ∧
        (∀ s2 x, s1.translateBare space va .read = (s2, x) → Refused x → s.lookup space bs = (s2, 2)) ∧
        ∀ s2 pa st bc, s1.translateBare space va .read = (s2, .ok pa st bc) → inDram pa = true →
          s2.badRead pa 4 = true → s.lookup space bs = (s2, 4))

/-- The walker takes one record: its status goes to offset 44 of the record, and after the last record the reply leaves with
the number of records that failed; a record that cannot be read ends the walk, and an earlier call of its core that has not
been performed holds it back. The record array advances physically (log 50) (R129, R144, R147, R149). -/
def Sys2Proof.Claims.WalksTakeRecords : Prop :=
  ∀ (stack : Nat) (s : State) (c : Call) (q : List Call) (e : Engine), s.walkers.lookup stack = some e →
    e.queue = c :: q →
    let k := stepOf e c
    let n := if e.running then e.tally else c.tally
    let pa := c.x + 64 * k
    let p := s.lookup c.issuer.space (s.mem.readBytes pa 64)
    let m := p.1.mem.writeBytes (pa + 44) (leBytes 4 p.2)
    (¬ MayBegin s e c → 8 ≤ c.command.toNat % 16 → exec (.walk stack) s = .next s) ∧
    (MayBegin s e c → 8 ≤ c.command.toNat % 16 →
      (s.badRead pa 64 = true → Completes (exec (.walk stack) s) fun s' =>
        Fed { s with replies := s.replies ++ [{ call := c, value := 0, ecc := some (64 * k) }] } s') ∧
      (s.badRead pa 64 = false → k + 1 < c.a.toNat → Completes (exec (.walk stack) s) fun s' => ∃ f,
        s' = { p.1 with mem := m, walkers := s'.walkers, watches := s'.watches } ∧ SameWatches p.1 s' ∧
        s'.walkers.lookup stack = some f ∧ (∀ b, b ≠ stack → s'.walkers.lookup b = s.walkers.lookup b) ∧
        f.queue = e.queue ∧ f.running = true ∧ f.step = k + 1 ∧ f.tally = n + (if p.2 = 0 then 0 else 1)) ∧
      (s.badRead pa 64 = false → c.a.toNat ≤ k + 1 → Completes (exec (.walk stack) s) fun s' =>
        SameWatches p.1 s' ∧ Fed { p.1 with
          mem := m, watches := s'.watches
          replies := p.1.replies ++
            [{ call := c, value := BitVec.ofNat 32 (n + (if p.2 = 0 then 0 else 1)), ecc := none }] } s'))

/-- The end of a pass: at a host target every slice has written its dirty lines of host memory first, which nothing can
while the link is down (log 47); the status and the number of changed blocks go to offset 32 of the descriptor, and the reply
leaves with that number (R152 to R154). -/
def Sys2Proof.Claims.PassesEnd : Prop :=
  ∀ (s : State) (stack : Nat) (e : Engine) (c : Call) (host : Bool) (status : Nat),
    let t := s.endPass stack e c host status
    SameWatches s t ∧ ∃ s1, MemorySystem s s1 ∧
      (host = false ∨ s.link.up = false → s1 = { s with watches := s1.watches }) ∧
      (host = true → s.link.up = true → ∀ n, ∀ p ∈ dirtyLines (s1.slice n).supers, inHost p.1 = false) ∧
      Fed { s1 with
        mem := s1.mem.writeBytes (c.x + 32) (leBytes 4 status ++ leBytes 4 e.tally), watches := t.watches
        replies := s.replies ++ [{ call := c, value := BitVec.ofNat 32 e.tally, ecc := none }] } t

/-- The new content of an extent that holds changed blocks, and which they are: a block is changed whose digest differs from
its table entry, or each one where the descriptor says so; the others stay as the extent has them (R153). -/
def Sys2Proof.Claims.ExtentsMixBlocks : Prop :=
  ∀ (s : State) (space : Nat) (p : Pass) (first : Nat) (old : List Byte) (at' : Nat → State) (block : Nat → List Byte)
    (entry : Nat → Nat), old.length = 0x200000 → at' 0 = s →
    let n := min 32 (p.count - first)
    (∀ j < n, (at' j).passBlock space p (first + j) = (at' (j + 1), 0, block j, entry j)) →
    let changed (j : Nat) : Prop :=
      p.all = true ∨ (sha384 (block j)).take 16 ≠ (at' (j + 1)).mem.readBytes (entry j) 16
    ∃ out mask, s.passExtent space p first old = (at' n, 0, out, mask) ∧
      ∀ j < 32, (mask.testBit j = true ↔ j < n ∧ changed j) ∧
        (j < n → changed j → (out.drop (65536 * j)).take 65536 = block j) ∧
        (¬ (j < n ∧ changed j) → (out.drop (65536 * j)).take 65536 = (old.drop (65536 * j)).take 65536)

/-- What a pass reads of a block: its 64 KiB, and the place of its digest-table entry; what does not translate gives status 8,
what cannot be read status 9 (R152 to R154; the order log 51). The entry is translated as a write also where the block turns out
unchanged, which is the model's reading (log 52). -/
def Sys2Proof.Claims.PassesReadBlocks : Prop :=
  ∀ (s : State) (space : Nat) (p : Pass) (b : Nat) (s1 : State) (x : Xl),
    s.translateBare space (p.source + BitVec.ofNat 64 (65536 * b)) .read = (s1, x) →
    (Refused x → s.passBlock space p b = (s1, 8, [], 0)) ∧
    ∀ pa st bc, x = .ok pa st bc → inDram pa = true → ∀ s2 y,
      s1.translateBare space (p.table + BitVec.ofNat 64 (16 * b)) .write = (s2, y) →
      (Refused y → s.passBlock space p b = (s2, 8, [], 0)) ∧
      ∀ entry st' bc', y = .ok entry st' bc' → inDram entry = true → s.passBlock space p b =
        if s2.badRead pa 65536 || s2.badRead entry 16 then (s2, 9, [], 0)
        else (s2, 0, s2.mem.readBytes pa 65536, entry)

/-- The assay engine: a descriptor that R152 refuses ends its pass with status 7, one that cannot be read ends it with the
error. A pass to the host leaves a block alone whose digest the table holds, and copies any other block, then its table
entry, before it takes the next one; a target that does not translate for host memory ends it with status 8, and a link that
is down with status 9 (log 51). A pass to flash takes an extent at a time: one without a changed block is passed over, any
other is queued as an install of the new content, for which the pass waits; one of whose kept blocks cannot be read ends
the pass with status 9 (R154; log 16). The descriptor is read once (R129, R152 to R154). When a block's addresses are translated,
a host target once the block is changed and a flash target before its blocks, is the model's reading (log 52). -/
def Sys2Proof.Claims.PassesTakeBlocks : Prop :=
  ∀ (stack : Nat) (s : State) (c : Call) (q : List Call) (e : Engine), s.assays.lookup stack = some e →
    e.queue = c :: q → c.command.toNat % 16 = 9 →
    let begins := e.running = false ∧ c.kept = []
    let words := if e.running then e.partials else if c.kept = [] then (List.range 16).map fun j =>
      wordAt s.mem (c.x + 4 * j) else c.kept
    let bs := words.flatMap fun w => leBytes 4 w.toNat
    let p := passOf bs
    let k := stepOf e c
    let n := if e.running then e.tally else c.tally
    let goes (f : Engine) (step : Nat) (tally : Nat) : Prop :=
      f.queue = e.queue ∧ f.running = true ∧ f.partials = words ∧ f.step = step ∧ f.tally = tally
    (¬ MayBegin s e c → exec (.assay stack) s = .next s) ∧
    (MayBegin s e c →
      (begins → s.badRead c.x 64 = true → Completes (exec (.assay stack) s) fun s' =>
        Fed { s with replies := s.replies ++ [{ call := c, value := 0, ecc := some 0 }] } s') ∧
      (begins → s.badRead c.x 64 = false → passBad bs p = true → ∃ f, goes f k n ∧
        exec (.assay stack) s = .next (s.endPass stack f c false 7)) ∧
      ((begins → s.badRead c.x 64 = false ∧ passBad bs p = false) →
        (p.host = true →
          (∀ s1 st block entry, s.passBlock c.issuer.space p k = (s1, st, block, entry) → st ≠ 0 → ∃ f, goes f k n ∧
            exec (.assay stack) s = .next (s1.endPass stack f c true st)) ∧
          ∀ s1 block entry, s.passBlock c.issuer.space p k = (s1, 0, block, entry) →
            let changed := p.all = true ∨ (sha384 block).take 16 ≠ s1.mem.readBytes entry 16
            (¬ changed → ∃ f, goes f (k + 1) n ∧ exec (.assay stack) s = .next
              (if k + 1 < p.count then { s1 with assays := s1.assays.put stack f } else s1.endPass stack f c true 0)) ∧
            (changed → ∀ s2 x,
              s1.translateBare c.issuer.space (p.target + BitVec.ofNat 64 (65536 * k)) .write = (s2, x) →
              ((∀ dest st bc, x = .ok dest st bc → inHost dest = false) → ∃ f, goes f k n ∧
                exec (.assay stack) s = .next (s2.endPass stack f c true 8)) ∧
              ∀ dest st bc, x = .ok dest st bc → inHost dest = true →
                (s2.link.up = false → ∃ f, goes f k n ∧
                  exec (.assay stack) s = .next (s2.endPass stack f c true 9)) ∧
                (s2.link.up = true → ∃ f s3, goes f (k + 1) (n + 1) ∧ SameWatches s2 s3 ∧
                  s3 = { s2 with mem := (s2.mem.writeBytes dest block).writeBytes entry ((sha384 block).take 16),
                                 watches := s3.watches } ∧
                  exec (.assay stack) s = .next
                    (if k + 1 < p.count then { s3 with assays := s3.assays.put stack f }
                     else s3.endPass stack f c true 0)))) ∧
        (p.host = false → (e.running = true → e.first = none) → ∀ s1 x,
          s.translateBare c.issuer.space (p.target + BitVec.ofNat 64 (65536 * k)) .read = (s1, x) →
          ((∀ dest st bc, x = .ok dest st bc → inFlash dest = false) → ∃ f, goes f k n ∧
            exec (.assay stack) s = .next (s1.endPass stack f c false 8)) ∧
          ∀ dest st bc, x = .ok dest st bc → inFlash dest = true →
            let fs := (dest - 0x400000000000) / 0x10000000000
            let fl := s1.flash.at fs Flash.initial
            fl.installs.length < 8 → ∀ s2 code content mask,
            s1.passExtent c.issuer.space p k (s1.flashMem.readBytes (s1.flashAddr dest) 0x200000) =
              (s2, code, content, mask) →
            (code ≠ 0 → ∃ f, goes f k n ∧ exec (.assay stack) s = .next (s2.endPass stack f c false code)) ∧
            (code = 0 → mask = 0 → ∃ f, goes f (k + 32) n ∧ exec (.assay stack) s = .next
              (if k + 32 < p.count then { s2 with assays := s2.assays.put stack f }
               else s2.endPass stack f c false 0)) ∧
            let lost := ∃ j < 32, mask.testBit j = false ∧
              s2.badRead (dest / 0x200000 * 0x200000 + 65536 * j) 65536 = true
            (code = 0 → mask ≠ 0 → lost → ∃ f, goes f k n ∧ exec (.assay stack) s = .next (s2.endPass stack f c false 9)) ∧
            (code = 0 → mask ≠ 0 → ¬ lost → ∃ f new, goes f k n ∧ f.first = some mask ∧
              new.ticket = s2.serial ∧ new.column = c.core ∧ new.group = some c.issuer.group ∧
              new.extent = (dest - 0x400000000000) / 0x200000 % 524288 ∧ new.inline = some content ∧
              new.assay = some c.ticket ∧
              exec (.assay stack) s = .next { s2 with
                serial := s2.serial + 1, assays := s2.assays.put stack f
                flash := s2.flash.put fs { fl with installs := fl.installs ++ [new] } }))))

/-- A lookup record is refused with status 3: a reserved byte, an unknown pooling, a list, table, output or used weights that are
not 4-byte aligned; and, by the model's reading, a count or a length out of its range (log 26) (R147, R149). -/
def Sys2Proof.Claims.LookupFieldsAreChecked : Prop :=
  ∀ bs : List Byte, lookupBad bs (lookupOf bs) = true ↔
    let n (lo k : Nat) : Nat := leNat ((bs.drop lo).take k)
    n 15 1 ≠ 0 ∨ n 48 16 ≠ 0 ∨ 3 < n 14 1 ∨ n 0 8 % 4 ≠ 0 ∨ n 16 8 % 4 ≠ 0 ∨ n 32 8 % 4 ≠ 0 ∨
    (n 14 1 = 3 ∧ n 24 8 % 4 ≠ 0) ∨ n 12 2 = 0 ∨ 1024 < n 12 2 ∨ 1048576 < n 8 4

/-- A pass descriptor is refused with status 7: a source, table or target that is not aligned as R152 has it, a block count out
of its range, an unknown target, a reserved bit or byte (R152, R154). -/
def Sys2Proof.Claims.PassFieldsAreChecked : Prop :=
  ∀ bs : List Byte, passBad bs (passOf bs) = true ↔
    let n (lo k : Nat) : Nat := leNat ((bs.drop lo).take k)
    n 0 8 % 2 ^ 16 ≠ 0 ∨ n 8 4 = 0 ∨ 1048576 < n 8 4 ∨ 1 < n 12 1 ∨ 1 < n 13 1 ∨ n 14 2 ≠ 0 ∨ n 16 8 % 16 ≠ 0 ∨
    (n 12 1 = 1 ∧ n 24 8 % 2 ^ 16 ≠ 0) ∨ (n 12 1 ≠ 1 ∧ n 24 8 % 2 ^ 21 ≠ 0) ∨ n 40 24 ≠ 0

/-- The embedding walker and the assay engine: all of the statements just given. -/
def Obligations.WalksAndPasses : Prop :=
  Sys2Proof.Claims.LookupFieldsAreChecked ∧ Sys2Proof.Claims.PassFieldsAreChecked ∧ Sys2Proof.Claims.LookupsPool ∧ Sys2Proof.Claims.WalksTakeRecords ∧ Sys2Proof.Claims.PassesReadBlocks ∧
  Sys2Proof.Claims.PassesEnd ∧ Sys2Proof.Claims.ExtentsMixBlocks ∧ Sys2Proof.Claims.PassesTakeBlocks

/-- `nadd` hands one add a lane, in ascending order, to the return-free unit and goes on; it stays while the core's 256
places do not suffice; an address that breaks the rule or is misaligned traps (R150, R283 to R285). -/
def Sys2Proof.Claims.AddsAreHandedOver : Prop :=
  ∀ (x : XM) (s : State) (i : Issue), (Instr.nadd x).wellFormed = true → s.issuing x.g = some i →
    TrapsWhere s i .xlateFault (fun l => !canonical (i.address x l)) (i.address x) (exec (.nadd x) s) ∧
    ((∀ l, i.active.getLsbD l = true → canonical (i.address x l) = true) →
      TrapsWhere s i .atomicAlign (fun l => (i.address x l).toNat % 4 != 0) (i.address x) (exec (.nadd x) s)) ∧
    ∀ pa : Nat → Nat,
      (∀ l, i.active.getLsbD l = true → canonical (i.address x l) = true ∧ (i.address x l).toNat % 4 = 0 ∧
        inHost (pa l) = false ∧
        ∃ t st bc, (s.core i.grp.core).leafOf i.grp.space (i.address x l).toNat = some t ∧
          s.classify t.size t.entry (i.address x l).toNat .write = .ok (pa l) st bc) →
      ((s.adds.filter fun a => a.core = i.grp.core).length + (lanes i.active).length ≤ 256 →
        Completes (exec (.nadd x) s) fun s' =>
          i.Changes { s with adds := s'.adds, serial := s.serial + (lanes i.active).length } s' i.moved ∧
          s'.adds = s.adds ++ (lanes i.active).zipIdx.map fun p =>
            { ticket := s.serial + p.2, core := i.grp.core, issuer := { i.issuer with mask := laneBit p.1 },
              va := i.address x p.1, pa := pa p.1, value := BitVec.ofNat 32 (i.raw .f32 p.1 x.b) }) ∧
      (256 < (s.adds.filter fun a => a.core = i.grp.core).length + (lanes i.active).length →
        exec (.nadd x) s = .next s)

/-- The return-free unit performs the oldest add of its stack: the FP32 sum, rounded once, at its place; every other byte
is as before; the adds that wait keep their order. A bank whose executor runs a command performs at most four between two
row steps (R146, R150). An add whose word cannot be read changes no byte; the lane that sent it takes `ECC_FATAL` with the
address, or its launch is marked failed where its group has no live lane, which is the model's choice (R356; log 16). -/
def Sys2Proof.Claims.AddsAreExact : Prop :=
  ∀ (stack : Nat) (s : State),
    ((s.adds.find? fun a => s.stackOf a.pa = stack) = none → exec (.naddPerform stack) s = .next s) ∧
    ∀ a, (s.adds.find? fun a => s.stackOf a.pa = stack) = some a →
      let bank := s.bankOf a.pa
      let e := s.executors.at bank Engine.initial
      (e.running = true → 4 ≤ e.served → exec (.naddPerform stack) s = .next s) ∧
      (e.running = false ∨ e.served < 4 → s.badRead a.pa 4 = true → Completes (exec (.naddPerform stack) s) fun s' =>
        let t : State := { s with adds := s.adds.filter fun b => b.ticket != a.ticket }
        let u := t.engineTrap a.issuer .eccFatal a.va
        s' = { u with executors := s'.executors } ∧ s'.mem = s.mem ∧
        ((∀ g, s.groups.lookup a.issuer.group = some g → g.live = 0) →
          u = t.onGrid a.issuer.grid fun g => { g with failed := true }) ∧
        ∀ g, s.groups.lookup a.issuer.group = some g → g.live ≠ 0 → ∃ tr : Trap, u = t.takeTrap a.issuer.group tr ∧
          tr.cause = .eccFatal ∧ tr.lanes = a.issuer.mask ∧ tr.addr = a.va ∧ tr.pc = a.issuer.pc) ∧
      (e.running = false ∨ e.served < 4 → s.badRead a.pa 4 = false → Completes (exec (.naddPerform stack) s) fun s' =>
        s' = { s with mem := s.mem.writeBytes a.pa (leBytes 4 (Flt.f32.rn ((Flt.f32.value (wordAt s.mem a.pa).toNat).add
                        (Flt.f32.value a.value.toNat)))),
                      adds := s.adds.filter fun b => b.ticket != a.ticket
                      executors := if e.running then s.executors.put bank { e with served := e.served + 1 }
                        else s.executors
                      watches := s'.watches } ∧ SameWatches s s' ∧
        ∀ k, k < a.pa ∨ a.pa + 4 ≤ k → s'.mem.read k = s.mem.read k)

/-- `nfence` goes on where no add of its active lanes is on its way, and waits otherwise (R151, R285). -/
def Sys2Proof.Claims.NfenceWaitsForAdds : Prop :=
  ∀ (gd : Guard) (s : State) (i : Issue) (e : Entry), s.issuing gd = some i → i.stands e →
    ((∀ a ∈ s.adds, ¬ (a.issuer.group = i.gid ∧ i.active &&& a.issuer.mask ≠ 0)) → MovesOn s i (exec (.nfence gd) s)) ∧
    ((∃ a ∈ s.adds, a.issuer.group = i.gid ∧ i.active &&& a.issuer.mask ≠ 0) →
      Completes (exec (.nfence gd) s) fun s' => ∃ g, i.Changes s s' g ∧ g = i.placed g.front.entries ∧
        ∀ q ∈ g.front.entries, q.mask = i.slot.mask → q.hold = .adds
          ((s.adds.filter fun a => decide (a.issuer.group = i.gid ∧ i.active &&& a.issuer.mask ≠ 0)).map (·.ticket)))

/-- Return-free adds are handed over, performed, and fenced: all of the statements just given. -/
def Obligations.ReturnFreeAdds : Prop :=
  Sys2Proof.Claims.AddsAreHandedOver ∧ Sys2Proof.Claims.AddsAreExact ∧ Sys2Proof.Claims.NfenceWaitsForAdds

/-! ### Window accumulators -/

/-- The window instructions: an operand that is refused, an address that breaks the rule and one that is misaligned trap; an
allowed one sends its message to queue 6, and the entry waits there, or goes on with the values in flight: as many
instructions may follow as its lookahead says, those included that had issued before a trap return sent the entry back
(R203, R289 to R291). -/
def Obligations.WindowInstructions : Prop :=
  ∀ (c : Instr) (r : WRule) (s : State) (i : Issue) (e : Entry), windowSends c = some r → c.wellFormed = true →
    s.issuing r.ext.g = some i → i.stands e →
    let va := i.uni r.ext.a
    (i.active = 0 → MovesOn s i (exec c s)) ∧
    (i.active ≠ 0 → r.bad i = true → Traps s i .illegalField i.active va (exec c s)) ∧
    (i.active ≠ 0 → r.bad i = false → canonical va = false → Traps s i .xlateFault i.active va (exec c s)) ∧
    (i.active ≠ 0 → r.bad i = false → canonical va = true → va.toNat % 128 ≠ 0 →
      Traps s i .atomicAlign i.active va (exec c s)) ∧
    ∀ pa, i.active ≠ 0 → r.bad i = false → WindowAllowed s i va pa →
      Completes (exec c s) fun s' => ∃ g s1,
        s1 = { s with cores := s1.cores, serial := s.serial + 1 } ∧ i.Changes s1 s' g ∧
        s1.core i.grp.core = { s.core i.grp.core with queue6 := (s.core i.grp.core).queue6 ++
          [{ ticket := s.serial, issuer := i.issuer, va := va, pa := pa, work := r.work i }] } ∧
        (∀ k, k ≠ i.grp.core → s1.core k = s.core k) ∧
        (r.returns = none → g = i.placed g.front.entries ∧ (∀ l, g.front.at l = i.grp.front.at l) ∧
          ∀ q ∈ g.front.entries, q.mask = i.slot.mask → q.hold = .window s.serial) ∧
        ∀ ws, r.returns = some ws → g = { i.moved with flights := i.moved.flights ++
          [{ ticket := s.serial, pc := i.slot.pc, next := i.slot.next, mask := i.slot.mask, left := r.ext.la.toNat - overBefore i,
             issued := overBefore i, writes := ws }] }

/-- After any contributions the value of an integer window is the combination, from the oldest to the newest, of those that
still count, which are the last W (R185, R186). -/
def Sys2Proof.Claims.IntegerWindowsHoldTheLast : Prop :=
  ∀ (op width : Nat) (vs : List DWord), op < 6 → 1 ≤ width → (∀ v ∈ vs, v.toNat < 2 ^ 32) →
    let w := vs.foldl Window.push (emptyWindow op width)
    w.value.toNat = combinedAll op ((vs.drop (vs.length - width)).map BitVec.toNat) ∧
    w.count = min width vs.length

/-- A window of any type combines by its operator, and answers the operator's identity while nothing counts (R185). -/
def Sys2Proof.Claims.WindowsCombine : Prop :=
  ∀ w : Window, windowPair w.op w.ty →
    (∀ a b : DWord, w.combine a b = BitVec.ofNat 64 (windowCombine w.op w.ty a.toNat b.toNat)) ∧
    (w.back = [] → w.fold = none → w.value = BitVec.ofNat 64 (windowIdentity w.op w.ty))

/-- In a window of any type a push adds the newest contribution and a change of W sets it; then the oldest expire while
more than W count. The value combines the back stack's aggregate with the front stack's fold, in this order (R186). -/
def Sys2Proof.Claims.WindowsKeepTwoStacks : Prop :=
  ∀ (w : Window) (old new : List DWord), TwoStacks w old new →
    (∀ v, let p := expired (old.length + (new.length + 1) - w.width) (old, new ++ [v])
      TwoStacks (w.push v) p.1 p.2 ∧
      w.push v = { w with front := (w.push v).front, fold := (w.push v).fold, back := (w.push v).back }) ∧
    (∀ n, let u := { w with width := n }
      let p := expired (old.length + new.length - n) (old, new)
      TwoStacks (u.shrink u.count) p.1 p.2) ∧
    w.value = match foldBack w.combine old, foldOn w.combine new with
      | none, none => winIdentity w.op w.ty
      | none, some f => f
      | some b, none => b
      | some b, some f => w.combine b f

/-- The seesaw answers what it stands for: all of the statements just given. -/
def Obligations.WindowsHoldTheLastValues : Prop :=
  Sys2Proof.Claims.IntegerWindowsHoldTheLast ∧ Sys2Proof.Claims.WindowsCombine ∧ Sys2Proof.Claims.WindowsKeepTwoStacks

/-- The home unit performs the oldest message: `wpush` adds its contributions in order and a returning form writes each
lane the value after its own; `wread` writes the value; `wlen` sets the window and drops what no longer counts; `wfree`
deletes the object with its pins; `winit` creates it, empty (R291 to R296). -/
def Sys2Proof.Claims.HomeUnitsPerform : Prop :=
  ∀ (core : Nat) (s : State) (m : WinMsg) (q : List WinMsg) (g : Group) (w : Window),
    (s.core core).queue6 = m :: q → s.groups.lookup m.issuer.group = some g →
    (∀ ty ret vs, m.work = .push ty ret vs → s.windows.lookup m.pa = some w → w.foreman = false → w.ty = ty →
      (vs.map (·.1)).Nodup → (∀ d, ret = some d → d + 1 < 256) →
      Completes (exec (.wpushAtHome core) s) fun s' => ∃ s1 h, Answered s s1 core m g h s' ∧
        s1.windows.lookup m.pa = some ((vs.map (·.2)).foldl Window.push w) ∧
        (∀ p, p ≠ m.pa → s1.windows.lookup p = s.windows.lookup p) ∧ h.uregs = g.uregs ∧
        ∀ l n, n < 256 → h.vreg m.issuer.group l n =
          (ret.bind fun d => (vs.zipIdx.find? fun v => v.1.1 = l).bind fun v =>
            resultWord (windowTy ty) d
              ((((vs.take (v.2 + 1)).map (·.2)).foldl Window.push w).value).toNat n).getD
            (g.vreg m.issuer.group l n)) ∧
    (∀ ty uni d, m.work = .read ty uni d → s.windows.lookup m.pa = some w → w.ty = ty → d + 1 < 256 →
      Completes (exec (.wreadAtHome core) s) fun s' => ∃ s1 h, Answered s s1 core m g h s' ∧ s1.windows = s.windows ∧
        (∀ n, h.ureg m.issuer.group n =
          if uni = true ∧ n = d then extend 64 (windowTy ty) w.value.toNat else g.ureg m.issuer.group n) ∧
        ∀ l n, n < 256 → h.vreg m.issuer.group l n =
          if uni = false ∧ m.issuer.mask.getLsbD l = true then
            (resultWord (windowTy ty) d w.value.toNat n).getD (g.vreg m.issuer.group l n)
          else g.vreg m.issuer.group l n) ∧
    (∀ n, m.work = .len n → s.windows.lookup m.pa = some w → w.foreman = false → n ≤ w.capacity → 1 ≤ n →
      Completes (exec (.wlenAtHome core) s) fun s' => ∃ s1 h v, Answered s s1 core m g h s' ∧
        s1.windows.lookup m.pa = some v ∧ v.width = n ∧ v.count = min n w.count ∧ v.capacity = w.capacity ∧
        h.vregs = g.vregs ∧ h.uregs = g.uregs) ∧
    (m.work = .free → s.windows.lookup m.pa = some w → w.foreman = false →
      Completes (exec (.wfreeAtHome core) s) fun s' => ∃ s1 h, Answered s s1 core m g h s' ∧
        s1.windows.lookup m.pa = none ∧ (∀ p ∈ (s1.slice (s.home m.pa)).pins, p.object ≠ m.pa) ∧
        h.vregs = g.vregs ∧ h.uregs = g.uregs) ∧
    (∀ config, m.work = .init config → s.windows.lookup m.pa = none →
      (∀ s2, (s.onCore core fun c => { c with queue6 := c.queue6.tail }).makeWindow m.pa config m.issuer.space false =
          some s2 →
        Completes (exec (.winitAtHome core) s) fun s' => ∃ h, Answered s s2 core m g h s' ∧
          s2.windows.lookup m.pa = some {
            capacity := config.toNat / 2 ^ 18 % 2 ^ 12 + 1, width := config.toNat / 2 ^ 6 % 2 ^ 12 + 1, ty := config.toNat / 16 % 4, op := config.toNat % 16,
            front := [], fold := none, back := [], space := m.issuer.space, foreman := false } ∧
          h.vregs = g.vregs ∧ h.uregs = g.uregs))

/-- What the home unit refuses makes the issuing lanes trap and changes no object: an address that holds none, or for
`winit` one already, `WINDOW_OBJ`; the foreman's objects, `PROTECTION`; another type or a window above the capacity,
`WINDOW_OBJ`. Where nothing has issued behind a returning form, its lanes stand at it again. A follower of an instruction
whose trap the group has taken is dropped: it takes no trap, has no effect, and is not counted among the followers that trap
return passes over; its own lanes go on at it, and other lanes that stand in their entry by now stay where they are (R203,
R291 to R295). -/
def Sys2Proof.Claims.HomeUnitsRefuse : Prop :=
  ∀ (core : Nat) (s : State) (m : WinMsg) (q : List WinMsg) (g : Group) (ev : Instr) (c : Cause),
    (s.core core).queue6 = m :: q → s.groups.lookup m.issuer.group = some g →
    ((∃ config, m.work = .init config ∧ ev = .winitAtHome core ∧ (s.windows.lookup m.pa).isSome = true ∧ c = .windowObj) ∨
     (∃ ty ret vs, m.work = .push ty ret vs ∧ ev = .wpushAtHome core ∧
       ((s.windows.lookup m.pa = none ∧ c = .windowObj) ∨
        ∃ w, s.windows.lookup m.pa = some w ∧ ((w.foreman = true ∧ c = .protection) ∨
          (w.foreman = false ∧ w.ty ≠ ty ∧ c = .windowObj)))) ∨
     (∃ ty uni d, m.work = .read ty uni d ∧ ev = .wreadAtHome core ∧
       ((s.windows.lookup m.pa = none ∧ c = .windowObj) ∨
        ∃ w, s.windows.lookup m.pa = some w ∧ w.ty ≠ ty ∧ c = .windowObj)) ∨
     (∃ n, m.work = .len n ∧ ev = .wlenAtHome core ∧
       ((s.windows.lookup m.pa = none ∧ c = .windowObj) ∨
        ∃ w, s.windows.lookup m.pa = some w ∧ ((w.foreman = true ∧ c = .protection) ∨
          (w.foreman = false ∧ w.capacity < n ∧ c = .windowObj)))) ∨
     (m.work = .free ∧ ev = .wfreeAtHome core ∧
       ((s.windows.lookup m.pa = none ∧ c = .windowObj) ∨
        ∃ w, s.windows.lookup m.pa = some w ∧ w.foreman = true ∧ c = .protection))) →
    let taken := s.onCore core fun k => { k with queue6 := k.queue6.tail }
    ((∀ t mask pc next, g.trap = some t → t.resume = .entry mask pc next → g.sentBy t.front.entries m &&& mask = 0) →
      exec ev s = .next ((taken.onGroup m.issuer.group fun g => (g.standBack m).landed m.ticket).takeTrap m.issuer.group
        (windowTrap g m c)) ∧
      (windowTrap g m c).cause = c ∧ (windowTrap g m c).addr = m.va ∧ (windowTrap g m c).lanes = m.issuer.mask ∧
      g.standBack m = { g with front := { g.front with entries := (g.standBack m).front.entries } } ∧
      ((∀ f, (g.flights.find? fun f => f.ticket = m.ticket) = some f → f.issued ≠ 0) → g.standBack m = g) ∧
      ∀ f, (g.flights.find? fun f => f.ticket = m.ticket) = some f → f.issued = 0 → ∀ l, l < 64 →
        (g.standBack m).front.at l = if f.mask.getLsbD l then (g.front.at l).map fun p => (f.pc, p.2)
          else g.front.at l) ∧
    ∀ t mask pc next, g.trap = some t → t.resume = .entry mask pc next → g.sentBy t.front.entries m &&& mask ≠ 0 →
      Completes (exec ev s) fun s' => ∃ h u, s' = { taken with groups := s'.groups } ∧
        s'.groups.lookup m.issuer.group = some h ∧ (∀ k, k ≠ m.issuer.group → s'.groups.lookup k = s.groups.lookup k) ∧
        h = { g with trap := some u, flights := g.flights.filter fun f => f.ticket != m.ticket } ∧
        u = { t with followers := t.followers - 1, front := { t.front with entries := u.front.entries },
                     resume := .entry mask pc m.issuer.pc } ∧
        (∀ l, l < 64 → (g.sentBy t.front.entries m).getLsbD l = true →
          u.front.at l = (t.front.at l).map fun p => (m.issuer.pc, p.2)) ∧
        (∀ l, l < 64 → (g.sentBy t.front.entries m).getLsbD l = false → u.front.at l = t.front.at l) ∧
        ∀ q ∈ t.front.entries, q.mask &&& g.sentBy t.front.entries m = 0 → q ∈ u.front.entries

/-- Home units perform window messages or refuse them: all of the statements just given. -/
def Obligations.HomeUnitsAnswer : Prop :=
  Sys2Proof.Claims.HomeUnitsPerform ∧ Sys2Proof.Claims.HomeUnitsRefuse

/-! ### Flash -/

/-- `finstall`: an address that breaks the rule traps; an allowed one, where the stack has room, enters an install with the
target's logical extent, its source pages and its completion counter, busy where the extent has one already, and goes on;
where eight are accepted the entry waits at its instruction (R176, R297, R298); that it then runs from its checks again is the
model's choice (log 107). -/
def Sys2Proof.Claims.InstallsAreEntered : Prop :=
  ∀ (x : XS) (s : State) (i : Issue) (e : Entry), (Instr.finstall x).wellFormed = true → s.issuing x.g = some i →
    i.stands e →
    let gd := i.uni x.a
    let gs := i.uni x.b
    let gc := i.uni x.c
    let vas := [gd] ++ ((List.range 32).map fun k => gs + BitVec.ofNat 64 (65536 * k)) ++ [gc]
    (i.active = 0 → MovesOn s i (exec (.finstall x) s)) ∧
    (i.active ≠ 0 → canonical gd = false → Traps s i .xlateFault i.active gd (exec (.finstall x) s)) ∧
    ∀ pa : DWord → Nat, i.active ≠ 0 → gd.toNat % 2 ^ 21 = 0 → gs.toNat % 2 ^ 16 = 0 → gc.toNat % 8 = 0 →
      (∀ va ∈ vas, canonical va = true ∧ ∃ t st bc, (s.core i.grp.core).leafOf i.grp.space va.toNat = some t ∧
        s.classify t.size t.entry va.toNat .read = .ok (pa va) st bc ∧ (va = gc → bits 2 2 t.entry = 1)) →
      inFlash (pa gd) = true → (∀ k < 32, inDram (pa (gs + BitVec.ofNat 64 (65536 * k))) = true) →
      inDram (pa gc) = true →
      let f := (pa gd - 0x400000000000) / 2 ^ 40
      let extent := (pa gd - 0x400000000000) / 2 ^ 21 % 2 ^ 19
      let fl := s.flash.at f Flash.initial
      (fl.installs.length < 8 → Completes (exec (.finstall x) s) fun s' =>
        i.Changes { s with flash := s'.flash, serial := s.serial + 1 } s' i.moved ∧
        (∀ k, k ≠ f → s'.flash.lookup k = s.flash.lookup k) ∧
        s'.flash.lookup f = some { fl with installs := fl.installs ++
          [{ ticket := s.serial, column := i.grp.core, group := some i.gid, extent := extent,
             source := (List.range 32).map fun k => pa (gs + BitVec.ofNat 64 (65536 * k)), inline := none,
             completion := pa gc, busy := fl.installs.any (fun n => n.extent = extent), assay := none, deadline := none,
             permit := none, tries := 0 }] }) ∧
      (8 ≤ fl.installs.length → Completes (exec (.finstall x) s) fun s' => ∃ g, i.Changes s s' g ∧
        g = { i.grp with front := { i.grp.front with entries := g.front.entries } } ∧
        (∀ l, g.front.at l = i.grp.front.at l) ∧
        ∀ q ∈ g.front.entries, q.mask = i.slot.mask → q.hold = .stack f)

/-- The status record of a flash stack: free extents and retired blocks, remaining life and the day's installs, the end of
life, zero; zeros for a stack out of service; `fstat` writes it to four uniform registers, or traps for a stack above 3; the
host reads the same bytes of the four stacks while the link is up (R183, R299, R343). That the remaining life is rounded down,
and 0 where no block is usable, is the model's choice (log 93). The code 0 with which the foreman
answers, and that a request which finds the link down or names no stack has no answer and no effect, are the model's choices
(log 19). -/
def Sys2Proof.Claims.FlashStatus : Prop :=
  (∀ (s : State) (f : Nat), f ∈ s.flashOut → s.flashRecord f = [0, 0, 0, 0]) ∧
  (∀ (s : State) (f : Nat), f ∉ s.flashOut →
    let fl := s.flash.at f Flash.initial
    let usable := 4 * (540672 - fl.gone.length)
    let used := ((fl.wear.filter fun p => !fl.gone.contains (p.1 / 4)).map fun p => min p.2 3000).sum
    s.flashRecord f =
      [BitVec.ofNat 64 ((fl.free.filter fun p => fl.worst p < 3000).length + 2 ^ 32 * fl.retired.length),
       BitVec.ofNat 64 ((3000 * usable - used) * 2 ^ 16 / (3000 * usable) +
         2 ^ 32 * (fl.commits.filter fun t => s.time < t + 86400 * 100000000).length), s.flashEnd f, 0]) ∧
  (∀ (x : XS) (s : State) (i : Issue), (Instr.fstat x).wellFormed = true → s.issuing x.g = some i →
    (i.active = 0 → MovesOn s i (exec (.fstat x) s)) ∧
    (i.active ≠ 0 → 3 < i.scalar x.a → Traps s i .illegalField i.active i.slot.pc (exec (.fstat x) s)) ∧
    (i.active ≠ 0 → i.scalar x.a ≤ 3 → Completes (exec (.fstat x) s) fun s' => ∃ g, i.Changes s s' g ∧
      g = { i.moved with uregs := g.uregs } ∧ ∀ n, g.ureg i.gid n =
        if x.d.n.toNat ≤ n ∧ n < x.d.n.toNat + 4 then (s.flashRecord (i.scalar x.a)).getD (n - x.d.n.toNat) 0
        else i.grp.ureg i.gid n)) ∧
  ∀ (f : Nat) (s : State),
    (s.link.up = true → f < 4 → exec (.flashStatusRead f) s = .next { s with outbox := s.outbox ++
      [.answer 0 ((s.flashRecord f).flatMap fun w => leBytes 8 w.toNat)] }) ∧
    (s.link.up = false ∨ 4 ≤ f → exec (.flashStatusRead f) s = .next s)

/-- Finstall enters an install; fstat reads the status record: all of the statements just given. -/
def Obligations.FlashInstructions : Prop :=
  Sys2Proof.Claims.InstallsAreEntered ∧ Sys2Proof.Claims.FlashStatus

/-- The free extent to program is a free one, none is less worn by its worst block, then by the sum of its blocks, then
lower (R178). -/
def Sys2Proof.Claims.LeastWornExtents : Prop :=
  ∀ (f : Flash) (p : Nat), f.choose = some p → p ∈ f.free ∧ ∀ q ∈ f.free,
    (∀ b, f.wear.at b 0 ≤ 3000) →
    f.worst p < f.worst q ∨ (f.worst p = f.worst q ∧
      ((f.cycles p).sum < (f.cycles q).sum ∨ ((f.cycles p).sum = (f.cycles q).sum ∧ p ≤ q)))

/-- The install whose turn it is: a busy one and a locked extent end at once with codes 3 and 6; otherwise it asks for a
permit with a limit of 1 ms; with its permit it programs the best free extent, or ends with code 1 where none is left, 5
where its source cannot be read; a verified program switches the extent and ends with code 0 and the cycles left; a first
failure retires the blocks and tries once more, a second ends with code 2 (R178 to R181, R298). That the repeat programs the bytes
read the first time (log 106), and that it ends with code 1 where no free extent is left for it (log 92), are the model's
choices. -/
def Sys2Proof.Claims.InstallsProceed : Prop :=
  ∀ (f : Nat) (failing : List Nat) (s : State) (n : Install) (rest : List Install),
    let fl := s.flash.at f Flash.initial
    fl.installs = n :: rest →
    let res := exec (.flashInstall f failing) s
    (n.permit = none → n.busy = true → res = .next (s.endInstall f n 3 0)) ∧
    let locked := ∃ r ∈ fl.locked, r.1 ≤ n.extent ∧ n.extent < r.1 + r.2
    (n.permit = none → n.busy = false → locked → res = .next (s.endInstall f n 6 0)) ∧
    (n.permit = none → n.busy = false → ¬ locked → Completes res fun s' => ∃ t,
      (s'.flash.at f Flash.initial).installs =
        { n with permit := some t, deadline := some (s.time + 100000) } :: rest ∧
      (∃ p ∈ (s'.core n.column).permits, p.ticket = t ∧ n.ticket ∈ p.users) ∧ s'.mem = s.mem ∧ s'.flashMem = s.flashMem ∧
      s'.groups = s.groups) ∧
    ∀ t, n.permit = some t →
      ((∀ p ∈ (s.core n.column).permits, p.ticket = t → p.granted = false) → res = .next s) ∧
      ((∃ p ∈ (s.core n.column).permits, p.ticket = t ∧ p.granted = true) →
        (fl.choose = none → res = .next (s.endInstall f n 1 0)) ∧
        ∀ p, fl.choose = some p →
          (3000 ≤ fl.worst p → res = .next (s.endInstall f n 1 0)) ∧
          let lost := ∃ a ∈ n.source, ∃ b, a ≤ b ∧ b < a + 65536 ∧ s.unreadable b = true
          (fl.worst p < 3000 → n.inline = none → lost → res = .next (s.endInstall f n 5 0)) ∧
          (fl.worst p < 3000 → (n.inline = none → ¬ lost) →
            let content := n.inline.getD (n.source.flatMap fun a => s.peek a 65536)
            ((∀ b ∈ failing, 4 ≤ b) → ∃ (s1 : State) (left : Nat), res = .next (s1.endInstall f n 0 left) ∧
              left = 3000 - (fl.worn p).worst p ∧
              s1 = { s with flashMem := s.flashMem.writeBytes ((f * 2 ^ 20 + p) * 2 ^ 21) content
                            flash := s1.flash, staging := s1.staging, slices := s1.slices } ∧
              (s1.flash.at f Flash.initial).map.lookup n.extent = some p ∧
              (let within (a : Nat) : Prop := 2 ^ 46 + (f * 2 ^ 19 + n.extent) * 2 ^ 21 ≤ a ∧
                a < 2 ^ 46 + (f * 2 ^ 19 + n.extent + 1) * 2 ^ 21
              (∀ g, g ∈ s1.staging ↔ g ∈ s.staging ∧ ¬ within (g * 65536)) ∧
              ∀ k a, (within (a / 128 * 128) → findLine (s1.slice k).supers a = none) ∧
                (¬ within (a / 128 * 128) → findLine (s1.slice k).supers a = findLine (s.slice k).supers a)) ∧
              ∀ b < 4, (s1.flash.at f Flash.initial).wear.at (4 * p + b) 0 = fl.wear.at (4 * p + b) 0 + 1) ∧
            ((∃ b ∈ failing, b < 4) → n.tries = 0 → Completes res fun s' =>
              (s'.flash.at f Flash.initial).installs = { n with tries := 1, inline := some content } :: rest ∧
              p ∈ (s'.flash.at f Flash.initial).gone ∧ s'.mem = s.mem ∧ s'.flashMem = s.flashMem ∧
              ∀ b ∈ failing, b < 4 → p * 4 + b ∈ (s'.flash.at f Flash.initial).retired) ∧
            ((∃ b ∈ failing, b < 4) → n.tries ≠ 0 → ∃ s1 : State, res = .next (s1.endInstall f n 2 0) ∧
              p ∈ (s1.flash.at f Flash.initial).gone ∧ s1.mem = s.mem ∧ s1.flashMem = s.flashMem)))

/-- The end of an install: its place and its permit are given back, and the completion word holds its code, a bit that says
so and the cycles left, at its home; an install of a pass answers the pass instead (R153, R181, R298). -/
def Sys2Proof.Claims.InstallsEnd : Prop :=
  ∀ (f : Nat) (s : State) (n : Install) (code left : Nat),
    let fl := s.flash.at f Flash.initial
    let s1 := { s with flash := s.flash.put f { fl with installs := fl.installs.tail } }.onCore n.column fun c =>
      c.leavePermit n.ticket
    (n.assay = none → s.endInstall f n code left =
      s1.l2Write n.completion (leBytes 8 (code + 2 ^ 8 + left * 2 ^ 32))) ∧
    (∀ t, n.assay = some t → s.endInstall f n code left = s1.passInstalled t (n.inline.getD []) code) ∧
    ∀ p ∈ (s1.core n.column).permits, n.ticket ∉ p.users

/-- The digest-table entries of changed blocks are written, in order, each translated when its turn comes (R153). -/
def EntriesAre (space : Nat) (table : DWord) (content : List Byte) (step : Nat) : State → List Nat → State → Prop
  | s, [], t => t = s
  | s, j :: r, t => ∃ s1 pa st bc, s.translateBare space (table + BitVec.ofNat 64 (16 * (step + j))) .write =
      (s1, .ok pa st bc) ∧ inDram pa = true ∧ EntriesAre space table content step
        (s1.bankWrite pa ((sha384 ((content.drop (65536 * j)).take 65536)).take 16)) r t

/-- What the end of its install does to the pass that waits for it: a code other than 0 becomes its status; otherwise the
entries of the changed blocks are written and counted and it goes on with the next extent, or ends with status 0; an entry
that does not translate ends it with status 8 (R153, R154). That only the entries before the failing one are counted is the model's
choice (log 86). -/
def Sys2Proof.Claims.PassesGoOn : Prop :=
  ∀ (s : State) (t : Nat) (content : List Byte) (code stack mask : Nat) (e : Engine) (c : Call),
    s.waitingPass t = some (stack, e, c) → e.first = some mask →
    let p := passOf (e.partials.flatMap fun w => leBytes 4 w.toNat)
    let changed := (List.range 32).filter fun j => mask.testBit j
    let res := s.passInstalled t content code
    (code ≠ 0 → res = s.endPass stack { e with first := none } c false code) ∧
    (code = 0 → ∀ s1, EntriesAre c.issuer.space p.table content e.step s changed s1 →
      let f := { e with first := none, step := e.step + 32, tally := e.tally + changed.length }
      res = if e.step + 32 < p.count then { s1 with assays := s1.assays.put stack f } else s1.endPass stack f c false 0) ∧
    (code = 0 → ∀ n j s1 s2 x, changed[n]? = some j →
      EntriesAre c.issuer.space p.table content e.step s (changed.take n) s1 →
      s1.translateBare c.issuer.space (p.table + BitVec.ofNat 64 (16 * (e.step + j))) .write = (s2, x) → Refused x →
      res = s2.endPass stack { e with first := none, step := e.step + 32, tally := e.tally + n } c false 8)

/-- An install that has waited 1 ms for a permit it does not have ends with code 4; before that nothing happens (R178). -/
def Sys2Proof.Claims.InstallPermitTimesOut : Prop :=
  ∀ (f : Nat) (s : State) (n : Install) (rest : List Install) (t d : Nat),
    (s.flash.at f Flash.initial).installs = n :: rest → n.permit = some t → n.deadline = some d →
    ((∀ p ∈ (s.core n.column).permits, p.ticket = t → p.granted = false) → d ≤ s.time →
      exec (.installPermitTimeout f) s = .next (s.endInstall f n 4 0)) ∧
    (s.time < d → exec (.installPermitTimeout f) s = .next s) ∧
    ((∃ p ∈ (s.core n.column).permits, p.ticket = t ∧ p.granted = true) →
      exec (.installPermitTimeout f) s = .next s)

/-- Installs choose, program, verify, retry and complete: all of the statements just given. -/
def Obligations.InstallsRun : Prop :=
  Sys2Proof.Claims.LeastWornExtents ∧ Sys2Proof.Claims.InstallsProceed ∧ Sys2Proof.Claims.InstallsEnd ∧
  Sys2Proof.Claims.PassesGoOn ∧ Sys2Proof.Claims.InstallPermitTimesOut

/-! ### Matrix engine -/

/-- A word of an epilogue program before its `end` is refused where its code is not assigned, an operand bit that the code does
not name is set, `clamp` names a constant above 6, or a vector is not aligned or not within the scratchpad (R312, R313). -/
def Sys2Proof.Claims.ProgramWordsAreChecked : Prop :=
  ∀ (size : Nat) (w : Word), let code := w.toNat / 2 ^ 26
    let operand := w.toNat % 2 ^ 26
    code ≠ 0 → (epiWordBad size w = true ↔
      14 < code ∨ (code = 1 ∧ 7 < operand) ∨
      ((code = 2 ∨ code = 3) ∧ (2 ^ 19 ≤ operand ∨ operand % 4 ≠ 0 ∨ size < operand + 512)) ∨
      (code = 7 ∧ 6 < operand) ∨ ((code = 12 ∨ code = 13) ∧ 3 < operand) ∨ (code = 14 ∧ 7 < operand) ∨
      (code ∈ [4, 5, 6, 8, 9, 10, 11] ∧ operand ≠ 0))

/-- The instructions of the matrix engine that place work: the first check that fails, in the manual's order, traps; where
none fails the work joins queue 4, tables and programs count as issued, and the entry goes on; `gang` writes its group's
gang register instead (R302 to R306, R310 to R313). That a `wload` without a floor scratchpad names its own address in `$taddr` is
the model's choice (log 101). -/
def Sys2Proof.Claims.WorkIsPlaced : Prop :=
  ∀ (c : Instr) (r : ERule) (s : State) (i : Issue), engineRule c = some r → c.wellFormed = true →
    s.issuing r.ext.g = some i →
    (i.active = 0 → MovesOn s i (exec c s)) ∧
    (i.active ≠ 0 → ∀ b, ((r.checks s i).find? fun b => b.1) = some b →
      Traps s i b.2.1 i.active b.2.2 (exec c s)) ∧
    (i.active ≠ 0 → (∀ b ∈ r.checks s i, b.1 = false) → Completes (exec c s) fun s' => ∃ s1,
      i.Changes s1 s' (r.group s.serial i i.moved) ∧
      (r.work s i = none → s1 = s) ∧
      ∀ w, r.work s i = some w → s1.serial = s.serial + 1 ∧ OnCore s s1 i.grp.core { s.core i.grp.core with
        queue4 := (s.core i.grp.core).queue4 ++
          [{ ticket := s.serial, team := i.grp.team, issuers := [i.issuer], work := w, parked := none }],
        matrix := r.issued s i (s.core i.grp.core).matrix })

/-- What `epld` takes from its block: 32 words, of which those before the first `end` run, eight constants, and four slots of base,
stride and scale base (R311). -/
def Sys2Proof.Claims.ProgramsAreRead : Prop :=
  ∀ (m : Memory) (off : Nat), let e := epilogueAt m off
    e.words.length = 32 ∧ (∀ k < 32, e.words[k]? = some (wordAt m (off + 4 * k))) ∧
    e.body = e.words.takeWhile (fun w => decide (w.toNat / 2 ^ 26 ≠ 0)) ∧
    e.consts.length = 8 ∧ (∀ k < 8, e.consts[k]? = some (wordAt m (off + 128 + 4 * k))) ∧
    e.slots.length = 4 ∧ ∀ k < 4, e.slots[k]? = some
      { base := BitVec.ofNat 64 (m.readNat (off + 160 + 24 * k) 8), stride := wordAt m (off + 168 + 24 * k),
        scale := BitVec.ofNat 64 (m.readNat (off + 176 + 24 * k) 8) }

/-- Programs are read, their words checked, and matrix instructions place their work: all of the statements just given. -/
def Obligations.EngineWorkIsPlaced : Prop :=
  Sys2Proof.Claims.ProgramsAreRead ∧ Sys2Proof.Claims.ProgramWordsAreChecked ∧ Sys2Proof.Claims.WorkIsPlaced

/-- `mma`: a group with an arrival at the latch stays, whatever its gang register holds by now; otherwise its checks in
order; without a gang the operation joins queue 4 and the entry goes on; with one, the first arrival opens the team's latch
and waits, a later one that is not the last joins it and waits, and the last arrival closes the latch: the operation joins
queue 4 once, for all that arrived, and none of their entries waits at the latch any more. An arrival whose gang mask,
parameters or instruction differ makes every arrived group trap with `GANG_MISMATCH`, and nothing joins the queue (R161, R307
to R309). What becomes of an arrival whose group traps of itself is not said here; that it is withdrawn is the model's choice
(log 105). -/
def Sys2Proof.Claims.ProductsJoinTheQueue : Prop :=
  ∀ (x : XS) (s : State) (i : Issue) (e : Entry), (Instr.mma x).wellFormed = true → s.issuing x.g = some i →
    i.stands e →
    let c := s.core i.grp.core
    let op (issuers : List Issuer) : Op4 :=
      { ticket := s.serial, team := i.grp.team, issuers := issuers, work := .mma (productOf x i), parked := none }
    let arrived := ∃ l, c.matrix.latch = some l ∧ ∃ a ∈ l.arrived, a.group = i.gid
    (i.active = 0 → MovesOn s i (exec (.mma x) s)) ∧
    (i.active ≠ 0 → arrived → exec (.mma x) s = .next s) ∧
    (i.active ≠ 0 → ¬ arrived → ∀ b, ((productChecks x s i).find? fun b => b.1) = some b →
      Traps s i b.2.1 i.active b.2.2 (exec (.mma x) s)) ∧
    (i.active ≠ 0 → ¬ arrived → (∀ b ∈ productChecks x s i, b.1 = false) →
      (i.grp.gang = 0 → Completes (exec (.mma x) s) fun s' => ∃ s1, i.Changes s1 s' i.moved ∧
        s1.serial = s.serial + 1 ∧ OnCore s s1 i.grp.core { c with
          queue4 := c.queue4 ++ [op [i.issuer]],
          matrix := { c.matrix with issueFormats := formatsOnce x i c.matrix } }) ∧
      (i.grp.gang ≠ 0 → c.matrix.latch = none → Completes (exec (.mma x) s) fun s' => ∃ s1 g, i.Changes s1 s' g ∧
        g = i.placed g.front.entries ∧ (∀ q ∈ g.front.entries, q.mask = i.slot.mask → q.hold = .latch) ∧
        s1.serial = s.serial ∧
        let l : Latch :=
          { gang := i.grp.gang, instr := .mma x, params := (productOf x i).params, arrived := [i.issuer] }
        OnCore s s1 i.grp.core { c with matrix := { c.matrix with latch := some l } }) ∧
      ∀ l, i.grp.gang ≠ 0 → c.matrix.latch = some l →
        ((∀ a ∈ l.arrived, a.team = i.grp.team) → l.gang = i.grp.gang →
          l.params = (productOf x i).params → l.instr = .mma x →
          (∀ k < 32, l.gang.getLsbD k = true →
            ∃ a ∈ l.arrived ++ [i.issuer], ((s.groups.lookup a.group).map fun g => g.index) = some k) →
          Completes (exec (.mma x) s) fun s' => s'.mem = s.mem ∧ s'.teams = s.teams ∧
            s'.core i.grp.core = { c with
              queue4 := c.queue4 ++ [op (l.arrived ++ [i.issuer])],
              matrix := { c.matrix with latch := none, issueFormats := formatsOnce x i c.matrix } } ∧
            (∀ k, k ≠ i.grp.core → s'.core k = s.core k) ∧
            ∀ a ∈ l.arrived ++ [i.issuer], ∀ g, s'.groups.lookup a.group = some g →
              ∀ q ∈ g.front.entries, q.hold ≠ .latch) ∧
        (l.gang = i.grp.gang → l.params = (productOf x i).params → l.instr = .mma x →
          (∃ k < 32, l.gang.getLsbD k = true ∧
            ∀ a ∈ l.arrived ++ [i.issuer], ((s.groups.lookup a.group).map fun g => g.index) ≠ some k) →
          Completes (exec (.mma x) s) fun s' => ∃ s1 g, i.Changes s1 s' g ∧
            g = i.placed g.front.entries ∧ (∀ q ∈ g.front.entries, q.mask = i.slot.mask → q.hold = .latch) ∧
            s1.serial = s.serial ∧ OnCore s s1 i.grp.core { c with
              matrix := { c.matrix with latch := some { l with arrived := l.arrived ++ [i.issuer] } } }) ∧
        (¬ (l.gang = i.grp.gang ∧ l.params = (productOf x i).params ∧ l.instr = .mma x) →
          let waits (a : Issuer) (g : Group) : Prop := s.groups.lookup a.group = some g ∧ a.group ≠ s.serial ∧
            g.trap = none ∧ g.trapEntry.isSome = true ∧ (a.group ≠ i.gid → ∃ q ∈ g.front.entries, q.hold = .latch)
          ((l.arrived ++ [i.issuer]).map fun a => a.group).Nodup →
          (∀ a ∈ l.arrived ++ [i.issuer], ∃ g, waits a g) →
          Completes (exec (.mma x) s) fun s' => (s'.core i.grp.core).matrix = { c.matrix with latch := none } ∧
            (s'.core i.grp.core).queue4 = c.queue4 ∧ s'.mem = s.mem ∧ s'.teams = s.teams ∧ s'.slices = s.slices ∧
            s'.outbox = s.outbox ∧
            (∀ a ∈ l.arrived ++ [i.issuer], ∀ g entry, s.groups.lookup a.group = some g → g.trapEntry = some entry →
              ∃ h, s'.groups.lookup a.group = some h ∧ h.trap.isSome = true ∧ h.tmask = a.mask ∧
                h.tcause.toNat % 256 = codeOf .gangMismatch ∧ h.taddr = a.pc ∧
                ∀ l, l < 64 → h.front.at l = if g.live.getLsbD l then some (entry, 255) else none) ∧
            ∀ k, (∀ a ∈ l.arrived ++ [i.issuer], a.group ≠ k) → s'.groups.lookup k = s.groups.lookup k))

/-- The operation of an `mma` waits at the head of queue 4 for its permit: before its start it takes its handle, and without a
permit that it uses, or that an issuing group holds or has asked for, it asks for one of its own; nothing is computed while
the permit is not granted (R168, R173, R309). That a gang's permit is taken here and not when its latch opens is the model's choice
between R168 and R309 (log 103). -/
def Sys2Proof.Claims.ProductsWaitForPermits : Prop :=
  ∀ (core : Nat) (s : State) (op : Op4) (q : List Op4) (m : MmaOp), (s.core core).queue4 = op :: q →
    op.work = .mma m → op.parked = none → s.frozenTeam op.team = false ∨ m.drain = true →
    let p := mmaParams m.params
    let c := s.core core
    let asked := ∃ r, (c.permits.find? fun r => r.users.contains op.ticket) = some r ∧ r.granted = false
    let none' := ∀ r ∈ c.permits, op.ticket ∉ r.users ∧ r.explicit = false
    let own : Permit := { ticket := s.serial, group := none, explicit := false, granted := false, held := true,
                          users := [op.ticket] }
    let res := exec (.mmaOperation core) s
    (m.started = true → asked → res = .next s) ∧
    (m.started = true → none' → Completes res fun s' => s'.serial = s.serial + 1 ∧
      OnCore s s' core { c with permits := c.permits ++ [own] }) ∧
    (m.started = false → asked ∨ none' → mmaHdl m.flags = false ∨ m.claimed = true ∨ s.handle op.team p.handle = 0 →
      Completes res fun s' => OnCore { s with teams := s'.teams, groups := s'.groups } s' core { c with
          queue4 := { op with work := .mma { m with claimed := true } } :: q
          permits := if c.permits.any (fun r => r.users.contains op.ticket) then c.permits else c.permits ++ [own] } ∧
        (∀ t, (s'.teams.lookup t).map (fun x => { x with handles := [] }) =
          (s.teams.lookup t).map fun x => { x with handles := [] }) ∧
        (∀ t k, (s.teams.lookup op.team).isSome = true → s'.handle t k =
          if mmaHdl m.flags = true ∧ m.claimed = false ∧ t = op.team ∧ k = p.handle then 1 else s.handle t k))

/-- `mma` checks, waits for its gang, joins queue 4 and waits there for its permit: all of the statements just given. -/
def Obligations.ProductsAreQueued : Prop :=
  Sys2Proof.Claims.ProductsJoinTheQueue ∧ Sys2Proof.Claims.ProductsWaitForPermits

/-- The oldest operation of queue 4 in its turn: a table or a program takes effect; a latch load with its permit reads its
half-tile from the floor scratchpad; accumulator words are written, cleared, or read into the registers of the lanes that
asked, whose instruction has then landed (R156, R157, R162, R168, R306, R310, R312). A latch load that meets an uncorrectable
error in its tile loads nothing, and its issuers trap with `ECC_FATAL`; which unit reports it is the model's choice (R356;
log 16). -/
def Obligations.EngineWorkIsPerformed : Prop :=
  ∀ (core : Nat) (s : State) (op : Op4) (q : List Op4), (s.core core).queue4 = op :: q →
    let m := (s.core core).matrix
    let done (x : Matrix) (ev : Instr) : Prop := Performs s core op q x (exec ev s)
    (∀ t, op.work = .segtab t → done { m with table := t } (.segtabApply core)) ∧
    (∀ p, op.work = .epld p → done { m with epilogue := some p } (.epldApply core)) ∧
    (∀ cells, op.work = .accwr cells → ∃ acc, done { m with acc := acc } (.accwrPerform core) ∧
      ∀ k, acc.at k 0 = (((cells.filter fun c => c.1 = k).getLast?).map fun c => c.2).getD (m.acc.at k 0)) ∧
    (∀ a b, op.work = .accz a b → ∃ acc, done { m with acc := acc } (.acczPerform core) ∧
      ∀ k, acc.at k 0 = if a ≤ k / 128 ∧ k / 128 < a + b then 0 else m.acc.at k 0) ∧
    (∀ fmt h b t, op.work = .wload fmt h b t → permitted s core op = true → tileLost s core fmt h t → ∃ w,
      Flaw.floor core w ∈ s.flaws ∧ exec (.wloadLatch core) s =
        .next (op.issuers.foldl (fun s i => s.engineTrap i .eccFatal (BitVec.ofNat 64 (4 * w))) (s.pop4 core))) ∧
    (∀ fmt h b t, op.work = .wload fmt h b t → permitted s core op = true → ¬ tileLost s core fmt h t → ∃ x,
      done { m with halves := x } (.wloadLatch core) ∧
      (∀ k, k ≠ 2 * b + h → x.at k Half.initial = m.halves.at k Half.initial) ∧
      (x.at (2 * b + h) Half.initial).fmt = fmt ∧
      (∀ j, (x.at (2 * b + h) Half.initial).data.read j = tileByte (s.slice core).floor fmt h t j) ∧
      (x.at (2 * b + h) Half.initial).scale = if fmt < 2 ∧ h = 0 then
          BitVec.ofNat 32 ((s.slice core).floor.readNat (0x7FC000 + 4 * t) 4)
        else (m.halves.at (2 * b + h) Half.initial).scale) ∧
    (∀ fmt h b t, op.work = .wload fmt h b t → (∀ p ∈ (s.core core).permits, op.ticket ∉ p.users ∧ p.explicit = false) →
      Completes (exec (.wloadLatch core) s) fun s' => s'.serial = s.serial + 1 ∧ OnCore s s' core { s.core core with
        permits := (s.core core).permits ++ [{ ticket := s.serial, group := none, explicit := false, granted := false,
                                               held := true, users := [op.ticket] }] }) ∧
    ∀ r cb n d i g, op.work = .accrd r cb n d → op.issuers = [i] → s.groups.lookup i.group = some g → d + n ≤ 256 →
      Completes (exec (.accrdPerform core) s) fun s' => ∃ s1 h,
        OnCore s s1 core { (s.core core).leavePermit op.ticket with queue4 := q } ∧ s' = { s1 with groups := s'.groups } ∧
        (∀ k, k ≠ i.group → s'.groups.lookup k = s.groups.lookup k) ∧ s'.groups.lookup i.group = some h ∧
        h = { g.landed op.ticket with vregs := h.vregs } ∧
        ∀ l k, k < 256 → h.vreg i.group l k = if i.mask.getLsbD l = true ∧ d ≤ k ∧ k < d + n then
            m.acc.at ((r + (k - d)) * 128 + (cb + l) % 128) 0
          else g.vreg i.group l k

/-- A number as a fraction. -/
def Sys2Proof.Claims.amount : Val → Rat
  | .fin n m e => (if n then -(m : Rat) else m) * 2 ^ e
  | _ => 0

/-- The sum of the products of a block, by the first case that applies: NaN where a product is NaN or both infinities are among them;
an infinity where one is; otherwise the exact sum, a zero being −0 only where every product of a whole block is −0, since a
shorter block is completed with +0 (R85). -/
def Sys2Proof.Claims.BlockSumsAreExact : Prop :=
  ∀ (n full : Nat) (a w : Nat → Val),
    let ps := (List.range n).map fun k => (a k).mul (w k)
    let z := blockSum n full a w
    (Val.nan ∈ ps ∨ (Val.inf false ∈ ps ∧ Val.inf true ∈ ps) → z = .nan) ∧
    (∀ s, Val.nan ∉ ps → Val.inf s ∈ ps → Val.inf (!s) ∉ ps → z = .inf s) ∧
    ((∀ p ∈ ps, ∃ s m e, p = Val.fin s m e) → ∃ s m e, z = .fin s m e ∧ Claims.amount z = (ps.map Claims.amount).sum ∧
      (m = 0 → (s = true ↔ 0 < n ∧ full ≤ n ∧ ∀ p ∈ ps, ∃ e, p = Val.fin true 0 e)))

/-- What a block adds to an accumulator element: its sum rounded to FP32; for 8-bit operands times the product of the two scales,
rounded at each step; added with one rounding (R83, R84). -/
def Sys2Proof.Claims.BlocksAreAccumulated : Prop :=
  ∀ (eight : Bool) (acc : Word) (sum : Val) (sa sb : Word),
    let val (n : Nat) : Val := Flt.f32.value n
    let s32 := Flt.f32.rn sum
    let sc := Flt.f32.rn ((val sa.toNat).mul (val sb.toNat))
    let t := if eight then Flt.f32.rn ((val s32).mul (val sc)) else s32
    (accumulate eight acc sum sa sb).toNat = Flt.f32.rn ((val acc.toNat).add (val t))

/-- A row after an arithmetic micro-op, element by element; q after `amax`; q and y after a quantise (R76, R166, R312, R314). The
values of `gelu` and `silu` are the model's own (log 11). -/
def Sys2Proof.Claims.rowAfter (e : Epilogue) (pad : Memory) (code operand : Nat) (r : EpiRow) : EpiRow :=
  let val (x : Word) : Val := Flt.f32.value x.toNat
  let round (p : Val × Bool) : Word := BitVec.ofNat 32 (Flt.f32.rn p.1 p.2)
  let one : Word := 0x3F800000
  let c (k : Nat) : Word := e.consts.getD k 0
  let each (f : Nat → Word → Word) : EpiRow := { r with w := r.w.zipIdx.map fun p => f p.2 p.1 }
  let quantised (t : Ty) (limit : Word) (toInf : Bool) : EpiRow :=
    let q := match val r.q with
      | .fin _ (_ + 1) _ => if round ((val r.q).div (val limit)) = 0 then one else round ((val r.q).div (val limit))
      | _ => one
    { r with q := q,
             y := r.w.map fun x => BitVec.ofNat 8 (convertVal t false toInf (val (round ((val x).div (val q))))) }
  match code with
  | 1 => each fun _ x => round ((val x).mul (val (c operand)), false)
  | 2 => each fun j x => round ((val x).mul (val (wordAt pad (operand + 4 * j))), false)
  | 3 => each fun j x => round ((val x).add (val (wordAt pad (operand + 4 * j))), false)
  | 4 => each fun _ x => if val x = .nan ∨ (val x).isNeg = true then 0 else x
  | 5 => each fun _ x => fgelu x
  | 6 => each fun _ x => fsilu x
  | 7 => each fun _ x =>
      if val x = .nan then (if val (c operand) = .nan then 0x7FC00000 else c operand)
      else BitVec.ofNat 32 (lesser .f32 (greater .f32 x.toNat (c operand).toNat) (c (operand + 1)).toNat)
  | 8 => match r.w.map fun x => Claims.signed .f32 x.toNat false with
    | [] => { r with q := 0 }
    | m :: ms => { r with q := BitVec.ofNat 32 (ms.foldl (greater .f32) m) }
  | 9 => quantised .e4m3 0x43E00000 false
  | 10 => quantised .e5m2 0x47600000 false
  | _ => quantised .e5m2 0x47600000 true

/-- How a store of the engine to global memory ends: each line is translated as a write in its turn and written at its level-2
home; a miss, a refusal or a line that cannot be read ends it there (R107, R108, R314, R315, R345, R356). -/
def Sys2Proof.Claims.GlobalStoreEnds (core space : Nat) (va : DWord) (bs : List Byte) :
    List (Nat × Nat) → State → EpiEnd → Prop
  | [], s, r => r = .ok s
  | p :: ps, s, r => ∃ s1 x, s.translate core space (BitVec.ofNat 64 p.1) .write = (s1, x) ∧
    (x = .miss → r = .miss s1 (BitVec.ofNat 64 p.1)) ∧
    (∀ c, x = .fault c → r = .fault s1 c (BitVec.ofNat 64 p.1)) ∧
    ∀ pa st bc, x = .ok pa st bc →
      (s1.unreadable pa = true → r = .fault s1 .eccFatal (BitVec.ofNat 64 p.1)) ∧
      (s1.unreadable pa = false → Claims.GlobalStoreEnds core space va bs ps
        (s1.l2Write pa ((bs.drop (p.1 - va.toNat)).take p.2)) r)

/-- Where a program goes on behind a store: with the next word where it is done; a row whose store misses is held at it. -/
def Sys2Proof.Claims.behind (r : EpiEnd) (held : EpiHeld) (next : State → EpiEnd) : EpiEnd :=
  match r with
  | .ok t => next t
  | .miss t va => .held t va held
  | x => x

/-- A row runs its program word by word. An arithmetic word changes the row, unless the vector that it reads holds an
uncorrectable error, which stops it (log 16). `sts` writes the 128 bytes of y at the slot's base and i times its stride, and then q
at the slot's scale base and 4i; `stg` does so in global memory; `stf` writes the 512 bytes of w, in the space that it names
(R311, R312, R314, R315, R356). -/
def Sys2Proof.Claims.RowsRunTheirProgram : Prop :=
  ∀ (core team space i : Nat) (e : Epilogue) (s : State) (r : EpiRow) (w : Word) (ws : List Word),
    r.w.length = 128 →
    let run := State.epiRow core team space e i
    let code := w.toNat / 2 ^ 26
    let operand := w.toNat % 2 ^ 26
    let slot := e.slots.getD (operand % 4) { base := 0, stride := 0, scale := 0 }
    let base := slot.base + BitVec.ofNat 64 (i * slot.stride.toNat)
    let scale := slot.scale + BitVec.ofNat 64 (4 * i)
    let held : EpiHeld := { rest := w :: ws, w := r.w, q := r.q, y := r.y }
    let q := leBytes 4 r.q.toNat
    let all := r.w.flatMap fun x => leBytes 4 x.toNat
    let ends (va : DWord) (bs : List Byte) : State → EpiEnd → Prop :=
      Claims.GlobalStoreEnds core space va bs (pieces va.toNat bs.length)
    run [] s r = .ok s ∧
    (1 ≤ code → code < 12 → (code = 2 ∨ code = 3 → padFlawed s team operand 512 = false) →
      run (w :: ws) s r = run ws s (Claims.rowAfter e (((s.teams.lookup team).map fun t => t.scratch).getD []) code operand r)) ∧
    (code = 2 ∨ code = 3 → padFlawed s team operand 512 = true →
      run (w :: ws) s r = .fault s .eccFatal (BitVec.ofNat 64 operand)) ∧
    (code = 12 ∨ (code = 14 ∧ operand / 4 % 2 = 0) → s.Canonical → ∃ t : State, run (w :: ws) s r = run ws t r ∧
      t = { s with teams := t.teams } ∧
      (∀ u, (t.teams.lookup u).map (fun m => { m with scratch := [] }) =
        (s.teams.lookup u).map fun m => { m with scratch := [] }) ∧
      ∀ u k, (s.teams.lookup u).isSome = true → scratchByte t u k =
        let put (bs : List Byte) (a : DWord) : Option Byte := if u = team ∧ a.toNat ≤ k then bs[k - a.toNat]? else none
        (if code = 12 then (put q scale).or (put r.y base) else put all base).getD (scratchByte s u k)) ∧
    (code = 13 → ∀ r1, ends base r.y s r1 → (∀ t, r1 ≠ .ok t) →
      run (w :: ws) s r = Claims.behind r1 held fun t => run ws t r) ∧
    (code = 13 → ∀ t, ends base r.y s (.ok t) → ∃ r2, ends scale q t r2 ∧
      run (w :: ws) s r = Claims.behind r2 held fun t => run ws t r) ∧
    (code = 14 → operand / 4 % 2 = 1 → ∃ r1, ends base all s r1 ∧
      run (w :: ws) s r = Claims.behind r1 held fun t => run ws t r)

/-- A phase of the oldest matrix operation. Its start, with its permit: the rows are cleared with `.zero`, and its handle is
filling. A K block: the block is latched, and each element of the segment's rows takes the exact sum of its products,
rounded once, times the scales for 8-bit formats; no other element changes. Behind its last block it drains or ends, and the
handle it names is full. A row of the epilogue in its turn; one that faults stops the operation, one whose store misses is
held at that store with what it has computed. While its team's cluster is frozen only an epilogue goes on (R62, R81 to R86,
R160, R165, R309, R314, R315). A block that meets an uncorrectable error stops the operation with `ECC_FATAL`; which unit
reports it is the model's choice (R356; log 16). -/
def Sys2Proof.Claims.ProductsAdvance : Prop :=
  ∀ (core : Nat) (s : State) (op : Op4) (q : List Op4) (m : MmaOp), (s.core core).queue4 = op :: q →
    op.work = .mma m → op.parked = none → permitted s core op = true →
    let p := mmaParams m.params
    let x := (s.core core).matrix
    let res := exec (.mmaOperation core) s
    let first (k : Nat) : Nat := ((mmaSegments m.flags p x.table).take k |>.map fun e => e.1).sum
    (s.frozenTeam op.team = true → m.drain = false → res = .next s) ∧
    (s.frozenTeam op.team = false → m.started = false → m.claimed = false → mmaHdl m.flags = true →
      s.handle op.team p.handle ≠ 0 → res = .next s) ∧
    (s.frozenTeam op.team = false → m.started = false → mmaHdl m.flags = false ∨ m.claimed = true ∨
        (s.handle op.team p.handle = 0 ∧ (s.teams.lookup op.team).isSome = true) →
      Completes res fun s' => ∃ acc, s'.core core = { s.core core with
          queue4 := { op with work := .mma { m with claimed := true, started := true } } :: q,
          matrix := { x with acc := acc } } ∧
        (∀ k, acc.at k 0 =
          if mmaZero m.flags = true ∧ p.row ≤ k / 128 ∧ k / 128 < p.row + p.m then 0 else x.acc.at k 0) ∧
        (mmaHdl m.flags = true → m.claimed = false → s'.handle op.team p.handle = 1) ∧ s'.mem = s.mem ∧
        s'.slices = s.slices) ∧
    (∀ rows tile, s.frozenTeam op.team = false → m.started = true → m.drain = false →
      (mmaSegments m.flags p x.table)[m.segment]? = some (rows, tile) →
      let y := if mmaPre m.flags = true ∧ m.segment = 0 ∧ m.block = 0 then x
        else x.latchTile (s.slice core).floor (mmaWf m.flags) (m.block % 2) (tile + m.block)
      let full := if mmaAf m.flags < 2 then 128 else 64
      let last := mmaBlocks m.flags p ≤ m.block + 1
      let ended := (mmaSegments m.flags p x.table).length ≤ m.segment + 1
      let lost := blockLost s core op.team m.flags p (!(mmaPre m.flags && decide (m.segment = 0) && decide (m.block = 0)))
        (tile + m.block) (first m.segment) rows m.block
      (lost → ∃ w, (Flaw.floor core w ∈ s.flaws ∨ Flaw.scratch op.team w ∈ s.flaws) ∧
        res = .next (s.stopMma core op m .eccFatal (BitVec.ofNat 64 (4 * w)))) ∧
      (¬ lost → Completes res fun s' => ∃ acc, (s'.core core).matrix = { y with acc := acc } ∧
        (∀ r j, j < 128 → acc.at (r * 128 + j) 0 =
          if p.row + first m.segment ≤ r ∧ r < p.row + first m.segment + rows then
            let a := r - p.row
            accumulate (mmaAf m.flags < 2) (x.acc.at (r * 128 + j) 0)
              (blockSum (min full (p.k - m.block * full)) full
                (fun k => aElement (s.scratchOf op.team) (mmaAf m.flags) (p.a + a * p.stride) (m.block * full + k))
                (fun k => y.weight (m.block % 2) k j))
              (BitVec.ofNat 32 ((s.scratchOf op.team).readNat (p.scale + 4 * (a * mmaBlocks m.flags p + m.block)) 4))
              (y.half (m.block % 2) 0).scale
          else x.acc.at (r * 128 + j) 0) ∧
        s'.mem = s.mem ∧ s'.slices = s.slices ∧
        (¬ last → (s'.core core).queue4 = { op with work := .mma { m with block := m.block + 1 } } :: q ∧
          s'.teams = s.teams) ∧
        (last → ¬ ended →
          (s'.core core).queue4 = { op with work := .mma { m with block := 0, segment := m.segment + 1 } } :: q ∧
          s'.teams = s.teams) ∧
        (last → ended → mmaEpi m.flags = true → s'.teams = s.teams ∧ (s'.core core).queue4 =
          { op with work := .mma { m with block := 0, segment := m.segment + 1, drain := true } } :: q) ∧
        (last → ended → mmaEpi m.flags = false → (s'.core core).queue4 = q ∧
          (mmaHdl m.flags = true → (s.teams.lookup op.team).isSome = true → s'.handle op.team p.handle = 2)))) ∧
    ∀ ep i, m.started = true → m.drain = true → x.epilogue = some ep → op.issuers.head? = some i →
      let w := (List.range 128).map fun j => x.acc.at ((p.row + m.row) * 128 + j) 0
      let from' : EpiHeld := m.held.getD { rest := ep.body, w := w, q := 0, y := [] }
      let row := State.epiRow core op.team i.space ep m.row from'.rest s { w := from'.w, q := from'.q, y := from'.y }
      (∀ s1, row = .ok s1 → m.row + 1 < p.m →
        res = .next (s1.set4 core { op with work := .mma { m with row := m.row + 1, held := none } })) ∧
      (∀ s1, row = .ok s1 → p.m ≤ m.row + 1 → res = .next (s1.endMma core op m)) ∧
      (∀ s1 va h, row = .held s1 va h → Completes res fun s' => ∃ s2 t, s1.engineMiss i core va .write = (s2, t) ∧
        s' = s2.set4 core { op with work := .mma { m with held := some h }, parked := some (t, va) }) ∧
      ∀ s1 c va, row = .fault s1 c va → res = .next (s1.stopMma core op m c va)

/-- Matrix operations advance, block sums are exact and accumulated, and epilogue rows run their program: all of the statements
just given. -/
def Obligations.ProductsAreComputed : Prop :=
  Sys2Proof.Claims.BlockSumsAreExact ∧ Sys2Proof.Claims.BlocksAreAccumulated ∧ Sys2Proof.Claims.RowsRunTheirProgram ∧
  Sys2Proof.Claims.ProductsAdvance

/-- Permits: a request joins the column's requests; the release form leaves its group without an explicit permit, and an
entry that waited for it stands at its instruction; the permit unit grants the oldest request while fewer are granted than
the column may hold, four, two from swallow level 8, one at 15 (R167, R316). -/
def Obligations.PermitsAreGranted : Prop :=
  (∀ (gd : Guard) (s : State) (i : Issue), s.issuing gd = some i → i.active ≠ 0 →
    let c := s.core i.grp.core
    ((∃ p ∈ c.permits, p.explicit = true ∧ p.held = true ∧ p.group = some i.gid) →
      MovesOn s i (exec (.permit gd) s)) ∧
    ((∀ p ∈ c.permits, ¬ (p.explicit = true ∧ p.held = true ∧ p.group = some i.gid)) →
      (Completes (exec (.permit gd) s) fun s' => ∃ s1, i.Changes s1 s' i.moved ∧ s1.serial = s.serial + 1 ∧
        OnCore s s1 i.grp.core { c with permits := c.permits ++
          [{ ticket := s.serial, group := some i.gid, explicit := true, granted := false, held := true, users := [] }] }) ∧
      MovesOn s i (exec (.permitRel gd) s)) ∧
    ∀ p ∈ c.permits, p.explicit = true → p.held = true → p.group = some i.gid →
      (c.permits.map fun q => q.ticket).Nodup →
      (∀ q ∈ c.permits, q.explicit = true → q.held = true → q.group = some i.gid → q = p) →
      Completes (exec (.permitRel gd) s) fun s' => ∃ s1 g, i.Changes s1 s' g ∧ s1.serial = s.serial ∧
        g = (i.moved.onFronts fun e => if e.hold = .permit p.ticket then { e with hold := .free, len := 0 } else e) ∧
        OnCore s s1 i.grp.core (s1.core i.grp.core) ∧
        s1.core i.grp.core = { c with permits := (s1.core i.grp.core).permits } ∧
        (∀ q ∈ (s1.core i.grp.core).permits, ¬ (q.explicit = true ∧ q.held = true ∧ q.group = some i.gid)) ∧
        (∀ q, q.ticket ≠ p.ticket → (q ∈ (s1.core i.grp.core).permits ↔ q ∈ c.permits)) ∧
        (p.users = [] → ∀ q ∈ (s1.core i.grp.core).permits, q.ticket ≠ p.ticket) ∧
        ∀ q ∈ g.front.entries, q.hold ≠ .permit p.ticket) ∧
  ∀ (core : Nat) (s : State),
    let c := s.core core
    let limit := if 15 ≤ c.swallow then 1 else if 8 ≤ c.swallow then 2 else 4
    ((∀ p ∈ c.permits, p.granted = true) ∨ limit ≤ c.permits.countP (fun q => q.granted) →
      exec (.permitGrant core) s = .next s) ∧
    ∀ a p b, c.permits = a ++ p :: b → (∀ q ∈ a, q.granted = true) → p.granted = false →
      ((c.permits.map fun q => q.ticket).Nodup) → c.permits.countP (fun q => q.granted) < limit →
      Completes (exec (.permitGrant core) s) fun s' =>
        OnCore s { s' with groups := s.groups } core { c with permits := a ++ { p with granted := true } :: b } ∧
        (∀ k g, s'.groups.lookup k = some g → ∀ q ∈ g.front.entries, q.hold ≠ .permit p.ticket)

/-! ### Copy engine and handles -/

/-- `cpgo`: a head of 0, one that breaks the address rule and a misaligned one trap, with the instruction's address in
`$taddr`; while its channel holds four chains the entry stays; otherwise the chain joins the channel and the entry goes on
(R169, R302, R317). That the chain which the channel walks counts among the four is the model's choice (log 91). -/
def Sys2Proof.Claims.ChainsAreStarted : Prop :=
  ∀ (x : XS) (s : State) (i : Issue), (Instr.cpgo x).wellFormed = true → s.issuing x.g = some i →
    let ch := x.i32.toNat % 4
    let va := i.uni x.a
    let c := s.core i.grp.core
    let old := c.channels.at ch Channel.initial
    (i.active = 0 → MovesOn s i (exec (.cpgo x) s)) ∧
    (i.active ≠ 0 → ∀ b, (([(decide (va = 0), .illegalField, i.slot.pc), (!canonical va, .xlateFault, i.slot.pc),
        (decide (va.toNat % 64 ≠ 0), .atomicAlign, i.slot.pc)] : List Check).find? fun b => b.1) = some b →
      Traps s i b.2.1 i.active b.2.2 (exec (.cpgo x) s)) ∧
    (i.active ≠ 0 → va ≠ 0 → canonical va = true → va.toNat % 64 = 0 →
      (4 ≤ old.heads.length → exec (.cpgo x) s = .next s) ∧
      (old.heads.length < 4 → Completes (exec (.cpgo x) s) fun s' => ∃ s1, i.Changes s1 s' i.moved ∧
        s1.serial = s.serial + 1 ∧ OnCore s s1 i.grp.core { c with channels := c.channels.put ch { old with heads :=
          old.heads ++ [{ ticket := s.serial, issuer := i.issuer, record := va, shares := none }] } }))

/-- Bytes read one after another at their level-2 homes, until one lies in a line that cannot be read (R129, R345, R356). -/
def readInTurn (s : State) (pa : Nat → Nat) (n : Nat) : State × List Byte × Bool :=
  (List.range n).foldl (fun p k =>
    if p.2.2 || homeLost p.1 (pa k) then (p.1, p.2.1, true)
    else ((p.1.l2Read (pa k) 1).1, p.2.1 ++ [(p.1.l2Read (pa k) 1).2.headD 0], false)) (s, [], false)

/-- The start of a record: while its team's cluster is frozen none starts; one without its owner bit ends its chain; one with
a field that R169 forbids, or with a transform under a codebook that is not the team's, stops its channel; any other that no
handle and no scoreboard holds back runs, with its handle filling and its ranges in the scoreboards, but for those that a
resumption has brought back there (R62, R66, R96, R169 to R171). The order of the causes (log 104), who receives a handle and
how ranges join (log 56) are the model's choices. -/
def Sys2Proof.Claims.RecordsStart : Prop :=
  ∀ (core ch : Nat) (s : State) (h : Head) (rest : List Head) (t : Tlb) (pa : Nat) (st bc : Bool),
    let x := (s.core core).channels.at ch Channel.initial
    let res (kind : Nat) : Result := if kind = 1 then exec (.codebookSetup core ch) s else exec (.copyRecord core ch) s
    x.heads = h :: rest → x.parked = none → x.running = none →
    (s.frozenTeam h.issuer.team = true → ∀ kind, res kind = .next s) ∧
    (s.frozenTeam h.issuer.team = false → canonical h.record = true →
      (s.core core).leafOf h.issuer.space h.record.toNat = some t →
      s.classify t.size t.entry h.record.toNat .read = .ok pa st bc → s.unreadable pa = false →
      let s1 := (s.l2Read pa 64).1
      let bs := (s.l2Read pa 64).2
      let r := recordOf bs
      let kind := if r.kind = 1 then 1 else 0
      (r.owner = false → ∀ k, res k = .next (s1.endChain core ch) ∧
        ((s1.endChain core ch).core core).channels.lookup ch = some { heads := rest, running := none, parked := none }) ∧
      (r.owner = true → recordBad bs r = true → res kind = .next (s1.recordFault core ch h .illegalField)) ∧
      (r.owner = true → recordBad bs r = false →
        (∀ c, s1.classify t.size t.entry h.record.toNat .write ≠ .fault c) →
        (r.source = 2 ∨ r.dest = 2 → s1.waysFor core h.issuer.team ≠ 16) →
        (r.transform = true → s1.tagged core h.issuer.team = false →
          res kind = .next (s1.recordFault core ch h .codebookTag)) ∧
        ((r.transform = true → s1.tagged core h.issuer.team = true) → s1.badTeams h r = false →
          (∀ k, r.handle = some k → h.shares = none → ∀ m ∈ s1.receivers h r, s1.handle m k = 0) →
          let news := if r.kind = 1 then [] else (s1.rangesOf h r).filter fun x =>
            !((s1.coreOf x.team).any fun n => (s1.core n).scoreboard.any fun y => y.ticket = x.ticket && y.team = x.team)
          s1.roomFor news = true → Completes (res kind) fun s' =>
            s' = { s1 with teams := s'.teams, groups := s'.groups, cores := s'.cores } ∧
            (∃ run : Running, ((s'.core core).channels.at ch Channel.initial) = { x with running := some run } ∧
              run = { record := h.record, pa := pa, bytes := bs, shares := s1.receivers h r, data := none }) ∧
            (∀ k, r.handle = some k → ∀ m ∈ s1.receivers h r, (s1.teams.lookup m).isSome = true → s'.handle m k = 1) ∧
            (r.handle = none → s'.teams = s1.teams) ∧
            ∀ n, (s'.core n).scoreboard = (s1.core n).scoreboard ++ news.filter fun e => s1.coreOf e.team = some n)))

/-- Every record that is no multicast, with any ends, dimensions and transform: its elements move in ascending order, each
byte read at its place, in global memory at its level-2 home, and written at its destination's places; a transform writes the
codebook's 16 bytes for it. Then its handle is full for its receivers, its owner bit is cleared and the channel turns to the
next record. A multicast reads its elements once, in the same order. A byte whose line cannot be read when its turn comes, and a
record whose own line cannot be reached any more, stop the channel; so does a transform under a codebook that is not the team's
(R92, R93, R103, R107, R129, R169 to R172, R345, R356). Who receives the handle of a record to a cluster scratchpad is the
model's choice (log 56). -/
def Sys2Proof.Claims.ElementsMoveInOrder : Prop :=
  ∀ (core ch : Nat) (s : State) (h : Head) (rest : List Head) (run : Running) (ps : Nat → Place),
    let x := (s.core core).channels.at ch Channel.initial
    let r := recordOf run.bytes
    x.heads = h :: rest → x.parked = none → x.running = some run → r.kind ≠ 1 →
    (r.transform = true → s.tagged core h.issuer.team = false → s.frozenTeam h.issuer.team = false →
      run.data = none → exec (.copyRecord core ch) s = .next (s.recordFault core ch h .codebookTag)) ∧
    ((r.transform = true → s.tagged core h.issuer.team = true) →
      (∀ k < elementCount r, LiesAt s core h.issuer r.source .read (elementAt r k).1 (ps k)) →
      (∀ qs : Nat → Nat → Place, r.multicast = false →
        (∀ k < elementCount r, ∀ j < elementWidth r, LiesAt s core h.issuer r.dest .write ((elementAt r k).2 + j) (qs k j)) →
        Completes (exec (.copyRecord core ch) s) fun s' =>
          let s1 := (moveElements core r ps qs s).1
          let lost := (moveElements core r ps qs s).2 || homeLost s1 run.pa
          (lost = true → s' = s1.recordFault core ch h .eccFatal) ∧
          (lost = false → ∃ s2 : State, s' = s2.endRecord core ch h run ∧
            s2 = { s1 with teams := s2.teams, groups := s2.groups } ∧ (r.handle = none → s2 = s1) ∧
            (∀ t k, scratchByte s2 t k = scratchByte s1 t k) ∧
            ∀ k, r.handle = some k → ∀ t ∈ run.shares, (s1.teams.lookup t).isSome = true → s2.handle t k = 2)) ∧
      (r.multicast = true → s.frozenTeam h.issuer.team = false → run.data = none →
        Completes (exec (.copyRecord core ch) s) fun s' =>
          let got := readElements core r ps s
          let y : Channel := { x with running := some { run with data := some got.2.1 } }
          (got.2.2 = true → s' = got.1.recordFault core ch h .eccFatal) ∧
          (got.2.2 = false →
            OnCore got.1 s' core { got.1.core core with channels := (got.1.core core).channels.put ch y })))

/-- `ILLEGAL_FIELD` stops a record where a reserved field is not zero, it has no dimension, its length, kind or a count that it
uses is out of range, a multicast goes elsewhere than to a scratchpad, or a codebook setup is not as R318 has it (R169, R171,
R318); that a misaligned next address counts among these when the record begins is the model's choice (log 27). -/
def Sys2Proof.Claims.RecordFieldsAreChecked : Prop :=
  ∀ bs : List Byte, recordBad bs (recordOf bs) = true ↔
    let n (lo k : Nat) : Nat := leNat ((bs.drop lo).take k)
    let control := n 8 2
    let kind := control / 2 % 4
    let dims := control / 8 % 4
    control / 2 ^ 12 ≠ 0 ∨ n 10 1 / 2 ^ 6 ≠ 0 ∨ n 11 1 ≠ 0 ∨ n 12 2 / 2 ^ 12 ≠ 0 ∨ n 14 2 ≠ 0 ∨ n 56 8 ≠ 0 ∨ n 0 8 % 64 ≠ 0 ∨
    2 ≤ kind ∨ dims = 0 ∨ n 32 4 = 0 ∨ 16777216 < n 32 4 ∨
    (kind = 0 ∧ ((2 ≤ dims ∧ n 36 2 = 0) ∨ (dims = 3 ∧ n 38 2 = 0) ∨ (control.testBit 10 = true ∧ control / 2 ^ 7 % 4 ≠ 1))) ∨
    (kind = 1 ∧ (control / 2 ^ 5 % 4 ≠ 0 ∨ n 16 8 % 64 ≠ 0 ∨ n 32 4 ≠ 4096 ∨ dims ≠ 1 ∨ control / 2 ^ 7 % 4 ≠ 0 ∨ n 24 8 ≠ 0 ∨
      n 36 4 ≠ 0 ∨ n 40 16 ≠ 0 ∨ control.testBit 11 = true ∨ n 10 1 ≠ 0 ∨ control.testBit 10 = true ∨ n 12 2 ≠ 0 ∨
      control.testBit 9 = true))

/-- The copy engine: nothing to do, or a record that waits for the host, changes nothing; a record of one run within a
scratchpad moves its bytes and every other byte stays; a multicast writes one team's share after another, each byte where its
element says and the last one of a place standing, while its cluster is not frozen; a codebook record loads the 4 KiB that it
names, as they stand at their level-2 homes, with the tag of its team. Each then clears the owner bit at its home and turns to
the next record, unless a line that it needs cannot be read by then, the record's own among them, which stops the channel (R62,
R63, R169 to R172, R317, R318, R345, R356). -/
def Sys2Proof.Claims.RecordsAreCopied : Prop :=
  ∀ (core ch : Nat) (s : State),
    let x := (s.core core).channels.at ch Channel.initial
    let both (p : Result → Prop) : Prop := p (exec (.copyRecord core ch) s) ∧ p (exec (.codebookSetup core ch) s)
    (x.heads = [] → both fun r => r = .next s) ∧
    ∀ h rest, x.heads = h :: rest →
      (x.parked.isSome = true → both fun r => r = .next s) ∧
      ∀ run, x.parked = none → x.running = some run →
        ((recordOf run.bytes).kind ≠ 1 → (recordOf run.bytes).multicast = true → s.frozenTeam h.issuer.team = true →
          exec (.copyRecord core ch) s = .next s) ∧
        (∀ data t more size, (recordOf run.bytes).kind ≠ 1 → (recordOf run.bytes).multicast = true →
          s.frozenTeam h.issuer.team = false → s.Canonical → run.data = some data → run.shares = t :: more →
          ((s.teams.lookup t).map fun m => m.size) = some size →
          let w := elementWidth (recordOf run.bytes)
          let at' (n : Nat) : Int := (elementAt (recordOf run.bytes) (n / w)).2 + (n % w : Nat)
          data.length = elementCount (recordOf run.bytes) * w →
          (∀ n < data.length, 0 ≤ at' n ∧ at' n < size ∧ padFlawed s t (at' n).toNat 1 = false) →
          Completes (exec (.copyRecord core ch) s) fun s' => ∃ s1 : State,
            s1 = { s with teams := s1.teams, groups := s1.groups } ∧
            (∀ u k, scratchByte s1 u k = if u = t then
                ((((List.range data.length).filter fun n => at' n = (k : Int)).getLast?).map fun n =>
                  data.getD n 0).getD (scratchByte s u k)
              else scratchByte s u k) ∧
            (more ≠ [] ∨ homeLost s run.pa = false → ∀ k, (recordOf run.bytes).handle = some k → s1.handle t k = 2) ∧
            (more = [] → homeLost s run.pa = true → s' = s1.recordFault core ch h .eccFatal) ∧
            (more = [] → homeLost s run.pa = false → s' = s1.endRecord core ch h { run with shares := [] }) ∧
            (more ≠ [] → ∃ x', x' = { x with running := some { run with shares := more } } ∧
              OnCore s1 s' core { s.core core with channels := (s.core core).channels.put ch x' })) ∧
        (∀ size, Plain s h run size → s.Canonical → Completes (exec (.copyRecord core ch) s) fun s' => ∃ s1 : State,
          s' = (if homeLost s run.pa then s1.recordFault core ch h .eccFatal else s1.endRecord core ch h run) ∧
          s1 = { s with teams := s1.teams } ∧
          (∀ t, (s1.teams.lookup t).map (fun m => { m with scratch := [] }) =
            (s.teams.lookup t).map fun m => { m with scratch := [] }) ∧
          ∀ t k, scratchByte s1 t k =
            if t = h.issuer.team ∧ (recordOf run.bytes).dst ≤ k ∧
                k < (recordOf run.bytes).dst + (recordOf run.bytes).length then
              scratchByte s t ((recordOf run.bytes).src + (k - (recordOf run.bytes).dst))
            else scratchByte s t k) ∧
        ∀ pa, BookAllowed s core h run pa → Completes (exec (.codebookSetup core ch) s) fun s' => ∃ s1 : State,
          let got := readInTurn s pa 4096
          let lost := got.2.2 || homeLost got.1 run.pa
          MemorySystem s got.1 ∧ (lost = true → s' = got.1.recordFault core ch h .eccFatal) ∧
          (lost = false → s' = s1.endRecord core ch h run ∧ got.2.1.length = 4096 ∧
            s1 = { got.1 with cores := s1.cores } ∧ (∀ k, k ≠ core → s1.core k = s.core k) ∧
            s1.core core = { s.core core with codebook := (s1.core core).codebook } ∧
            ∀ tag, s.tagOf h.issuer.team = some tag → (s1.core core).codebook =
              some { bytes := got.2.1, grid := tag.1, cluster := tag.2.1, team := tag.2.2 })

/-- Copy chains are started and their records performed: all of the statements just given. -/
def Obligations.CopiesRun : Prop :=
  Sys2Proof.Claims.ChainsAreStarted ∧ Sys2Proof.Claims.RecordsStart ∧ Sys2Proof.Claims.ElementsMoveInOrder ∧
  Sys2Proof.Claims.RecordFieldsAreChecked ∧ Sys2Proof.Claims.RecordsAreCopied

/-- Handles: `hwait` goes on where the handle's state is one it names, and otherwise waits; `hrel` takes a full handle to
draining and a draining one to free, and traps on another; `hstat` reads the state; a handle above 63 traps
(R173, R319). -/
def Obligations.HandlesAreUsed : Prop :=
  ∀ (x : XS) (s : State) (i : Issue) (e : Entry), s.issuing x.g = some i → i.stands e →
    let h := i.scalar x.a
    let st := s.handle i.grp.team h
    (∀ c ∈ [Instr.hwait x, .hrel x, .hstat x], (i.active = 0 → MovesOn s i (exec c s)) ∧
      (i.active ≠ 0 → 63 < h → Traps s i .illegalField i.active i.slot.pc (exec c s))) ∧
    (i.active ≠ 0 → h ≤ 63 →
      (x.i32.getLsbD st = true → st < 4 → MovesOn s i (exec (.hwait x) s)) ∧
      (x.i32.getLsbD st = false → Waits s i (.handle h (x.i32.setWidth 4) false) (exec (.hwait x) s)) ∧
      (st < 2 → Traps s i .illegalField i.active i.slot.pc (exec (.hrel x) s)) ∧
      (2 ≤ st → Completes (exec (.hrel x) s) fun s' => ∃ s1 g, s1 = { s with teams := s1.teams, groups := s1.groups } ∧
        (∀ t k, s1.handle t k = if t = i.grp.team ∧ k = h then (if st = 2 then 3 else 0) else s.handle t k) ∧
        i.Changes s1 s' g ∧ g.vregs = i.grp.vregs ∧ g.uregs = i.grp.uregs ∧ g.preds = i.grp.preds ∧
        s1.groups.map (·.1) = s.groups.map (·.1)) ∧
      ((Instr.hstat x).wellFormed = true → x.d.uni = false →
        LaneResult s i .n32 x.d.n.toNat (fun _ => st) (exec (.hstat x) s)) ∧
      ((Instr.hstat x).wellFormed = true → x.d.uni = true → UniResult s i .n32 x.d.n.toNat st (exec (.hstat x) s)))

/-! ### System instructions -/

/-- `waitdep` goes on with an acquire at `.dev` once every producer has triggered or exited, and waits before; `trigger`
releases at `.dev` and marks its group; `yield` ends the cluster's quantum, which begins anew where nothing waits for its
place (R58 to R61, R326 to R328). -/
def Sys2Proof.Claims.DependencesAreKept : Prop :=
  ∀ (gd : Guard) (s : State) (i : Issue) (e : Entry), s.issuing gd = some i → i.stands e → i.active ≠ 0 →
    (producersReady s i → Completes (exec (.waitdep gd) s) fun s' =>
      i.Changes (s.acquireAt i.grp.core 4 0 none) s' i.moved) ∧
    (¬ producersReady s i → Waits s i .waitdep (exec (.waitdep gd) s)) ∧
    (Completes (exec (.trigger gd) s) fun s' =>
      i.Changes (s.releaseAt i.grp.core 4 0 fun _ => true) s' { i.moved with triggered := true }) ∧
    ∃ s1, i.Changes s s1 i.moved ∧ exec (.yield gd) s = .next (s1.endQuantum i.grp.cluster) ∧
      ∀ c, s.clusters.lookup i.grp.cluster = some c → s1.mustLeave i.grp.cluster = false → s1.remapDue = false →
        s1.crowded (s1.prioOf c) = false → Completes (exec (.yield gd) s) fun s' =>
          s' = { s1 with clusters := s'.clusters } ∧
          s'.clusters.lookup i.grp.cluster = some { c with since := s.time } ∧
          ∀ k, k ≠ i.grp.cluster → s'.clusters.lookup k = s.clusters.lookup k

/-- `launch`: a message of another kind, or one that reasons 1 to 4 refuse, traps; otherwise the core releases at `.dev`;
then, while its queue is full, the entry is held with the message that it read; otherwise D receives the identifier, the counter's value where no live grid has it, and the
counter stands behind it; where the shape can be placed the grid waits at the tail of its queue, with its parent's address
space and no more than its parent's priority (R55, R324, R325). -/
def Sys2Proof.Claims.KernelsLaunchGrids : Prop :=
  ∀ (x : XS) (s : State) (i : Issue), (Instr.launch x).wellFormed = true → s.issuing x.g = some i →
    let bs := (List.range 16).flatMap fun k => leBytes 8 (i.grp.ureg i.gid (Src.index x.a + k)).toNat
    let s1 := s.releaseAt i.grp.core 4 0 fun _ => true
    (i.active = 0 → MovesOn s i (exec (.launch x) s)) ∧
    (i.active ≠ 0 → messageKind bs ≠ 1 ∨ s.refusal bs true ≠ 0 →
      Traps s i .illegalField i.active i.slot.pc (exec (.launch x) s)) ∧
    (i.active ≠ 0 → messageKind bs = 1 → s.refusal bs true = 0 → 256 ≤ s.waiting (messageQueue bs) →
      Completes (exec (.launch x) s) fun s' => ∃ g, i.Changes s1 s' g ∧ g = i.placed g.front.entries ∧
        (∀ l, g.front.at l = i.grp.front.at l) ∧
        ∀ q ∈ g.front.entries, q.mask = i.slot.mask → q.hold = .launch bs x.d.n.toNat) ∧
    (i.active ≠ 0 → messageKind bs = 1 → s.refusal bs true = 0 → s.waiting (messageQueue bs) < 256 →
      s.pairOut = false → s.shapeExists (field bs 20 1 % 16) (field bs 20 1 / 16) = true →
      Completes (exec (.launch x) s) fun s' => ∃ (id : BitVec 32) (g : Group) (gr : Grid) (s2 : State),
        ((∀ p ∈ s.grids, p.2.id ≠ s.nextLaunch) → id = s.nextLaunch) ∧
        s2 = { s1 with serial := s.serial + 1, nextLaunch := if id = 0xFFFFFFFF then 0x80000000 else id + 1,
                       grids := s2.grids, queues := s2.queues } ∧
        s2.grids.lookup s.serial = some gr ∧ (∀ k, k ≠ s.serial → s2.grids.lookup k = s.grids.lookup k) ∧
        gr.id = id ∧ gr.kernel = true ∧ gr.space = i.grp.space ∧ gr.clusters = field bs 16 4 ∧ gr.next = 0 ∧
        (∀ own, s.grids.lookup i.grp.grid = some own → gr.prio = min (field bs 14 1) own.prio) ∧
        (s2.queue (messageQueue bs)).items = (s.queue (messageQueue bs)).items ++ [.launch s.serial] ∧
        i.Changes s2 s' g ∧ g = { i.moved with uregs := g.uregs } ∧
        ∀ n, g.ureg i.gid n = if n = x.d.n.toNat then id.setWidth 64 else i.grp.ureg i.gid n)

/-- A held launch goes on once its queue has room, in a saved frontier too: its message joins the queue, the register
receives the identifier, and the entry stands behind it; while the queue is full nothing changes (R325). -/
def Sys2Proof.Claims.HeldLaunchesAreQueued : Prop :=
  ∀ (s : State) (core gid d : Nat) (saved : Bool) (g : Group) (e : Entry) (bs : List Byte),
    s.groups.lookup gid = some g → e.hold = .launch bs d →
    (256 ≤ s.waiting (messageQueue bs) → s.wakeIssued core gid saved e = s) ∧
    (s.waiting (messageQueue bs) < 256 → s.refusal bs true = 0 → s.pairOut = false →
      s.shapeExists (field bs 20 1 % 16) (field bs 20 1 / 16) = true →
      ∃ (id : BitVec 32) (h : Group) (gr : Grid) (t : State), t = s.wakeIssued core gid saved e ∧
        ((∀ p ∈ s.grids, p.2.id ≠ s.nextLaunch) → id = s.nextLaunch) ∧
        t = { s with serial := s.serial + 1, nextLaunch := if id = 0xFFFFFFFF then 0x80000000 else id + 1,
                     grids := t.grids, queues := t.queues, groups := t.groups } ∧
        t.grids.lookup s.serial = some gr ∧ gr.id = id ∧ gr.kernel = true ∧ gr.space = g.space ∧
        (t.queue (messageQueue bs)).items = (s.queue (messageQueue bs)).items ++ [.launch s.serial] ∧
        t.groups.lookup gid = some h ∧ (∀ k, k ≠ gid → t.groups.lookup k = s.groups.lookup k) ∧
        (∀ n, h.ureg gid n = if n = d then id.setWidth 64 else g.ureg gid n) ∧
        h = (g.setU d (id.setWidth 64)).carryOn saved e)

/-- Waitdep, trigger, yield and launch: all of the statements just given. -/
def Obligations.LaunchesAndDependences : Prop :=
  Sys2Proof.Claims.DependencesAreKept ∧ Sys2Proof.Claims.KernelsLaunchGrids ∧ Sys2Proof.Claims.HeldLaunchesAreQueued

/-- `setways`: a count that is neither 8 nor 16, then a team without floor need, traps; while the core's copy channels, its
matrix queue and earlier `setways` of the team are empty the partition is as asked and the entry goes on; otherwise it
waits. `qfence` waits for what its queues hold (R100 to R102, R131, R320, R331). -/
def Sys2Proof.Claims.QueuesAreAwaited : Prop :=
  ∀ (x : XS) (s : State) (i : Issue) (e : Entry), s.issuing x.g = some i → i.stands e →
    let n := i.scalar x.a
    let ts := engineTickets s i.grp.core ++ s.waysPending i.grp.team
    let qs := ((List.range 7).filter fun q => x.i32.getLsbD q).flatMap (s.queued i.grp.core)
    (i.active = 0 → MovesOn s i (exec (.setways x) s) ∧ MovesOn s i (exec (.qfence x) s)) ∧
    (i.active ≠ 0 →
      (n ≠ 8 ∧ n ≠ 16 → Traps s i .illegalField i.active i.slot.pc (exec (.setways x) s)) ∧
      (n = 8 ∨ n = 16 → hasFloor s i = false → Traps s i .protection i.active i.slot.pc (exec (.setways x) s)) ∧
      (n = 8 ∨ n = 16 → hasFloor s i = true → ts = [] → Completes (exec (.setways x) s) fun s' => ∃ s1,
        i.Changes s1 s' i.moved ∧ Repartitioned s s1 i.grp.core n ∧
        ((s.slice i.grp.core).ways = n → s1 = s) ∧
        ((s.slice i.grp.core).ways ≠ n → ∀ k, (s1.slice i.grp.core).floor.read k = 0)) ∧
      (n = 8 ∨ n = 16 → hasFloor s i = true → ts ≠ [] → Completes (exec (.setways x) s) fun s' => ∃ s1 g,
        i.Changes s1 s' g ∧ s1 = { s with serial := s.serial + 1 } ∧ g = i.placed g.front.entries ∧
        ∀ q ∈ g.front.entries, q.mask = i.slot.mask → q.hold = .ways n s.serial ts) ∧
      (qs = [] → MovesOn s i (exec (.qfence x) s)) ∧
      (qs ≠ [] → Waits s i (.queues qs) (exec (.qfence x) s)))

/-- `ccread` and `ccwait` check their address, its alignment and its memory, and trap with the instruction's address;
`ccread` writes the counter's value, once or to every lane, and acquires at `.dev` where asked; `ccwait` goes on with it once
the value has reached the bound, or at once with a limit of 0, and acquires; otherwise it waits, registered at the home
atomic unit, until its limit has passed (R323, R336 to R338). -/
def Sys2Proof.Claims.CountersAreRead : Prop :=
  (∀ (x : XS) (s : State) (i : Issue) (e : Entry), s.issuing x.g = some i → i.stands e →
    let va := i.uni x.a
    (∀ c ∈ [Instr.ccread x, .ccwait x], c.wellFormed = true → (i.active = 0 → MovesOn s i (exec c s)) ∧
      (i.active ≠ 0 → canonical va = false → Traps s i.lead .xlateFault i.lead.active i.slot.pc (exec c s)) ∧
      (i.active ≠ 0 → canonical va = true → va.toNat % 8 ≠ 0 →
        Traps s i.lead .atomicAlign i.lead.active i.slot.pc (exec c s)) ∧
      ∀ t, i.active ≠ 0 → canonical va = true → va.toNat % 8 = 0 →
        (s.core i.grp.core).leafOf i.grp.space va.toNat = some t →
        (∀ cause, s.classify t.size t.entry va.toNat .read = .fault cause →
          Traps s i.lead cause i.lead.active i.slot.pc (exec c s)) ∧
        ∀ pa st bc, s.classify t.size t.entry va.toNat .read = .ok pa st bc → inDram pa = false →
          Traps s i.lead .protection i.lead.active i.slot.pc (exec c s)) ∧
    ∀ pa, i.active ≠ 0 → CounterAllowed s i va pa →
      let p := s.readAt i.grp.core 4 pa 8 false
      let v := leNat p.2
      let bound := i.uni x.b
      let at0 := x.i32.getLsbD 1 = true ∧ i.scalar x.c = 0
      ((Instr.ccread x).wellFormed = true → Completes (exec (.ccread x) s) fun s' => ∃ g,
        i.Changes (if x.i32.getLsbD 0 = true then p.1.acquireAt i.grp.core 4 0 none else p.1) s' g ∧
        g = { i.moved with vregs := g.vregs, uregs := g.uregs } ∧
        (∀ n, g.ureg i.gid n = if x.d.uni = true ∧ n = x.d.n.toNat then BitVec.ofNat 64 v else i.grp.ureg i.gid n) ∧
        ∀ l n, n < 256 → g.vreg i.gid l n = if x.d.uni = false ∧ i.active.getLsbD l = true then
            (resultWord .n64 x.d.n.toNat v n).getD (i.grp.vreg i.gid l n)
          else i.grp.vreg i.gid l n) ∧
      (bound.toNat ≤ v ∨ at0 → v < 2 ^ 64 → Completes (exec (.ccwait x) s) fun s' => ∃ g,
        i.Changes (p.1.acquireAt i.grp.core (if x.i32.getLsbD 0 then 5 else 4) 0 none) s' g ∧
        g = { i.moved with uregs := g.uregs } ∧
        ∀ n, g.ureg i.gid n = if n = x.d.n.toNat then BitVec.ofNat 64 v else i.grp.ureg i.gid n) ∧
      (v < bound.toNat → ¬ at0 → v < 2 ^ 64 → Completes (exec (.ccwait x) s) fun s' => ∃ g s1, i.Changes s1 s' g ∧
        s1 = { p.1 with serial := s.serial + 1, watches := p.1.watches ++
          [{ ticket := s.serial, pa := pa, bound := bound, last := BitVec.ofNat 64 v, met := false }] } ∧
        g = i.placed g.front.entries ∧ ∀ q ∈ g.front.entries, q.mask = i.slot.mask → q.hold = .counter
          { ticket := s.serial, limit := if x.i32.getLsbD 1 then some (i.scalar x.c, s.time) else none,
            d := x.d.n.toNat, sys := x.i32.getLsbD 0, mask := i.slot.mask, expired := false })) ∧
  ∀ (gid lane : Nat) (s : State) (g : Group) (e : Entry) (w : CounterWait) (c t : Nat),
    s.groups.lookup gid = some g → (g.front.entries.find? fun q => q.mask.getLsbD lane) = some e → e.hold = .counter w →
    w.limit = some (c, t) → Completes (exec (.ccwaitTimeout gid lane) s) fun s' => ∃ h,
      (h.front.entries.find? fun q => q.mask.getLsbD lane) =
        some (if t + c ≤ s.time then { e with hold := .counter { w with expired := true } } else e) ∧
      s'.groups.lookup gid = some h

/-- An entry that holds a lane is held at a `ccwait` whose limit has passed (R338). -/
def overdue (time lane : Nat) (q : Entry) (v : CounterWait) : Prop :=
  q.mask.getLsbD lane = true ∧ q.hold = .counter v ∧ ∃ c t, v.limit = some (c, t) ∧ t + c ≤ time

/-- Of a frontier's entries exactly those are marked as over. -/
def MarkedOver (time lane : Nat) (es fs : List Entry) : Prop :=
  es.length = fs.length ∧ ∀ (n : Nat) (q : Entry), es[n]? = some q →
    (∀ v, overdue time lane q v → fs[n]? = some { q with hold := .counter { v with expired := true } }) ∧
    ((∀ v, ¬ overdue time lane q v) → fs[n]? = some q)

/-- When a limit has passed, the wait is over in the frontier, and in one that a trap has saved: the home atomic unit compares
nothing more for it, so that the value it ends with is the last one compared by then; every other wait and all else of the
machine is as before (R338). -/
def Sys2Proof.Claims.LimitsEndWaits : Prop :=
  ∀ (gid lane : Nat) (s : State) (g : Group), s.groups.lookup gid = some g →
    Completes (exec (.ccwaitTimeout gid lane) s) fun s' => ∃ h,
      s' = { s with groups := s'.groups, watches := s'.watches } ∧ s'.groups.lookup gid = some h ∧
      (∀ k, k ≠ gid → s'.groups.lookup k = s.groups.lookup k) ∧
      h = { g with front := { g.front with entries := h.front.entries }, trap := h.trap } ∧
      MarkedOver s.time lane g.front.entries h.front.entries ∧ (g.trap = none → h.trap = none) ∧
      (∀ t, g.trap = some t → ∃ u, h.trap = some u ∧ u = { t with front := { t.front with entries := u.front.entries } } ∧
        MarkedOver s.time lane t.front.entries u.front.entries) ∧
      s'.watches.length = s.watches.length ∧ ∀ (n : Nat) (x : Watch), s.watches[n]? = some x →
        let late := ∃ q v, (q ∈ g.front.entries ∨ ∃ t, g.trap = some t ∧ q ∈ t.front.entries) ∧
          overdue s.time lane q v ∧ v.ticket = x.ticket
        (late → s'.watches[n]? = some { x with met := true }) ∧ (¬ late → s'.watches[n]? = some x)

/-- The home atomic unit compares every value that a registered counter takes: after a write at a home a wait that was met
stays as it was, any other has the value now at its home as the last compared, and is met where that reaches its bound. Where
no wait's value had reached its bound before, a wait that a write within one line meets has the value now at its home as the
last compared. A wait that is met or whose limit has passed ends with the value last compared in its register and an acquire;
any other goes on (R338). -/
def Sys2Proof.Claims.CountersAreCompared : Prop :=
  (∀ (s : State) (pa : Nat) (bs : List Byte), bs ≠ [] → let t := s.l2Write pa bs
    SameWatches s t ∧ (∀ w ∈ s.watches, w.met = true → w ∈ t.watches) ∧
    ∀ w ∈ t.watches, w ∈ s.watches ∧ w.met = true ∨
      (w.met = true ∧ w.bound.toNat ≤ w.last.toNat) ∨
      (w.met = false ∧ w.last = BitVec.ofNat 64 (leNat (t.peek w.pa 8)) ∧ w.last.toNat < w.bound.toNat)) ∧
  (∀ (s : State) (pa : Nat) (bs : List Byte), bs ≠ [] → pa % 128 + bs.length ≤ 128 →
    (∀ w ∈ s.watches, inDram w.pa = true ∧ w.pa % 8 = 0 ∧
      (w.met = false → leNat (s.peek w.pa 8) < w.bound.toNat)) →
    let t := s.l2Write pa bs
    ∀ w ∈ t.watches, (w ∈ s.watches ∧ w.met = true) ∨ w.last = BitVec.ofNat 64 (leNat (t.peek w.pa 8))) ∧
  ∀ (s : State) (core gid : Nat) (g : Group) (e : Entry) (w : CounterWait) (x : Watch),
    s.groups.lookup gid = some g → e.hold = .counter w → (s.watches.find? fun y => y.ticket = w.ticket) = some x →
    (x.met = false ∧ w.expired = false → s.wake core gid e = s) ∧
    (x.met = true ∨ w.expired = true → ∃ s1 : State, s1 = { s with groups := s1.groups, watches := s1.watches } ∧
      (∀ y, y ∈ s1.watches ↔ y ∈ s.watches ∧ y.ticket ≠ w.ticket) ∧
      s1.groups.lookup gid = some ((g.setU w.d x.last).release e.mask) ∧
      (∀ k, k ≠ gid → s1.groups.lookup k = s.groups.lookup k) ∧
      s.wake core gid e = s1.acquireAt core (if w.sys then 5 else 4) 0 none)

/-- Setways, qfence and the completion counters: all of the statements just given. -/
def Obligations.WaitsAndCounters : Prop :=
  Sys2Proof.Claims.QueuesAreAwaited ∧ Sys2Proof.Claims.CountersAreRead ∧ Sys2Proof.Claims.LimitsEndWaits ∧
  Sys2Proof.Claims.CountersAreCompared

/-! ### Steps inside a core -/

/-- The starvation guard raises an entry passed over 32 times, after those raised before it; an instruction line asked for
arrives from its level-2 home, or nothing does where the line cannot be read; a group whose live lanes are all parked or in
member-mask waits that nothing can release traps with `REJOIN_STUCK`; a walk puts the leaf of its page in the core's translation
cache (R39, R40, R45, R109). The model's choices: that an instruction line is filled from its level-2 home, and that every other
line then stays in the cache (log 30), the port bit 0 (log 72), and which waits of a saved frontier count (log 79). -/
def Sys2Proof.Claims.CoresStepByThemselves : Prop :=
  (∀ (gid lane : Nat) (s : State) (g : Group) (e : Entry), s.groups.lookup gid = some g →
    (g.front.entries.find? fun q => q.mask.getLsbD lane) = some e → 32 ≤ e.passes → e.raised = none →
    Completes (exec (.entryRaised gid lane) s) fun s' => ∃ h, s' = { s with groups := s'.groups } ∧
      s'.groups.lookup gid = some h ∧ (∀ k, k ≠ gid → s'.groups.lookup k = s.groups.lookup k) ∧
      h = { g with raises := g.raises + 1, front := { g.front with entries := h.front.entries } } ∧
      (h.front.entries.find? fun q => q.mask.getLsbD lane) = some { e with raised := some g.raises }) ∧
  (∀ (core line space : Nat) (s : State) (t : Tlb) (pa : Nat) (st bc : Bool),
    ((s.core core).fetching.find? fun p => p.2 = line) = some (space, line) →
    canonical (BitVec.ofNat 64 (line * 128)) = true →
    (s.core core).leafOf space (BitVec.ofNat 64 (line * 128)).toNat = some t →
    s.classify t.size t.entry (BitVec.ofNat 64 (line * 128)).toNat .fetch = .ok pa st bc →
    (s.unreadable pa = true → exec (.icacheLineArrival core line) s = .next (s.onCore core fun c =>
      { c with fetching := c.fetching.filter fun p => p != (space, line) })) ∧
    (s.unreadable pa = false → Completes (exec (.icacheLineArrival core line) s) fun s' => ∃ s1, MemorySystem s s1 ∧
      s' = { s1 with cores := s'.cores } ∧ (∀ k, k ≠ core → s'.core k = s.core k) ∧
      s'.core core = { s.core core with icache := (s'.core core).icache, fetching := (s'.core core).fetching } ∧
      (space, line) ∉ (s'.core core).fetching ∧
      (∃ l ∈ (s'.core core).icache, l.space = space ∧ l.line = line ∧ l.data = (s.l2Read (pa / 128 * 128) 128).2) ∧
      ∀ l, (l.space ≠ space ∨ l.line ≠ line) → (l ∈ (s'.core core).icache ↔ l ∈ (s.core core).icache))) ∧
  (∀ (gid : Nat) (s : State) (g : Group), s.groups.lookup gid = some g → g.resident = true →
    (g.stuck = true → Completes (exec (.rejoinStuck gid) s) fun s' => ∃ t : Trap, s' = s.takeTrap gid t ∧
      t.cause = .rejoinStuck ∧ t.lanes = g.live ∧ t.addr = (g.stuckAt ((lanes g.live).headD 0)).1 ∧
      t.pc = (g.stuckAt ((lanes g.live).headD 0)).2 ∧ t.port = 0 ∧ t.resume = .stuck) ∧
    (g.stuck = false → exec (.rejoinStuck gid) s = .next s)) ∧
  ∀ (core space page : Nat) (s : State), page < 2 ^ 48 → canonical (BitVec.ofNat 64 (page * 65536)) = true →
    (s.core core).leafOf space (page * 65536) = none →
    (∀ root s1 size entry, s.foreman.spaces.lookup space = some root →
      walkFrom (page * 65536) levels s root = (s1, .leaf size entry) →
      Completes (exec (.translationWalk core space page) s) fun s' => MemorySystem s s' ∧
        ∃ t, (s'.core core).leafOf space (page * 65536) = some t ∧ t.entry = entry ∧ t.size = size) ∧
    (s.foreman.spaces.lookup space = none → exec (.translationWalk core space page) s = .next s)

/-- Only the head of a core's queue 4, a multiply, and a channel with a chain wait for the answer to a miss: what each step
of the engines keeps. -/
def ParksAtTheHead (c : Core) (ticket : Nat) : Prop :=
  (∀ o ∈ c.queue4.tail, ∀ va, o.parked ≠ some (ticket, va)) ∧
  (∀ o ∈ c.queue4.head?, ∀ va, o.parked = some (ticket, va) → ∃ m, o.work = .mma m) ∧
  ∀ p ∈ c.channels, ∀ va, p.2.parked = some (ticket, va) → p.2.heads ≠ []

/-- Nothing of the machine waits for the answer to a miss: no entry of a group, in its frontier or in one that a trap has
saved, no operation of an engine, no channel. -/
def NothingMisses (s : State) (ticket : Nat) : Prop :=
  (∀ k g, s.groups.lookup k = some g → (∀ q ∈ g.front.entries, q.misses ticket = false) ∧
    ∀ t, g.trap = some t → ∀ q ∈ t.front.entries, q.misses ticket = false) ∧
  ∀ n, (∀ o ∈ (s.core n).queue4, ∀ va, o.parked ≠ some (ticket, va)) ∧
    ∀ ch va, ((s.core n).channels.at ch Channel.initial).parked ≠ some (ticket, va)

/-- The host's answer to a miss. Retry: every entry and every engine that waited for it stands at its instruction again.
Fail: in every machine nothing waits for it any more, and where one entry of one group did, outside trap mode and with
nothing before it in flight, that group traps with `XLATE_FAULT`, the address, and the lanes that the entry parked for: those
whose translation missed (R108, R230). -/
def Sys2Proof.Claims.MissesAreAnswered : Prop :=
  ∀ (ticket : Nat) (s : State),
    (Completes (exec (.xlateRetry ticket) s) fun s' => s' = { s with groups := s'.groups, cores := s'.cores } ∧
      (∀ k g, s'.groups.lookup k = some g → ∀ q ∈ g.front.entries, q.misses ticket = false) ∧
      (∀ k g, s.groups.lookup k = some g → (∀ q ∈ g.front.entries, q.misses ticket = false) → g.trap = none →
        s'.groups.lookup k = some g) ∧
      ∀ p ∈ s'.cores, (∀ o ∈ p.2.queue4, ∀ va, o.parked ≠ some (ticket, va)) ∧
        ∀ c ∈ p.2.channels, ∀ va, c.2.parked ≠ some (ticket, va)) ∧
    ((∀ n, ParksAtTheHead (s.core n) ticket) →
      Completes (exec (.xlateFail ticket) s) fun s' => NothingMisses s' ticket) ∧
    ∀ k g e va m port entry, s.groups = [(k, g)] → g.front.entries = [e] → e.hold = .xlate ticket va m port → e.mask ≠ 0 →
      g.trap = none → g.trapEntry = some entry → g.flights = [] →
      (∀ p ∈ s.cores, p.2.matrix.latch = none ∧ (∀ o ∈ p.2.queue4, o.parked = none) ∧
        ∀ c ∈ p.2.channels, c.2.parked = none) →
      Completes (exec (.xlateFail ticket) s) fun s' => ∃ h, s'.groups.lookup k = some h ∧ h.tmask = m ∧
        h.taddr = va ∧ h.tcause.toNat % 256 = 3 ∧ h.tcause.toNat / 2 ^ 16 = e.pc.toNat % 2 ^ 48 ∧
        h.vregs = g.vregs ∧ h.uregs = g.uregs ∧ s'.mem = s.mem ∧
        ∀ l, l < 64 → h.front.at l = if g.live.getLsbD l then some (entry, 255) else none

/-- A group is stuck where it has a live lane, each one is parked or in a member-mask wait, no reply is outstanding, and no parked
lane and no wait can be released; where a lane is stuck: the rejoin address, or the instruction of its wait, and the instruction
that parked or holds it (R43, R45, R46). In trap mode no memory-side reply and no translation of the saved frontier may be
outstanding either; that its other waits do not count is the model's choice (log 79). -/
def Sys2Proof.Claims.StuckGroupsAreFound : Prop :=
  ∀ g : Group,
    (g.stuck = true ↔ g.live ≠ 0 ∧ g.front.entries = [] ∧ g.front.pool = [] ∧
      (g.front.parked ≠ [] ∨ g.front.waits ≠ []) ∧
      (∀ p ∈ g.front.parked, mayLeave g.width g.live g.front.parked p = false) ∧
      (∀ w ∈ g.front.waits, w.mask &&& g.live &&& ~~~w.arrived ≠ 0) ∧
      ∀ t, g.trap = some t → t.front.pool = [] ∧ ∀ q ∈ t.front.entries, ∀ n va m port, q.hold ≠ .xlate n va m port) ∧
    ∀ l, (∀ p, (g.front.parked.find? fun p => p.lane = l) = some p → g.stuckAt l = (p.rejoin, p.origin)) ∧
      ((∀ p ∈ g.front.parked, p.lane ≠ l) → ∀ w, (g.front.waits.find? fun w => w.arrived.getLsbD l) = some w →
        g.stuckAt l = (w.pc, w.pc))

/-- What a core does by itself, and how misses are answered: all of the statements just given. -/
def Obligations.CoresAndMisses : Prop :=
  Sys2Proof.Claims.CoresStepByThemselves ∧ Sys2Proof.Claims.StuckGroupsAreFound ∧ Sys2Proof.Claims.MissesAreAnswered

/-! ### Scheduling of clusters -/

/-- The launch at a queue's head, which a saved cluster of its grid may stand for, is raised once it has waited 64 ms; from
when its wait counts where a saved cluster comes before it is the model's choice (log 67). The launch engine places the next
cluster of the launch it serves: a cluster on a rectangle of in-service columns, one team for each with the groups that the
launch asks for, every lane of every group at the kernel's entry with priority 128, its parameters in the group's status,
its registers zero on a core that no team has used; or it brings back the saved cluster it serves, unless an area has lost
its header (R28, R31 to R34, R56, R57, R61, R66, R354). -/
def Obligations.ClustersAndHeads : Prop :=
  (∀ (q : Nat) (s : State),
    (∀ i rest g, (s.queue q).items = i :: rest →
      (i = .launch g ∨ ∃ k c, i = .saved k ∧ s.clusters.lookup k = some c ∧ c.grid = g) →
      ((s.queue q).since + 6400000 ≤ s.time → Completes (exec (.launchRaised q) s) fun s' =>
        (g ∉ (s.queue q).raised →
          s' = { s with queues := s.queues.put q { s.queue q with raised := (s.queue q).raised ++ [g] } }) ∧
        (g ∈ (s.queue q).raised → s' = s) ∧ ∀ gr, s.grids.lookup g = some gr → s'.headPrio q = some (i, 3)) ∧
      (s.time < (s.queue q).since + 6400000 → exec (.launchRaised q) s = .next s)) ∧
    ((s.queue q).items = [] → exec (.launchRaised q) s = .next s)) ∧
  (∀ (corner : Nat) (s : State), s.serve = none →
    exec (.clusterPlacement corner) s = .next s ∧ exec (.clusterResume corner) s = .next s) ∧
  (∀ (corner : Nat) (s : State) (q p g : Nat) (gr : Grid), s.serve = some (q, p, .launch g) →
    s.grids.lookup g = some gr → FreshSerials s → Completes (exec (.clusterPlacement corner) s) fun s' =>
      s'.grids.lookup g = some { gr with next := gr.next + 1 } ∧
      (∃ k, s'.clusters.lookup s.serial = some k ∧ k.grid = g ∧ k.index = gr.next ∧ k.resident = true ∧
        k.teams.length = gr.rows * gr.cols ∧ k.since = s.time ∧ k.corner ∈ s.itemCorners (.launch g) ∧
        (corner ∈ s.itemCorners (.launch g) → k.corner = corner) ∧
        ∀ j t, k.teams[j]? = some t → ∃ m, s'.teams.lookup t = some m ∧ m.cluster = s.serial ∧ m.index = j ∧
          m.core = k.corner + j / gr.cols * 12 + j % gr.cols ∧ m.size = gr.scratch ∧ m.scratch = [] ∧ m.saved = none ∧
          (s'.groups.filter fun p => p.2.team = t).length = gr.groups ∧
          ∀ n, n < gr.groups → ∃ b h, s'.groups.lookup b = some h ∧ h.team = t ∧ h.index = n) ∧
      (∀ k h, s'.groups.lookup k = some h → k < s.serial ∨
        (h.cluster = s.serial ∧ h.grid = g ∧ h.resident = true ∧ h.live = lanesBelow gr.width ∧ h.trap = none ∧
          h.index < gr.groups ∧ h.width = gr.width ∧ h.count = gr.count ∧ h.space = gr.space ∧ h.gridId = gr.id ∧
          h.clus = BitVec.ofNat 32 gr.next ∧ h.args = gr.args ∧ h.plimit = gr.plimit ∧ h.trapEntry = gr.trapEntry ∧
          (∃ m, s'.teams.lookup h.team = some m ∧ h.teamIndex = m.index ∧ h.core = m.core) ∧
          h.pbase = gr.pbase + BitVec.ofNat 64 (((gr.next * (gr.rows * gr.cols) + h.teamIndex) * gr.groups + h.index) *
            gr.plimit.toNat * gr.width * 4) ∧
          h.rep = 0 ∧ h.tmask = 0 ∧ h.tcause = 0 ∧ h.taddr = 0 ∧ h.triggered = false ∧ h.flights = [] ∧
          ((s.core h.core).reused = false → ∀ n, (∀ l, h.vreg k l n = 0) ∧ h.ureg k n = 0 ∧ h.pred k n = 0) ∧
          ∀ l, l < 64 → h.front.at l = if l < gr.width then some (gr.entryPc, 128) else none)) ∧
      ∀ k, k < s.serial → s'.groups.lookup k = s.groups.lookup k) ∧
  ∀ (corner : Nat) (s : State) (q p k : Nat) (c : Cluster) (gr : Grid), s.serve = some (q, p, .saved k) →
    s.clusters.lookup k = some c → s.grids.lookup c.grid = some gr →
    (∀ t ∈ c.teams, ∃ m v, s.teams.lookup t = some m ∧ m.saved = some v ∧ s.areaIntact v = true) →
    c.teams.length = gr.rows * gr.cols → Completes (exec (.clusterResume corner) s) fun s' =>
      ∃ at', at' ∈ s.itemCorners (.saved k) ∧
        s'.clusters.lookup k =
          some { c with resident := true, corner := at', since := s.time, arrived := s.time } ∧
        ∀ t ∈ c.teams, ∃ m, s'.teams.lookup t = some m ∧ m.saved = none

/-- The end of a quantum: a cluster whose quantum has run out, the one of lowest priority first, is saved where work of at
least its priority waits, and begins a new quantum otherwise; a cluster whose groups all wait in `waitdep` makes room for
one that waits. A save frees the cores: its teams keep their state apart, and no group of it is resident; a frozen cluster
whose save had to wait goes on with it (R60 to R62). The model's choices: what waits is the heads of the queues (log 70), a
group waits in `waitdep` when all its live lanes do (log 71), a cluster for whose save the pool has no room begins a new
quantum (log 69), a changed quantum counts at once (log 99), and of the saved clusters of one launch the one saved first resumes
first (log 98). -/
def Obligations.QuantaEnd : Prop :=
  (∀ (s : State) (k : Nat) (c : Cluster), s.clusters.lookup k = some c → c.frozen.isSome = true →
    exec (.quantumEnd k) s = .next (s.saveCluster k) ∧ exec (.waitdepEviction k) s = .next (s.saveCluster k) ∧
    ((∃ t ∈ c.teams, ∃ m, s.teams.lookup t = some m ∧ s.mustWait t m = true) → s.saveCluster k = s)) ∧
  ∀ (s : State) (k : Nat) (c : Cluster), s.clusters.lookup k = some c → c.frozen = none →
    (s.expired c = false → exec (.quantumEnd k) s = .next s) ∧
    ((∃ p ∈ s.clusters, p.1 ≠ k ∧ s.expired p.2 = true ∧ s.prioOf p.2 < s.prioOf c) →
      exec (.quantumEnd k) s = .next s) ∧
    (s.expired c = true → (∀ p ∈ s.clusters, s.expired p.2 = true →
        s.prioOf c < s.prioOf p.2 ∨ (s.prioOf c = s.prioOf p.2 ∧ c.arrived ≤ p.2.arrived)) →
      (s.mustLeave k = false → s.remapDue = false → s.crowded (s.prioOf c) = false →
        Completes (exec (.quantumEnd k) s) fun s' => s' = { s with clusters := s'.clusters } ∧
          s'.clusters.lookup k = some { c with since := s.time } ∧
          ∀ j, j ≠ k → s'.clusters.lookup j = s.clusters.lookup j) ∧
      (s.mustLeave k = false → s.remapDue = true ∨ s.crowded (s.prioOf c) = true →
        exec (.quantumEnd k) s = .next (s.freeze k false))) ∧
    (s.mayEvict k c = true → exec (.waitdepEviction k) s = .next (s.freeze k true)) ∧
    (s.mayEvict k c = false → exec (.waitdepEviction k) s = .next s) ∧
    ∀ head gr, s.grids.lookup c.grid = some gr →
      (∀ t ∈ c.teams, ∃ m, s.teams.lookup t = some m ∧ s.mustWait t m = false) →
      (s.foreman.savePool = none → c.teams ≠ [] → Completes (.next (s.freeze k head) : Result) fun s' =>
        s' = { s with clusters := s'.clusters } ∧ s'.clusters.lookup k = some { c with since := s.time }) ∧
      (∀ base size, s.foreman.savePool = some (base, size) → s.areas = [] →
        (c.teams.map fun t => areaSize t true).sum ≤ size → c.teams.Nodup →
        (∀ a, s.unreadable a = false) → s.flaws = [] → c.teams ≠ [] →
        ((s.freeze k head).clusters.lookup k).map (fun d => (d.resident, d.frozen)) = some (false, none) ∧
        (∀ t ∈ c.teams, ∃ m, (s.freeze k head).teams.lookup t = some m ∧ m.saved.isSome = true) ∧
        ∀ p ∈ (s.freeze k head).groups, p.2.team ∈ c.teams → p.2.resident = false) ∧
      ∀ base size, s.foreman.savePool = some (base, size) → s.areas = [] →
        (c.teams.map fun t => areaSize t true).sum ≤ size →
        (∃ t ∈ c.teams, ∃ m, s.teams.lookup t = some m ∧ s.teamBad t m = true) →
        s.freeze k head = (((s.onCluster k fun d => { d with frozen := some (s.time, head) }).onGrid c.grid fun g =>
          { g with failed := true }).discard k).endGrid c.grid

/-- Reasons 1 to 4 of R52, the lowest that holds; 0 for none. Reason 1: a reserved byte or bit. Reason 2: the code object is not
resident, the entry index is out of its table, or the address space of a host's message is not registered. Reason 3: a shape field
out of range, an alignment broken, or a difference from the entry record. Reason 4: one team's registers exceed 512 KiB. Of a
kernel's message the address space is not looked at (R51, R52, R55, R212). -/
def Sys2Proof.Claims.ReasonsAreFound : Prop :=
  ∀ (s : State) (bs : List Byte) (kernel : Bool),
    let n (lo k : Nat) : Nat := leNat ((bs.drop lo).take k)
    let reserved := n 1 3 ≠ 0 ∨ n 14 1 / 4 ≠ 0 ∨ n 15 1 / 64 ≠ 0 ∨ n 22 1 / 4 ≠ 0 ∨ n 24 1 / 8 ≠ 0 ∨ n 26 6 ≠ 0 ∨ n 38 2 ≠ 0 ∨
      n 96 32 ≠ 0 ∨ (kernel = false ∧ n 36 2 / 4096 ≠ 0)
    let entry := (s.foreman.objects.lookup (n 8 4)).bind fun o => o.entries[n 12 2]?
    let absent := entry = none ∨ (kernel = false ∧ s.foreman.spaces.lookup (n 36 2) = none)
    let rows := n 20 1 % 16
    let cols := n 20 1 / 16
    let width := 8 * 2 ^ (n 22 1)
    let broken (record : List Byte) : Prop :=
      let m (lo k : Nat) : Nat := leNat ((record.drop lo).take k)
      n 16 4 = 0 ∨ rows < 1 ∨ 8 < rows ∨ cols < 1 ∨ 12 < cols ∨ 12 < rows * cols ∨ n 21 1 < 1 ∨ 32 < n 21 1 ∨
      n 23 1 < 1 ∨ 32 < n 23 1 ∨ 8 < n 25 1 ∨ n 40 8 % 256 ≠ 0 ∨ n 56 8 % 16 ≠ 0 ∨
      width ≠ m 4 1 ∨ n 23 1 ≠ m 5 1 ∨ n 24 1 % 8 ≠ m 6 1 % 8 ∨ n 32 4 < m 8 4
    (reserved → s.refusal bs kernel = 1) ∧
    (¬ reserved → absent → s.refusal bs kernel = 2) ∧
    ∀ e, ¬ reserved → ¬ absent → entry = some e →
      (broken e.2 → s.refusal bs kernel = 3) ∧
      (¬ broken e.2 → s.refusal bs kernel = if 524288 < n 21 1 * width * (8 * n 23 1) * 4 then 4 else 0)

/-- Reason 6 of R52: no rectangle of the shape lies among the columns in service of one compute stack (R10, R28, R52). -/
def Sys2Proof.Claims.ShapesAreFound : Prop :=
  ∀ (s : State) (rows cols : Nat), 1 ≤ rows → 1 ≤ cols → (s.shapeExists rows cols = true ↔
    ∃ stack row col, stack < 4 ∧ row + rows ≤ 8 ∧ col + cols ≤ 12 ∧
      ∀ r < rows, ∀ c < cols, 96 * stack + 12 * (row + r) + (col + c) ∉ s.columnsOut)

/-- An address that no core translates goes through the tables of its space as one of a core does, without a translation cache
(R53, R65, R104, R106, R107); how it ends where the space has no root, or a table cannot be read, is told apart but counts alike
(log 90). -/
def Sys2Proof.Claims.BareAddressesAreWalked : Prop :=
  ∀ (s : State) (space : Nat) (va : DWord) (acc : Access),
    (canonical va = false → s.translateBare space va acc = (s, .fault .xlateFault)) ∧
    (canonical va = true → s.foreman.spaces.lookup space = none → s.translateBare space va acc = (s, .miss)) ∧
    ∀ (root k : Nat) (S : Nat → State) (T E : Nat → Nat), k < 4 → canonical va = true →
      s.foreman.spaces.lookup space = some root → Claims.Descent s va.toNat root k S T E →
      let a := Claims.placeInTable va.toNat k (T k)
      let res := s.translateBare space va acc
      ((S k).unreadable a = true → res = (S k, .fault .eccFatal)) ∧
      ((S k).unreadable a = false → ∀ s1 bs, (S k).l2Read a 8 = (s1, bs) →
        let e := leNat bs
        (Claims.MalformedAt k e → res = (s1, .fault .xlateFault)) ∧
        (¬ Claims.MalformedAt k e → e.testBit 0 = false → res = (s1, .miss)) ∧
        (¬ Claims.MalformedAt k e → e.testBit 0 = true → Claims.EndsWalk k e →
          res = (s1, s1.classify (Claims.shiftAt k) e va.toNat acc)))

/-- The completion record: none at address 0; where the address does not translate for a write, or is the host's while the link is
down, the status word and the identifier are reported instead; otherwise, after a release at `.sys`, the status word, the
identifier and the time stand there (R53, R345). A grid that ends, every cluster placed and none left, writes 1, or 2 with its
reason where it has failed. The model's choices: which other addresses count as not translated (log 90), and where the bytes go
that lie behind the end of a page (log 100). -/
def Sys2Proof.Claims.CompletionRecords : Prop :=
  (∀ (s : State) (space : Nat) (va : DWord) (status reason : Nat) (id : BitVec 32),
    let c := s.complete space va status reason id
    let word := status + 2 ^ 8 * reason
    (va = 0 → c = s) ∧
    (va ≠ 0 → ∀ s1 x, s.translateBare space va .write = (s1, x) →
      ((∀ pa st bc, x ≠ .ok pa st bc) → c = { s1 with outbox := s1.outbox ++ [.notWritten word id] }) ∧
      ∀ pa st bc, x = .ok pa st bc →
        let host := 0x800000000000 ≤ pa ∧ pa < 0x1000000000000
        let bs := leBytes 4 word ++ leBytes 4 id.toNat ++ leBytes 8 s.time
        (host → s1.link.up = false → c = { s1 with outbox := s1.outbox ++ [.notWritten word id] }) ∧
        (¬ host ∨ s1.link.up = true → pa % 128 ≤ 112 → ∃ s2 : State, MemorySystem s1 s2 ∧
          (s1.link.up = true → ∀ n, ∀ p ∈ dirtyLines (s2.slice n).supers, inHost p.1 = false) ∧
          (s1.link.up = false → s2 = s1) ∧
          (¬ host → c = s2.l2Write pa bs) ∧
          (host → MemorySystem s2 c ∧ (∀ k < 16, some (c.mem.read (pa + k)) = bs[k]?) ∧
            findLine (c.slice (c.home pa)).supers pa = none)))) ∧
  ∀ (s : State) (gr : Nat) (g : Grid), s.grids.lookup gr = some g →
    (g.next = g.clusters → (∀ k ∈ s.clusters, k.2.grid ≠ gr) →
      let c := s.complete g.space g.completion (if g.failed then 2 else 1) (if g.failed then g.reason else 0) g.id
      s.endGrid gr = { c with grids := (s.endGrid gr).grids } ∧ (s.endGrid gr).grids.lookup gr = none ∧
        ∀ k, k ≠ gr → (s.endGrid gr).grids.lookup k = c.grids.lookup k) ∧
    (g.next ≠ g.clusters ∨ (∃ k ∈ s.clusters, k.2.grid = gr) → s.endGrid gr = s)

/-- Messages of the launch channel, a launch or a cancel: none is taken while the link is down or before `READY`; a message
of another kind, and a cancel with another byte set, is refused with reason 1; a launch that the reasons of R52 refuse is reported
with its reason, after its completion record with status 4 at its own address; one that passes waits at the tail of its queue
under its identifier, while that has room; a cancel ends the grid it names, with a record of status 3 (R51 to R54). The model's
choices: that a message to a full queue stays at the host (log 45), and that a launch is refused with reason 0 while both slices
of a pair are out (log 20). -/
def Sys2Proof.Claims.LaunchMessagesAreTaken : Prop :=
  ∀ (bs : List Byte) (s : State) (ev : Instr), ev = .launchMessage bs ∨ ev = .cancelMessage bs →
    let rejected (reason : Nat) : Prop :=
      let c := s.complete (field bs 36 2 % 4096) (BitVec.ofNat 64 (field bs 56 8)) 4 reason (BitVec.ofNat 32 (messageId bs))
      exec ev s = .next { c with outbox := c.outbox ++ [.rejected (bs.take 8) reason] }
    (s.ready = false ∨ s.link.up = false → exec ev s = .next s) ∧
    (s.ready = true → s.link.up = true →
      (messageKind bs ≠ 1 → messageKind bs ≠ 2 →
        exec ev s = .next { s with outbox := s.outbox ++ [.rejected (bs.take 8) 1] }) ∧
      (messageKind bs = 1 → s.refusal bs false ≠ 0 → rejected (s.refusal bs false)) ∧
      (messageKind bs = 1 → s.refusal bs false = 0 → s.pairOut = false →
        2 ^ 31 ≤ messageId bs ∨ (∃ p ∈ s.grids, p.2.id.toNat = messageId bs) → rejected 5) ∧
      (messageKind bs = 1 → s.refusal bs false = 0 → s.pairOut = true → rejected 0) ∧
      (messageKind bs = 1 → s.refusal bs false = 0 → s.pairOut = false → messageId bs < 2 ^ 31 →
        (∀ p ∈ s.grids, p.2.id.toNat ≠ messageId bs) →
        s.shapeExists (field bs 20 1 % 16) (field bs 20 1 / 16) = false → rejected 6) ∧
      (messageKind bs = 1 → s.refusal bs false = 0 → s.pairOut = false → messageId bs < 2 ^ 31 →
        (∀ p ∈ s.grids, p.2.id.toNat ≠ messageId bs) →
        s.shapeExists (field bs 20 1 % 16) (field bs 20 1 / 16) = true →
        (256 ≤ s.waiting (messageQueue bs) → exec ev s = .next s) ∧
        (s.waiting (messageQueue bs) < 256 → Completes (exec ev s) fun s' => ∃ gr,
          s' = { s with grids := s'.grids, queues := s'.queues, serial := s.serial + 1 } ∧
          s'.grids.lookup s.serial = some gr ∧ gr.id.toNat = messageId bs ∧ gr.kernel = false ∧
          gr.prio = field bs 14 1 ∧ gr.space = field bs 36 2 ∧ gr.next = 0 ∧
          (∀ k, k ≠ s.serial → s'.grids.lookup k = s.grids.lookup k) ∧
          (s'.queue (messageQueue bs)).items = (s.queue (messageQueue bs)).items ++ [.launch s.serial])) ∧
      (messageKind bs = 2 → nonZero bs 1 3 = true ∨ nonZero bs 8 120 = true →
        exec ev s = .next { s with outbox := s.outbox ++ [.rejected (bs.take 8) 1] }) ∧
      (messageKind bs = 2 → nonZero bs 1 3 = false → nonZero bs 8 120 = false →
        ((∀ p ∈ s.grids, p.2.id.toNat ≠ messageId bs) → exec ev s = .next s) ∧
        ∀ gr, s.gridOf (messageId bs) = some gr → Completes (exec ev s) fun s' =>
          s' = s.cancel gr ∧ s'.grids.lookup gr = none ∧ (∀ p ∈ s'.clusters, p.2.grid ≠ gr) ∧
          (∀ k, Item.launch gr ∉ (s'.queue k).items) ∧
          ∀ g, s.grids.lookup gr = some g → ∃ t : State, s' = t.complete g.space g.completion 3 0 g.id))

/-- Launch messages are checked, taken or refused, and completion records are written: all of the statements just given. -/
def Obligations.MessagesAreTaken : Prop :=
  Sys2Proof.Claims.ReasonsAreFound ∧ Sys2Proof.Claims.ShapesAreFound ∧ Sys2Proof.Claims.BareAddressesAreWalked ∧
  Sys2Proof.Claims.CompletionRecords ∧ Sys2Proof.Claims.LaunchMessagesAreTaken

/-! ### The foreman and the host -/

/-- Requests that configure the device: each is served where its condition holds and has no effect otherwise. Address
spaces are registered with a root table below 2^48 that is 4 KiB aligned and neither reserved nor flash; a quantum has 250
to 64,000 µs; the interleave modes and the staging region are set at stage 0, in whole sets and apart from each other;
one save pool lies in main DRAM below the staging region; runs of extents are locked, and each lock is lifted by unlocking
its own run (R22, R61, R65, R105, R174, R179, R343, R355). The model's choices: the codes of the answers (log 19), when the
boot configuration and the save pool are taken (log 21), the size of a maximal save (log 14), and that only the run of a
lock lifts it (log 75). -/
def Sys2Proof.Claims.RequestsAreServed : Prop :=
  ∀ s : State,
    let put (space : Nat) (root : DWord) : State :=
      { s with foreman := { s.foreman with spaces := s.foreman.spaces.put space root.toNat } }
    let rootOk (space : Nat) (root : DWord) : Prop :=
      space < 4096 ∧ s.foreman.spaces.lookup space = none ∧ root.toNat % 4096 = 0 ∧ root.toNat < 2 ^ 48 ∧
        s.reserved root.toNat = false ∧ inFlash root.toNat = false
    let fl (f : Nat) : Flash := s.flash.at f Flash.initial
    (∀ space root, space ≠ 0 ∨ s.foreman.stage ≠ 0 →
      Served s (.registerAddressSpace space root) (rootOk space root) (put space root)) ∧
    (∀ root, s.foreman.stage = 0 → ServedAtBoot s (.registerAddressSpace 0 root) (rootOk 0 root) (put 0 root)) ∧
    (∀ queue micros, Served s (.setQuantum queue micros) (queue < 64 ∧ 250 ≤ micros ∧ micros ≤ 64000)
      { s with queues := s.queues.put queue { s.queues.at queue Queue.initial with quantum := micros } }) ∧
    (∀ base size, s.halted = true ∨ s.link.up = false → exec (.setSavePool base size) s = .next s) ∧
    (∀ base size, s.halted = false → s.link.up = true →
      (s.foreman.savePool = none ∧ inDram base = true ∧ base + size ≤ (384 - s.stagingGib) * 2 ^ 30 ∧
        384 * Config.maximalSave ≤ size →
      exec (.setSavePool base size) s = .next { s with
        foreman := { s.foreman with savePool := some (base, size) }, outbox := s.outbox ++ [.answer 0 []] }) ∧
      (s.foreman.savePool ≠ none ∨ inDram base = false ∨ (384 - s.stagingGib) * 2 ^ 30 < base + size ∨
        size < 384 * Config.maximalSave →
      exec (.setSavePool base size) s = .next { s with outbox := s.outbox ++ [.answer 1 []] })) ∧
    (∀ modes : List Bool, ServedAtBoot s (.setInterleaveModes modes)
      (modes.length = 384 ∧ (∀ r < 384, modes.getD r false = modes.getD (32 * (r / 32)) false) ∧
        ∀ r < 384, 384 - s.stagingGib ≤ r → modes.getD r false = false)
      { s with modes := (List.range 12).map fun k => modes.getD (32 * k) false }) ∧
    (∀ gib, ServedAtBoot s (.setStagingRegion gib)
      (16 ≤ gib ∧ gib ≤ 128 ∧ ∀ r < 384, 384 - gib ≤ r → s.modes.getD (r / 32) false = false)
      { s with stagingGib := gib, staging := [] }) ∧
    (∀ first count, Served s (.lockExtents first count) (first / 2 ^ 19 < 4 ∧ first % 2 ^ 19 + count ≤ 2 ^ 19)
      { s with flash := s.flash.put (first / 2 ^ 19) { fl (first / 2 ^ 19) with
        locked := (first % 2 ^ 19, count) ::
          (fl (first / 2 ^ 19)).locked.filter fun r => r != (first % 2 ^ 19, count) } }) ∧
    (∀ first count, Served s (.unlockExtents first count) (first / 2 ^ 19 < 4)
      { s with flash := s.flash.put (first / 2 ^ 19) { fl (first / 2 ^ 19) with
        locked := (fl (first / 2 ^ 19)).locked.filter fun r => r != (first % 2 ^ 19, count) } }) ∧
    ∀ (f : Flash) (e : Nat), f.isLocked e = true ↔ ∃ r ∈ f.locked, r.1 ≤ e ∧ e < r.1 + r.2

/-- Peers, send queues and receive windows are registered; a peer has a key, one of the eight ports and the choice of how
its congestion is controlled, and its congestion objects are a maximum over 64 round-trip times and a sum over 256 marks
(R346, R347, R349, R351). The layouts of the requests (log 25), the codes of the answers (log 19) and the places of the two
objects (log 24) are the model's choices. -/
def Sys2Proof.Claims.EndpointsAreRegistered : Prop :=
  ∀ s : State,
    (∀ (bs : List Byte),
      let space := field bs 2 2
      let at' (k : Nat) : DWord := BitVec.ofNat 64 (field bs k 8)
      Served s (.registerSendQueue bs)
        (field bs 0 1 < 64 ∧ s.transport.queues.lookup (field bs 0 1) = none ∧ s.foreman.spaces.lookup space ≠ none ∧
          s.pagesOf space (at' 8) 16384 .write ≠ none ∧ s.wordAt space (at' 16) ≠ none ∧ s.wordAt space (at' 24) ≠ none)
        (let q : SendQueue :=
          { slots := at' 8, post := at' 16, done := at' 24, space := space, taken := 0, sending := [] }
        { s with transport := { s.transport with queues := s.transport.queues.put (field bs 0 1) q } }) ∧
      Served s (.registerReceiveWindow bs)
        (s.transport.windows.lookup (field bs 0 1) = none ∧ s.foreman.spaces.lookup space ≠ none ∧ field bs 16 8 ≠ 0 ∧
          s.pagesOf space (at' 8) (field bs 16 8) .write ≠ none ∧ s.wordAt space (at' 24) ≠ none)
        (let w : RecvWindow := { base := at' 8, length := field bs 16 8, space := space, counter := at' 24 }
        { s with transport := { s.transport with windows := s.transport.windows.put (field bs 0 1) w } })) ∧
    ∀ (peer port : Nat) (key : List Byte) (credit : Bool) (objects : List Nat),
      let ev := Instr.configurePeerTable peer key { port := port, credit := credit } objects
      let a := objects.getD 0 0
      let b := objects.getD 1 0
      let ok := s.ready = true ∧ s.link.up = true
      (¬ ok → exec ev s = .next s) ∧
      (ok → 65536 ≤ peer ∨ 8 ≤ port → exec ev s = .next { s with outbox := s.outbox ++ [.answer 1 []] }) ∧
      (∀ p, ok → peer < 65536 → port < 8 → s.transport.peers.lookup peer = some p → exec ev s = .next { s with
        transport := { s.transport with
          peers := s.transport.peers.put peer { p with key := key, port := port, credit := credit } },
        outbox := s.outbox ++ [.answer 0 (leBytes 8 p.roundTrip ++ leBytes 8 p.marks)] }) ∧
      (∀ t, ok → peer < 65536 → port < 8 → s.transport.peers.lookup peer = none → s.peerObjects a b = some t →
        Completes (exec ev s) fun s' => s'.transport.peers.lookup peer =
            some { key := key, port := port, credit := credit, roundTrip := a, marks := b } ∧
          (∃ v w, s'.windows.lookup a = some v ∧ s'.windows.lookup b = some w ∧ v.width = 64 ∧ v.op = 1 ∧ v.ty = 1 ∧
            w.width = 256 ∧ w.op = 0 ∧ w.ty = 1 ∧ v.foreman = true ∧ w.foreman = true ∧ v.count = 0 ∧ w.count = 0) ∧
          s'.groups = s.groups) ∧
      (ok → peer < 65536 → port < 8 → s.transport.peers.lookup peer = none → s.peerObjects a b = none →
        exec ev s = .next { s with outbox := s.outbox ++ [.answer 1 []] })

/-- The foreman serves requests and registers endpoints: all of the statements just given. -/
def Obligations.RequestsAndEndpoints : Prop :=
  Sys2Proof.Claims.RequestsAreServed ∧ Sys2Proof.Claims.EndpointsAreRegistered

/-- An address space is released where no live grid runs in it: its root, its translations in every core and its window
objects are gone; every other space keeps its own (R105, R184; the codes of the answers are the model's choice, log 19). -/
def Sys2Proof.Claims.SpacesAreReleased : Prop :=
  ∀ (s : State) (space : Nat),
    (s.ready = false ∨ s.link.up = false → exec (.releaseAddressSpace space) s = .next s) ∧
    (s.ready = true → s.link.up = true → s.foreman.spaces.lookup space = none ∨ (∃ p ∈ s.grids, p.2.space = space) →
      exec (.releaseAddressSpace space) s = .next { s with outbox := s.outbox ++ [.answer 1 []] }) ∧
    (s.ready = true → s.link.up = true → s.foreman.spaces.lookup space ≠ none → (∀ p ∈ s.grids, p.2.space ≠ space) →
      Completes (exec (.releaseAddressSpace space) s) fun s' => s'.outbox = s.outbox ++ [.answer 0 []] ∧
        s'.foreman = { s.foreman with spaces := s'.foreman.spaces } ∧
        (∀ k, s'.foreman.spaces.lookup k = if k = space then none else s.foreman.spaces.lookup k) ∧
        (∀ k t, t ∈ (s'.core k).tlb ↔ t ∈ (s.core k).tlb ∧ t.space ≠ space) ∧
        (∀ k, s'.core k = { s.core k with tlb := (s'.core k).tlb }) ∧
        (∀ p w, (p, w) ∈ s'.windows ↔ (p, w) ∈ s.windows ∧ ¬ ∃ v, (p, v) ∈ s.windows ∧ v.space = space ∧ v.foreman = false) ∧
        s'.groups = s.groups ∧ s'.mem = s.mem)

/-- Records that the host reads and writes while the link is up: bit 2 of the status word is cleared by a 1; a prediction is
all ones for a column with fewer than 24 reports of 30 days, as which the model reads R358's 24 hours of reports (log 60); a drift report joins them; the wall clock is kept with its tick
once `READY` is set; an attestation record is read back; an object that no live grid names is unloaded (R183, R217, R343,
R354, R355, R358). The model's choices: the codes of the answers and the layout of the record (log 19), its signature
(log 12) and what a prediction is otherwise (log 13). -/
def Sys2Proof.Claims.RecordsAreKept : Prop :=
  ∀ s : State,
    (s.link.up = false → ∀ ev, (∃ v, ev = .clearOutOfServiceFlag v) ∨ (∃ u, ev = .readEndOfLife u) ∨
      (∃ t, ev = .wallClock t) ∨ (∃ o, ev = .readAttestation o) → exec ev s = .next s) ∧
    (s.link.up = true → ∀ v, exec (.clearOutOfServiceFlag v) s = .next (if v / 4 % 2 = 1 then
      { s with foreman := { s.foreman with outFlag := false } } else s)) ∧
    (s.link.up = true → ∀ n < 384, (s.foreman.drift.countP fun d => d.1 = n ∧ s.time < d.2.1 + 30 * 86400 * 100000000) < 24 →
      exec (.readEndOfLife (.column n)) s = .next { s with outbox := s.outbox ++ [.answer 0 (List.replicate 8 0xFF)] }) ∧
    (s.link.up = true → ∀ u, Completes (exec (.readEndOfLife u) s) fun s' =>
      ∃ code bytes, s' = { s with outbox := s.outbox ++ [.answer code bytes] } ∧ bytes.length = (1 - code) * 8 ∧
        (code = 0 ↔ (∃ n < 384, u = .column n) ∨ ∃ f < 4, u = .flashStack f)) ∧
    (∀ n d, Completes (exec (.driftReport n d) s) fun s' =>
      s' = { s with foreman := { s.foreman with drift := s'.foreman.drift } } ∧
      ∀ e, e ∈ s'.foreman.drift ↔ e = (n, s.time, d) ∨
        (e ∈ s.foreman.drift ∧ s.time < e.2.1 + 30 * 86400 * 100000000)) ∧
    (∀ t, (s.ready = false → exec (.wallClock t) s = .next s) ∧ (s.ready = true → s.link.up = true →
      exec (.wallClock t) s = .next { s with foreman := { s.foreman with wallClock := some (t, s.time) } })) ∧
    (s.ready = false → ∀ id, exec (.readAttestation id) s = .next s) ∧
    (s.ready = true → s.link.up = true → ∀ id, (∀ o, s.foreman.records.lookup id = some o →
        exec (.readAttestation id) s = .next { s with outbox := s.outbox ++ [.answer 0 (recordBytes id o)] }) ∧
      (s.foreman.records.lookup id = none →
        exec (.readAttestation id) s = .next { s with outbox := s.outbox ++ [.answer 1 []] })) ∧
    ∀ id, Served s (.unloadCodeObject id)
      (s.foreman.objects.lookup id ≠ none ∧ ∀ p ∈ s.grids, p.2.object ≠ id)
      { s with foreman := { s.foreman with objects := s.foreman.objects.drop id } }

/-- Records are kept and spaces released: all of the statements just given. -/
def Obligations.RecordsAndSpaces : Prop :=
  Sys2Proof.Claims.SpacesAreReleased ∧ Sys2Proof.Claims.RecordsAreKept

/-- The first field of a list that does not hold what it must, by its offset; every field holds it. -/
def Sys2Proof.Claims.FirstBad (fs : List (Nat × Prop)) (o : Nat) : Prop :=
  ∃ (k : Nat) (p : Prop), fs[k]? = some (o, p) ∧ ¬ p ∧ ∀ j < k, ∀ q : Nat × Prop, fs[j]? = some q → q.2
def Sys2Proof.Claims.AllGood (fs : List (Nat × Prop)) : Prop := ∀ q ∈ fs, q.2

/-- The header (R209): each field, by its offset, with what it must hold. -/
def Sys2Proof.Claims.headerRules (f : List Byte) : List (Nat × Prop) :=
  let count := field f 12 2
  let table := field f 16 8
  [(0, field f 0 4 = 0x004F584C), (4, field f 4 2 = 1), (6, field f 6 2 = 64),
   (8, field f 8 4 = f.length ∧ 64 ≤ f.length), (12, 6 ≤ count ∧ count ≤ 64), (14, field f 14 2 = 0),
   (16, table % 8 = 0 ∧ 64 ≤ table ∧ table + 32 * count ≤ f.length), (28, field f 28 36 = 0)]

/-- The section of an index, as its 32 bytes of the table give it; the one of a type, empty where there is none (R210). -/
def Sys2Proof.Claims.sectionAt (f : List Byte) (k : Nat) : Section :=
  let e := field f 16 8 + 32 * k
  { entry := e, ty := field f e 2, flags := field f (e + 2) 2, align := field f (e + 4) 1, off := field f (e + 8) 8,
    size := field f (e + 16) 8, load := field f (e + 24) 8 }
def Sys2Proof.Claims.theSection (f : List Byte) (ty : Nat) : Section :=
  ((((List.range (field f 12 2)).map (Claims.sectionAt f)).find? fun x => x.ty = ty).getD
    { entry := 0, ty := ty, flags := 0, align := 2, off := 0, size := 0, load := 0 })

/-- Two runs of bytes have no byte in common. -/
def Sys2Proof.Claims.Apart (a n b m : Nat) : Prop := n = 0 ∨ m = 0 ∨ a + n ≤ b ∨ b + m ≤ a

/-- The fields of an entry of the section table (R210): a type of 1 to 9, once each from 4 on, and 9 at the end only; the
flags of the type; the alignment; zeros; a body clear of the header, the table and the bodies before it, the signature's at the
end of the file; a size within the file; a load size that is no less. -/
def Sys2Proof.Claims.sectionRules (f : List Byte) (k : Nat) : List (Nat × Prop) :=
  let x := Claims.sectionAt f k
  [(x.entry, 1 ≤ x.ty ∧ x.ty ≤ 9 ∧ (4 ≤ x.ty → ∀ j < k, (Claims.sectionAt f j).ty ≠ x.ty) ∧
      (x.ty = 9 ↔ k + 1 = field f 12 2)),
   (x.entry + 2, if x.ty = 1 then x.flags = 1 ∨ x.flags = 5
      else if x.ty = 2 ∨ x.ty = 3 then x.flags = 0 ∨ x.flags = 2 ∨ x.flags = 4 ∨ x.flags = 6 else x.flags = 0),
   (x.entry + 4, 2 ≤ x.align ∧ x.align ≤ 21), (x.entry + 5, field f (x.entry + 5) 3 = 0),
   (x.entry + 8, Claims.Apart x.off x.size 0 64 ∧ Claims.Apart x.off x.size (field f 16 8) (32 * field f 12 2) ∧
      (∀ j < k, Claims.Apart x.off x.size (Claims.sectionAt f j).off (Claims.sectionAt f j).size) ∧
      (x.ty = 9 → x.off + 144 = f.length)),
   (x.entry + 16, x.off + x.size ≤ f.length ∧ (x.ty = 9 → x.size = 144)), (x.entry + 24, x.size ≤ x.load)]
def Sys2Proof.Claims.tableRules (f : List Byte) : List (Nat × Prop) :=
  (List.range (field f 12 2)).flatMap (Claims.sectionRules f) ++
    [(12, ∀ ty ∈ [1, 4, 5, 7, 8, 9], ∃ k < field f 12 2, (Claims.sectionAt f k).ty = ty)]

/-- A section that is loaded; how many symbols, entries and relocations there are, and where each lies (R211 to R213). -/
def Sys2Proof.Claims.Loadable (f : List Byte) (k : Nat) : Prop :=
  k < field f 12 2 ∧ 1 ≤ (Claims.sectionAt f k).ty ∧ (Claims.sectionAt f k).ty ≤ 3
def Sys2Proof.Claims.countOf (f : List Byte) (ty size : Nat) : Nat := (Claims.theSection f ty).size / size
def Sys2Proof.Claims.fileRow (f : List Byte) (ty size k : Nat) : Nat := (Claims.theSection f ty).off + size * k

/-- The fields of a symbol: a name in the strings, a loadable section, which is code for a kernel entry, a binding, a kind, a
value in the section, at a multiple of 4 for a kernel entry, and a size (R211). -/
def Sys2Proof.Claims.symbolRules (f : List Byte) (k : Nat) : List (Nat × Prop) :=
  let e := Claims.fileRow f 4 24 k
  let home := field f (e + 4) 2
  let load := (Claims.sectionAt f home).load
  let kind := field f (e + 7) 1
  let value := field f (e + 8) 8
  [(e, field f e 4 < (Claims.theSection f 5).size),
   (e + 4, Claims.Loadable f home ∧ (kind = 1 → (Claims.sectionAt f home).ty = 1)), (e + 6, field f (e + 6) 1 ≤ 1),
   (e + 7, kind ≤ 2), (e + 8, value ≤ load ∧ (kind = 1 → value % 4 = 0 ∧ value < load)),
   (e + 16, value + field f (e + 16) 8 ≤ load)]
def Sys2Proof.Claims.KernelEntry (f : List Byte) (k : Nat) : Prop :=
  k < Claims.countOf f 4 24 ∧ field f (Claims.fileRow f 4 24 k + 7) 1 = 1

/-- The fields of an entry record (R212). -/
def Sys2Proof.Claims.entryRules (f : List Byte) (k : Nat) : List (Nat × Prop) :=
  let e := Claims.fileRow f 7 16 k
  [(e, Claims.KernelEntry f (field f e 4)), (e + 4, field f (e + 4) 1 ∈ [8, 16, 32, 64]),
   (e + 5, 1 ≤ field f (e + 5) 1 ∧ field f (e + 5) 1 ≤ 32), (e + 6, field f (e + 6) 1 < 8),
   (e + 7, field f (e + 7) 1 = 0), (e + 12, field f (e + 12) 4 = 0)]

/-- The field that a relocation writes: where it stands in its site, whose first byte is `w` with the length bits, and its
bytes (R190, R200, R213). -/
def Sys2Proof.Claims.relocField (ty w : Nat) : Nat × Nat :=
  if ty = 1 then (0, 8) else if ty = 2 then (0, 4) else if ty = 3 then (8, 3) else if ty = 4 then (10, 2)
  else if ty = 5 then (8, 4) else if w % 4 = 3 then (12, 8) else (4, 8)

/-- The fields of a relocation: a loadable target, a type of 1 to 6, a zero, a symbol, and an offset, a multiple of 4, at which
the site lies in the section, holds an instruction of the format of the type, or one with a literal for type 6, and has zeros
in the field to be written (R213). -/
def Sys2Proof.Claims.relocRules (f : List Byte) (k : Nat) : List (Nat × Prop) :=
  let e := Claims.fileRow f 6 24 k
  let x := Claims.sectionAt f (field f e 2)
  let ty := field f (e + 2) 1
  let off := field f (e + 8) 8
  let w := field f (x.off + off) 4
  let p := Claims.relocField ty w
  let format := formatOf (w / 4 % 256)
  [(e, Claims.Loadable f (field f e 2)), (e + 2, 1 ≤ ty ∧ ty ≤ 6), (e + 3, field f (e + 3) 1 = 0),
   (e + 4, field f (e + 4) 4 < Claims.countOf f 4 24),
   (e + 8, off % 4 = 0 ∧ off + p.1 + p.2 ≤ (if ty ≤ 2 then x.load else x.size) ∧
      (2 < ty → off + 4 * [1, 3, 3, 5].getD (w % 4) 0 ≤ x.size) ∧
      (ty = 3 → format = some .xc ∧ w % 2 = 1) ∧ (ty = 4 → format = some .xm ∧ w % 2 = 1) ∧
      (ty = 5 → format = some .xs ∧ w % 2 = 1) ∧ (ty = 0 ∨ 6 ≤ ty → format ≠ none ∧ w / 2 % 2 = 1) ∧
      field (f.take (x.off + x.size)) (x.off + off + p.1) p.2 = 0)]

/-- Step 4 of R216: the symbols, the strings, which a zero ends, the entries, the trap entry, the relocations. -/
def Sys2Proof.Claims.contentRules (f : List Byte) : List (Nat × Prop) :=
  let whole (ty size : Nat) : Nat × Prop :=
    ((Claims.theSection f ty).entry + 16, (Claims.theSection f ty).size % size = 0)
  let strings := Claims.theSection f 5
  let each (ty size : Nat) (rules : Nat → List (Nat × Prop)) : List (Nat × Prop) :=
    (List.range (Claims.countOf f ty size)).flatMap rules
  [whole 4 24] ++ each 4 24 (Claims.symbolRules f) ++
    [(strings.off + strings.size - 1, strings.size = 0 ∨ field f (strings.off + strings.size - 1) 1 = 0), whole 7 16] ++
    each 7 16 (Claims.entryRules f) ++
    [(24, field f 24 4 = 0xFFFFFFFF ∨ Claims.KernelEntry f (field f 24 4)), whole 6 24] ++
    each 6 24 (Claims.relocRules f)

/-- A requirement is met: its key names a quantity of the device, in the relation that it asks for (R214). -/
def Sys2Proof.Claims.Met (s : State) (f : List Byte) (k : Nat) : Prop :=
  let e := Claims.fileRow f 8 8 k
  let value := field f (e + 4) 4
  8 * k + 8 ≤ (Claims.theSection f 8).size ∧ field f (e + 3) 1 = 0 ∧
  ∃ q, (field f e 2, q) ∈ [(1, 4), (2, 1), (3, 3), (4, 384 - s.columnsOut.length), (5, 8 - s.stacksOut.length), (6, 4),
      (7, 8), (8, s.stagingGib)] ∧
    ((field f (e + 2) 1 = 0 ∧ q = value) ∨ (field f (e + 2) 1 = 1 ∧ value ≤ q))

/-- The loadable sections, by index, and the load address of a section: the host names one for each (R216). -/
def Sys2Proof.Claims.loadables (f : List Byte) : List Nat :=
  (List.range (field f 12 2)).filter fun k => 1 ≤ (Claims.sectionAt f k).ty ∧ (Claims.sectionAt f k).ty ≤ 3
def Sys2Proof.Claims.loadAddress (f : List Byte) (loads : List Nat) (k : Nat) : Nat :=
  loads.getD ((Claims.loadables f).idxOf k) 0

/-- A page of a load range: its walk ends at a valid leaf that is no flash page, and that a read may go through, with Executable,
Writable and Stable as the section has them (R216). -/
def Sys2Proof.Claims.PageFits (s : State) (root va flags : Nat) : Prop :=
  va < 2 ^ 64 ∧ canonical (BitVec.ofNat 64 va) = true ∧
  ∃ k S T E, k < 4 ∧ Claims.Descent s va root k S T E ∧
    let a := Claims.placeInTable va k (T k)
    let e := leNat ((S k).l2Read a 8).2
    (S k).unreadable a = false ∧ ¬ Claims.MalformedAt k e ∧ e.testBit 0 = true ∧ Claims.EndsWalk k e ∧
    e.testBit 6 = false ∧ e.testBit 3 = flags.testBit 0 ∧ e.testBit 2 = flags.testBit 1 ∧ e.testBit 4 = flags.testBit 2 ∧
    ∃ pa st bc, s.classify (Claims.shiftAt k) e va .read = .ok pa st bc

/-- Step 5 of R216: the load addresses are aligned, the code lies below 2^48, and every page of a load range fits. -/
def Sys2Proof.Claims.LoadsFit (s : State) (f : List Byte) (space : Nat) (loads : List Nat) : Prop :=
  ∃ root, s.foreman.spaces.lookup space = some root ∧ loads.length = (Claims.loadables f).length ∧
    ∀ k ∈ Claims.loadables f,
      let x := Claims.sectionAt f k
      let a := Claims.loadAddress f loads k
      a % 2 ^ x.align = 0 ∧ x.load ≤ 2 ^ 48 ∧ (x.ty = 1 → a + x.load ≤ 2 ^ 48) ∧
      ∀ page, page * 65536 < a + x.load → a < (page + 1) * 65536 → 0 < x.load →
        Claims.PageFits s root (page * 65536) x.flags

/-- The address of a symbol; the bits that the literal of the instruction at an offset of the file feeds, 64 where it feeds no
narrower operand (R196). -/
def Sys2Proof.Claims.addressOf (f : List Byte) (loads : List Nat) (k : Nat) : Nat :=
  if k < Claims.countOf f 4 24 then
    Claims.loadAddress f loads (field f (Claims.fileRow f 4 24 k + 4) 2) + field f (Claims.fileRow f 4 24 k + 8) 8
  else 0
def Sys2Proof.Claims.literalBits (f : List Byte) (at' : Nat) : Nat :=
  match decodeBits (field f at' 20) with
  | .ok i _ => match i.ext with
    | some e => ((([(e.a, i.shape.a), (e.b, i.shape.b), (e.c, i.shape.c)]).find? fun p => p.1.isLit).map
        fun p => p.2.width).getD 64
    | none => 64
  | _ => 64

/-- A relocation fits, and the value that it writes (R213): `V` is the symbol's address with the addend, `V - P` the distance
to it from the site. -/
def Sys2Proof.Claims.relocated (f : List Byte) (loads : List Nat) (k : Nat) : Prop × Nat :=
  let e := Claims.fileRow f 6 24 k
  let ty := field f (e + 2) 1
  let target := field f e 2
  let off := field f (e + 8) 8
  let v : Int := Claims.addressOf f loads (field f (e + 4) 4) + (BitVec.ofNat 64 (field f (e + 16) 8)).toInt
  let d : Int := v - (Claims.loadAddress f loads target + off : Nat)
  let bits := Claims.literalBits f ((Claims.sectionAt f target).off + off)
  if ty = 1 then (True, (v % 2 ^ 64).toNat)
  else if ty = 2 ∨ ty = 5 then (0 ≤ v ∧ v < 2 ^ 32, v.toNat)
  else if ty = 3 then (d % 4 = 0 ∧ -2 ^ 23 ≤ d / 4 ∧ d / 4 < 2 ^ 23, (d / 4 % 2 ^ 24).toNat)
  else if ty = 4 then (-32768 ≤ v ∧ v ≤ 32767, (v % 2 ^ 16).toNat)
  else (bits = 64 ∨ (0 ≤ v ∧ v < 2 ^ bits), (v % 2 ^ 64).toNat)

/-- The signature of a file: a key that the foreman accepts, the vendor's or an owner's, has the identifier that the file names,
and verifies r and s over every byte before the signature body (R215). -/
def Sys2Proof.Claims.SignedBy (s : State) (f : List Byte) : Prop :=
  let at' := f.length - 144
  let part (k : Nat) : List Byte := (f.drop (at' + 48 * k)).take 48
  ∃ key, (pointOf Config.vendorKey :: s.foreman.ownerKeys.map pointOf).find? (fun k => keyId k = part 0) = some key ∧
    signatureValid key (f.take at') (beNat (part 1)) (beNat (part 2)) = true

/-- The checks of R216 in order: what must hold, the code of the rejection, and its detail. -/
def Sys2Proof.Claims.checksOf (s : State) (f : List Byte) (space : Nat) (loads : List Nat) :
    List (Prop × Nat × (List Byte → Prop)) :=
  let form := Claims.headerRules f ++ Claims.tableRules f
  let met (k : Nat) : Prop := Claims.Met s f k
  let asked := ((Claims.theSection f 8).size + 7) / 8
  let fits (k : Nat) : Prop := (Claims.relocated f loads k).1
  let relocs := Claims.countOf f 6 24
  let badField (fs : List (Nat × Prop)) (d : List Byte) : Prop := ∃ o, Claims.FirstBad fs o ∧ d = leBytes 4 o
  [(Claims.AllGood form, 1, badField form),
   (Claims.SignedBy s f, 2, fun d => d = []),
   (∀ k < asked, met k, 3, fun d => ∃ k < asked, ¬ met k ∧ (∀ j < k, met j) ∧ d = leBytes 4 k),
   (Claims.AllGood (Claims.contentRules f), 1, badField (Claims.contentRules f)),
   (Claims.LoadsFit s f space loads, 5, fun d => d = []),
   (∀ k < relocs, fits k, 4, fun d => ∃ k < relocs, ¬ fits k ∧ (∀ j < k, fits j) ∧
      let e := Claims.fileRow f 6 24 k
      d = leBytes 4 k ++ leBytes 2 (field f e 2) ++ leBytes 8 (field f (e + 8) 8)),
   (s.foreman.objects.length < 256, 6, fun d => d = [])]
def Sys2Proof.Claims.Admissible (s : State) (f : List Byte) (space : Nat) (loads : List Nat) : Prop :=
  ∀ c ∈ Claims.checksOf s f space loads, c.1

/-- The first check of R216 that fails is answered with its code and its detail, and changes nothing; before `READY`, and while
the link is down, no object is looked at (R209 to R216, R343, R355). Which of several bad fields is the first, and what counts
as an unmet requirement beside R214's words, are the model's reading (log 59). -/
def Sys2Proof.Claims.FilesAreChecked : Prop :=
  ∀ (file : List Byte) (space : Nat) (loads : List Nat) (s : State),
    let ev := Instr.admitCodeObject file space loads
    (s.ready = false ∨ s.link.up = false → exec ev s = .next s) ∧
    ∀ (n : Nat) (hold : Prop) (code : Nat) (detail : List Byte → Prop) (d : List Byte), s.ready = true → s.link.up = true →
      (Claims.checksOf s file space loads)[n]? = some (hold, code, detail) → ¬ hold → detail d →
      (∀ j < n, ∀ c : Prop × Nat × (List Byte → Prop), (Claims.checksOf s file space loads)[j]? = some c → c.1) →
      exec ev s = .next { s with outbox := s.outbox ++ [.answer code d] }

/-- An object that passes every check is kept under the next identifier, and so is its attestation record: its space, the
addresses of its entries beside their records, its trap entry, the digest of its file, the identifier of the key that signed it
and the time; no other object, group or grid changes (R211, R212, R216, R217). -/
def Sys2Proof.Claims.ObjectsAreKept : Prop :=
  ∀ (file : List Byte) (space : Nat) (loads : List Nat) (s : State), s.ready = true → s.link.up = true →
    Claims.Admissible s file space loads →
    let id := s.foreman.nextObject
    let at' (k : Nat) : DWord := BitVec.ofNat 64 (Claims.addressOf file loads k)
    let o : CodeObject := {
      space := space
      entries := (List.range (Claims.countOf file 7 16)).map fun k =>
        (at' (field file (Claims.fileRow file 7 16 k) 4), (file.drop (Claims.fileRow file 7 16 k)).take 16)
      trapEntry := if field file 24 4 = 0xFFFFFFFF then none else some (at' (field file 24 4))
      digest := BitVec.ofNat 384 (beNat (sha384 file))
      key := BitVec.ofNat 384 (beNat ((file.drop (file.length - 144)).take 48))
      time := s.time }
    ∃ u t : State, exec (.admitCodeObject file space loads) s = .next t ∧ MemorySystem s u ∧
      t = { u with
        cores := t.cores
        foreman := { s.foreman with
          objects := s.foreman.objects.put id o, records := s.foreman.records.put id o, nextObject := id + 1 }
        outbox := s.outbox ++ [.answer 0 (leBytes 4 id)] } ∧
      ∀ n, t.core n = { u.core n with icache := (t.core n).icache }

/-- The image of a loadable section: its body, then zeros up to the load size, and over them the fields that its relocations
write, each where no other one writes too (R210, R213). -/
def Sys2Proof.Claims.IsImage (f : List Byte) (loads : List Nat) (k : Nat) (image : List Byte) : Prop :=
  let x := Claims.sectionAt f k
  let start (r : Nat) : Nat :=
    field f (Claims.fileRow f 6 24 r + 8) 8 + (Claims.relocField (field f (Claims.fileRow f 6 24 r + 2) 1)
      (field f (x.off + field f (Claims.fileRow f 6 24 r + 8) 8) 4)).1
  let bytes (r : Nat) : Nat := (Claims.relocField (field f (Claims.fileRow f 6 24 r + 2) 1)
    (field f (x.off + field f (Claims.fileRow f 6 24 r + 8) 8) 4)).2
  let writes (r j : Nat) : Prop := r < Claims.countOf f 6 24 ∧ field f (Claims.fileRow f 6 24 r) 2 = k ∧
    start r ≤ j ∧ j < start r + bytes r
  image.length = x.load ∧ ∀ j < x.load,
    ((∀ r, ¬ writes r j) → image[j]? = if j < x.size then f[x.off + j]? else some 0) ∧
    ∀ r, writes r j → (∀ q, writes q j → q = r) →
      image[j]? = (leBytes (bytes r) (Claims.relocated f loads r).2)[j - start r]?

/-- The sections of an admitted object are written in order at the homes that their pages name, each as its image, and every
core's instruction cache then holds the lines that it held, but for those of the space that the code covers (R213, R216). -/
def Sys2Proof.Claims.ImagesAreLoaded : Prop :=
  ∀ (file : List Byte) (space : Nat) (loads : List Nat) (s : State), s.ready = true → s.link.up = true →
    Claims.Admissible s file space loads →
    ∃ (images : List (List Byte)) (t : State), exec (.admitCodeObject file space loads) s = .next t ∧
      images.length = (Claims.loadables file).length ∧
      (∀ n k : Nat, ∀ b : List Byte, (Claims.loadables file)[n]? = some k → images[n]? = some b →
        Claims.IsImage file loads k b) ∧
      (let u := (images.zip loads).foldl (fun s p => (pieces p.2 p.1.length).foldl (fun s q =>
          match s.translateBare space (BitVec.ofNat 64 q.1) .read with
          | (s, .ok pa _ _) => s.writeHome pa ((p.1.drop (q.1 - p.2)).take q.2)
          | (s, _) => s) s) s
       t.slices = u.slices ∧ t.mem = u.mem ∧ t.staging = u.staging ∧ ∀ n,
         t.core n = { u.core n with icache := (t.core n).icache } ∧
         ∀ l, l ∈ (t.core n).icache ↔ l ∈ (u.core n).icache ∧ ¬ (l.space = space ∧
           ∃ k ∈ Claims.loadables file, (Claims.sectionAt file k).ty = 1 ∧ 0 < (Claims.sectionAt file k).load ∧
             l.line * 128 < Claims.loadAddress file loads k + (Claims.sectionAt file k).load ∧
             Claims.loadAddress file loads k < l.line * 128 + 128))

/-- An owner key joins those that the foreman accepts where it is a point of the curve, fewer than sixteen are there, and a key
that the foreman accepts has signed the request: the request answers 0 then, and 1 otherwise, with no effect (R215). Which
bytes a request signs (log 15), the numbers of the answers (log 19) and the constants of the curve and of the digest (logs 17, 18)
are the model's choices. -/
def Sys2Proof.Claims.KeysAreEnrolled : Prop :=
  ∀ (key signer : List Byte) (r t : Nat) (s : State) (a b : Nat), key = 4 :: (beBytes 48 a ++ beBytes 48 b) →
    a < 2 ^ 384 → b < 2 ^ 384 →
    let known := (pointOf Config.vendorKey :: s.foreman.ownerKeys.map pointOf).find? fun k => keyId k = signer
    let good : Prop := onCurve a b = true ∧ s.foreman.ownerKeys.length < 16 ∧
      ∃ k, known = some k ∧ signatureValid k key r t = true
    let ev := Instr.enrolOwnerKey key signer r t
    (s.ready = false ∨ s.link.up = false → exec ev s = .next s) ∧
    (s.ready = true → s.link.up = true → good → exec ev s = .next { s with
      foreman := { s.foreman with ownerKeys := s.foreman.ownerKeys ++ [(BitVec.ofNat 384 a, BitVec.ofNat 384 b)] }
      outbox := s.outbox ++ [.answer 0 []] }) ∧
    (s.ready = true → s.link.up = true → ¬ good →
      exec ev s = .next { s with outbox := s.outbox ++ [.answer 1 []] })

/-- Code objects: the first check of R216 that fails is answered with its code and its detail, and changes nothing; an object that
passes them all is kept under the next identifier, with its entries, its trap entry and its attestation record, its sections
are written with their relocations applied, and the lines of its code leave the instruction caches. An owner key joins the
others where a known key has signed it, up to sixteen (R209 to R217). The model's choices: the order of bad fields (log 59),
which bytes a request signs (log 15), the numbers of objects and answers (log 19); presumed are the constants of the digest
(log 17) and of the curve (log 18). -/
def Obligations.ObjectsAreAdmitted : Prop :=
  Sys2Proof.Claims.FilesAreChecked ∧ Sys2Proof.Claims.ObjectsAreKept ∧ Sys2Proof.Claims.ImagesAreLoaded ∧
  Sys2Proof.Claims.KeysAreEnrolled

/-! ### The link and the transport -/

/-- Host accesses need the link; a write that meets an address it may not touch, and a read that meets a hole of the address
map or what cannot be read, is answered with an error and has no effect (for the reads the model's choice, log 19); otherwise
a write is performed at the homes of its lines and counters are compared, and a read is answered with what the homes hold; what
a byte of the staging region holds is left open, a free value (R174, R175, R343, R344; log 88). That a write to the host's own
addresses is performed like any other is the model's choice (log 61). -/
def Sys2Proof.Claims.HostAccesses : Prop :=
  ∀ (a n : Nat) (bs : List Byte) (s : State),
    (s.link.up = false → exec (.hostWrite a bs) s = .next s ∧ exec (.hostRead a n) s = .next s) ∧
    (s.link.up = true →
      ((∃ p ∈ pieces a bs.length, s.reserved p.1 = true ∨ inFlash p.1 = true) →
        exec (.hostWrite a bs) s = .next { s with outbox := s.outbox ++ [.linkError a] }) ∧
      ((∃ p ∈ pieces a n, inHole p.1 = true ∨ s.unreadable p.1 = true) →
        exec (.hostRead a n) s = .next { s with outbox := s.outbox ++ [.linkError a] }) ∧
      ((∀ p ∈ pieces a bs.length, s.reserved p.1 = false ∧ inFlash p.1 = false) →
        Completes (exec (.hostWrite a bs) s) fun s' => MemorySystem s s' ∧ (∀ k, s'.core k = s.core k) ∧
          s' = (pieces a bs.length).foldl (fun s p => s.writeHome p.1 ((bs.drop (p.1 - a)).take p.2)) s) ∧
      ((∀ p ∈ pieces a n, inHole p.1 = false ∧ s.unreadable p.1 = false) →
        Completes (exec (.hostRead a n) s) fun s' => ∃ s1 bs, MemorySystem s s1 ∧ s1 = (s.l2Read a n).1 ∧
          s' = { s1 with outbox := s.outbox ++ [.answer 0 bs] } ∧ bs.length = (s.l2Read a n).2.length ∧
          ∀ k b, (s.l2Read a n).2[k]? = some b → bs[k]? = some (if s.inStaging (a + k) = true
            then Config.stagingByte s.cycles (a + k) else b)))

/-- Flits: the one expected is accepted, the next is expected, and what it carries is performed, once; a launch message waits
at the host while it has no credit; a flit accepted before is dropped; one that is bad or too early has replay asked for from
the one expected, and the whole ones that follow until then are dropped with it. A flit that is bad while a replay is awaited
counts as that replay, failed; once eight replays have failed the link retrains. The host's request sends the flits of the
replay buffer again from the one it names, and its ninth request for one says that the eighth replay failed. A retrain starts
the counts anew; one that fails takes the link down, which is reported (R342, R343, R355). Where a launch message stands in
its flit, which request another flit carries, which numbers count as accepted before, what a bad flit counts as, and that the
retrain comes with the ninth failure are the model's choices (log 22), and the constants of the check are presumed (log 23). -/
def Sys2Proof.Claims.FlitsAreReplayed : Prop :=
  ∀ (flit : List Byte) (s : State),
    let seq := field flit 0 2
    let channel := field flit 2 1
    let payload := (flit.drop 4).take 248
    let l := s.link
    let early := (l.expected + 4096 - seq) % 4096
    let res := exec (.replayRequest flit) s
    let resent (first : Nat) : Result := exec (.replay first) s
    let taken : State := { s with link := { l with expected := (l.expected + 1) % 4096, asked := 0, awaits := false } }
    (flitGood flit = true ↔ flit.length = 256 ∧ seq < 4096 ∧ field flit 252 4 = (crc32c (flit.take 252)).toNat) ∧
    (l.up = false → res = .next s ∧ ∀ b, exec (.linkRetrain b) s = .next s) ∧
    (l.up = true →
      (flitGood flit = true → seq = l.expected →
        (channel = 0 → s.ready = false → res = .next s) ∧
        (channel = 0 → s.keepsOff (payload.take 128) = false →
          res = exec (.launchMessage (payload.take 128)) taken) ∧
        (3 ≤ channel → res = .next taken) ∧
        (channel = 1 ∨ channel = 2 →
          (∀ i, Config.flitRequest channel (field flit 3 1) payload = some i → Sys2Proof.Machine.Instr.sentOn i channel = true →
            res = .next { taken with agenda := .event i :: s.agenda }) ∧
          (Config.flitRequest channel (field flit 3 1) payload = none → res = .next taken))) ∧
      (flitGood flit = true → seq ≠ l.expected → early ≤ 2048 → res = .next s) ∧
      (flitGood flit = false ∨ (seq ≠ l.expected ∧ 2048 < early) →
        (9 ≤ l.asked ∨ (l.awaits = true ∧ flitGood flit = true) → res = .next s) ∧
        (l.awaits = false ∨ flitGood flit = false →
          (l.asked = 8 → res = .next { s with link := { l with asked := 9 } }) ∧
          (l.asked < 8 → res = .next { s with
            link := { l with asked := l.asked + 1, awaits := true }, outbox := s.outbox ++ [.replayFrom l.expected] }))) ∧
      (l.asked < 9 → (∀ r ∈ l.replays, r.2 < 9) → ∀ b, exec (.linkRetrain b) s = .next s) ∧
      (9 ≤ l.asked ∨ (∃ r ∈ l.replays, 9 ≤ r.2) → (∃ b, Sys2Proof.Instr.linkRetrain b ∈ s.due) ∧
        exec (.linkRetrain true) s = .next { s with link := { l with asked := 0, awaits := false, replays := [] } } ∧
        exec (.linkRetrain false) s =
          .next { s with link := { l with up := false }, outbox := s.outbox ++ [.linkDown] }) ∧
      (∀ lo, s.flitsSent ≤ lo + 512 → lo < s.flitsSent → (∀ r ∈ l.replays, r.2 < 8) →
        Completes (resent (lo % 4096)) fun s' => s' = { s with link := s'.link, outbox := s'.outbox } ∧
          s'.outbox = s.outbox ++ (List.range (s.flitsSent - lo)).map (fun k => .resent (lo + k)) ∧
          s'.link = { l with replays := s'.link.replays } ∧
          ∀ k, s'.link.replays.at k 0 = if lo ≤ k ∧ k < s.flitsSent then l.replays.at k 0 + 1 else 0) ∧
      ∀ lo k, s.flitsSent ≤ lo + 512 → lo ≤ k → k < s.flitsSent → (∀ r ∈ l.replays, r.2 ≤ 8) → l.replays.at k 0 = 8 →
        Completes (resent (lo % 4096)) fun s' => s' = { s with link := s'.link } ∧
          s'.link = { l with replays := s'.link.replays } ∧ s'.link.replays.at k 0 = 9)

/-- Host accesses over the link; flits are replayed: all of the statements just given. -/
def Obligations.LinkAccesses : Prop :=
  Sys2Proof.Claims.HostAccesses ∧ Sys2Proof.Claims.FlitsAreReplayed

/-- The byte of a physical address that its home slice holds valid (R110). -/
def homeByte (s : State) (a : Nat) : Option Byte :=
  (findLine (s.slice (s.home a)).supers a).bind fun l => if l.full then l.data[a % 128]? else none

/-- Where the homes hold every line of a run, the transport engine reads what they hold, page by page, and a write within a
line leaves there what it writes and no other byte of any home changed (R110, R347, R349). -/
def Sys2Proof.Claims.HomesAnswer : Prop :=
  (∀ (s : State) (pages : List Nat) (a n : Nat) (bs : List Byte), (∀ p ∈ pages, p % 65536 = 0) → bs.length = n →
    (∀ k, k < n → homeByte s (pages.getD ((a + k) / 65536) 0 + (a + k) % 65536) = bs[k]?) →
    MemorySystem s (s.readPages pages a n).1 ∧ (s.readPages pages a n).2 = bs) ∧
  ∀ (s : State) (pa : Nat) (bs : List Byte), bs ≠ [] → pa % 128 + bs.length ≤ 128 →
    (∃ l, findLine (s.slice (s.home pa)).supers pa = some l ∧ l.full = true ∧ l.data.length = 128) →
    MemorySystem s (s.l2Write pa bs) ∧
    ∀ a, homeByte (s.l2Write pa bs) a =
      if pa ≤ a ∧ a < pa + bs.length then bs[a - pa]? else homeByte s a

/-- A transmission of a packet reads its source bytes at their homes and sends them (R347, R348). -/
def Sys2Proof.Claims.PacketsCarryTheSource : Prop :=
  ∀ (s : State) (id : Nat) (d : Sending) (p : Packet),
    let got := s.readPages d.source (d.start + p.first) p.size
    s.transmit id d p = { got.1 with
      transport := { got.1.transport with packets := got.1.transport.packets.put id p },
      outbox := got.1.outbox ++ [.packet d.peer id d.window d.mode (d.offset + p.first) got.2] }

/-- A word of the transport engine is an 8-byte aligned one of writable main DRAM; a descriptor is malformed where its length is out
of range, its mode or a reserved byte is not one that R347 gives, its counter is no such word, or its peer is not registered
(R336, R346 to R348). -/
def Sys2Proof.Claims.DescriptorFieldsAreChecked : Prop :=
  ∀ (s : State) (space : Nat),
    (∀ va pa, s.wordAt space va = some pa ↔ va.toNat % 8 = 0 ∧ pa < 0x6000000000 ∧
      ∃ t st bc, s.translateBare space va .write = (t, .ok pa st bc)) ∧
    ∀ d : List Byte, descriptorBad s space d = true ↔
      let n (lo k : Nat) : Nat := leNat ((d.drop lo).take k)
      n 8 4 = 0 ∨ 16777216 < n 8 4 ∨ n 15 1 / 4 ≠ 0 ∨ n 15 1 % 4 = 3 ∨ n 36 28 ≠ 0 ∨
      s.transport.peers.lookup (n 12 2) = none ∨
      (n 24 8 ≠ 0 ∧ s.wordAt space (BitVec.ofNat 64 (n 24 8)) = none)

/-- Sending: a descriptor is taken once the post word exceeds its number, its 64 bytes read page by page at their homes; a
malformed one completes with status 1, one whose source does not translate with 2; a good one sends a packet for every
4,096 bytes, which is the model's choice (log 25) (R346 to R348). -/
def Sys2Proof.Claims.DescriptorsAreSent : Prop :=
  ∀ (queue : Nat) (s : State),
    (s.transport.queues.lookup queue = none → exec (.sendDescriptor queue) s = .next s) ∧
    ∀ (x : SendQueue) (post : Nat), s.transport.queues.lookup queue = some x → s.wordAt x.space x.post = some post →
      let s1 := (s.l2Read post 8).1
      let va := x.slots + BitVec.ofNat 64 (64 * (x.taken % 256))
      (leNat (s.l2Read post 8).2 ≤ x.taken → exec (.sendDescriptor queue) s = .next s1) ∧
      (x.taken < leNat (s.l2Read post 8).2 → s1.pagesOf x.space va 64 .read = none →
        exec (.sendDescriptor queue) s = .next s1) ∧
      ∀ pages, x.taken < leNat (s.l2Read post 8).2 → s1.pagesOf x.space va 64 .read = some pages →
        let s2 := (s1.readPages pages (va.toNat % 65536) 64).1
        let d := (s1.readPages pages (va.toNat % 65536) 64).2
        let source := s2.pagesOf x.space (BitVec.ofNat 64 (field d 0 8)) (field d 8 4) .read
        ∃ s3 : State, ∃ new : Sending,
          (let y : SendQueue := { x with taken := x.taken + 1, sending := x.sending ++ [new] }
          s3 = { s2 with transport := { s2.transport with queues := s2.transport.queues.put queue y } }) ∧
          new.index = x.taken ∧ new.va = va ∧ new.length = field d 8 4 ∧ new.peer = field d 12 2 ∧
          new.window = field d 14 1 ∧ new.mode = field d 15 1 ∧ new.offset = field d 16 8 ∧ new.status = none ∧
          new.source = source.getD [] ∧ new.start = field d 0 8 % 65536 ∧
          (descriptorBad s2 x.space d = true →
            exec (.sendDescriptor queue) s = .next (s3.completeSend queue x.taken 1)) ∧
          (descriptorBad s2 x.space d = false → source = none →
            exec (.sendDescriptor queue) s = .next (s3.completeSend queue x.taken 2)) ∧
          (descriptorBad s2 x.space d = false → source ≠ none → ∃ sent : Nat → State, sent 0 = s3 ∧
            exec (.sendDescriptor queue) s = .next (sent ((new.length + 4095) / 4096)) ∧
            ∀ k < (new.length + 4095) / 4096, ∃ p : Packet,
              p = { queue := queue, index := x.taken, first := k * 4096, size := min 4096 (new.length - k * 4096),
                    again := false } ∧
              sent (k + 1) = { sent k with serial := (sent k).serial + 1 }.transmit (sent k).serial new p)

/-- A packet on its way: an acknowledgement takes it off and counts its round-trip time and its mark, and the last one
completes its descriptor with status 0; a trimmed or lost packet is sent again; a refusal completes its descriptor with 4,
and where a peer is unreachable every descriptor for it that is not complete completes with 3, whatever the queues hold
(R346, R348, R351; when a retry limit is reached is an argument of the step, log 15). -/
def Sys2Proof.Claims.PacketsAreAnswered : Prop :=
  (∀ (id : Nat) (s : State),
    (s.onItsWay id = none → ∀ ns marked, exec (.packetAcknowledged id ns marked) s = .next s ∧
      exec (.packetTrimmed id) s = .next s ∧ exec (.retransmission id) s = .next s ∧
      exec (.refusedByPeer id) s = .next s) ∧
    ∀ p d peer, s.onItsWay id = some (p, d) → s.transport.peers.lookup d.peer = some peer →
      let counted (v : Nat) : State := { s with
        windows := s.windows.modify peer.marks fun w => w.push (BitVec.ofNat 64 v) }
      (∀ ns marked, ∃ s1 : State,
        s1 = { s with
          windows := (s.windows.modify peer.roundTrip fun w => w.push (BitVec.ofNat 64 (ns % 2 ^ 32))).modify peer.marks
            fun w => w.push (BitVec.ofNat 64 (marked || p.again).toNat),
          transport := { s.transport with packets := s.transport.packets.drop id } } ∧
        ((∃ q ∈ s1.transport.packets, q.2.queue = p.queue ∧ q.2.index = p.index) →
          exec (.packetAcknowledged id ns marked) s = .next s1) ∧
        ((∀ q ∈ s1.transport.packets, ¬ (q.2.queue = p.queue ∧ q.2.index = p.index)) →
          exec (.packetAcknowledged id ns marked) s = .next (s1.completeSend p.queue p.index 0))) ∧
      exec (.packetTrimmed id) s = .next ((counted 1).transmit id d { p with again := true }) ∧
      exec (.retransmission id) s = .next ((counted p.again.toNat).transmit id d { p with again := true }) ∧
      exec (.refusedByPeer id) s = .next (s.completeSend p.queue p.index 4)) ∧
  (∀ (s : State) (q index status : Nat), descriptorAt s q index ≠ none →
    descriptorAt (s.completeSend q index status) q index = none ∧
    ∀ k ∈ (s.completeSend q index status).transport.packets, ¬ (k.2.queue = q ∧ k.2.index = index)) ∧
  ∀ (s : State) (peer : Nat), ∃ due : List (Nat × Nat),
    (∀ q index, (q, index) ∈ due ↔ ∃ x ∈ s.transport.queues, x.1 = q ∧
      ∃ d ∈ x.2.sending, d.index = index ∧ d.peer = peer ∧ d.status = none) ∧
    exec (.retryLimit peer) s = .next (due.foldl (fun s p => s.completeSend p.1 p.2 3) s)

/-- Sending: all of the statements just given. -/
def Obligations.PacketsAreSent : Prop :=
  Sys2Proof.Claims.HomesAnswer ∧ Sys2Proof.Claims.PacketsCarryTheSource ∧ Sys2Proof.Claims.DescriptorFieldsAreChecked ∧
  Sys2Proof.Claims.DescriptorsAreSent ∧
  Sys2Proof.Claims.PacketsAreAnswered

/-- Bytes are written at their homes, line by line, each line where its page translates to in main DRAM (R349). -/
def Placed (space va : Nat) (bs : List Byte) : List (Nat × Nat) → State → State → Prop
  | [], s, t => s = t
  | p :: r, s, t => ∃ s1 pa st bc, s.translateBare space (BitVec.ofNat 64 p.1) .write = (s1, .ok pa st bc) ∧
      inDram pa = true ∧ Placed space va bs r (s1.l2Write pa ((bs.drop (p.1 - va)).take p.2)) t

/-- A byte of a message has been placed. -/
def covered (m : Message) (b : Nat) : Prop := ∃ r ∈ m.placed, r.1 ≤ b ∧ b < r.1 + r.2

/-- Receiving: a packet that fails authentication, or of no peer, is discarded and counted; a trimmed one is not placed and the
peer is told. One ahead of its ordered flow has no effect and no answer; one behind it, which the peer sent again since the
answer was lost, is answered as its message stands and is not placed again. One that its window or its message cannot hold
has its message refused. Any other is placed at its window's base plus its offset, at the level-2 homes, once but in the mode
that allows more; with the last byte of the message the window's counter rises by one, after a release at `.sys`; the packet
is acknowledged, and its flow's next packet is due. Bytes that no longer translate are not placed and count for nothing; a
packet of which a byte is missing then has no answer, and its flow waits for it (R336, R346, R348, R349). The answers to
packets behind a flow and to missing bytes are the model's choice (log 25), and whether a packet authenticates is an argument
of the step (log 15). -/
def Obligations.PacketsAreReceived : Prop :=
  (∀ (a : Arrival) (s : State),
    let key := a.peer * 2 ^ 32 + a.message % 2 ^ 32
    let m := s.transport.messages.at key
      { window := a.window, offset := a.offset, length := a.length, placed := [], refused := false, counted := false }
    let known := a.authentic = true ∧ s.transport.peers.lookup a.peer ≠ none
    let due (f : Nat) : Nat := s.transport.flows.at (a.peer * 2 ^ 32 + f % 2 ^ 32) 0
    let passed (t : State) : State := match a.flow with
      | some (f, n) => { t with transport := { t.transport with
          flows := t.transport.flows.put (a.peer * 2 ^ 32 + f % 2 ^ 32) (n + 1) } }
      | none => t
    let told (t : State) (x : PeerAnswer) : State :=
      { t with outbox := t.outbox ++ [.toPeer a.peer a.message a.first x] }
    let kept (t : State) (n : Message) : State :=
      { t with transport := { t.transport with messages := t.transport.messages.put key n } }
    let res := exec (.receivePacket a) s
    let inside (b : Nat) : Prop := a.first ≤ b ∧ b < a.first + a.bytes.length
    (¬ known → res = .next { s with transport := { s.transport with discarded := s.transport.discarded + 1 } }) ∧
    (known → a.trimmed = true → res = .next (told s .trimmed)) ∧
    (∀ f n, known → a.trimmed = false → a.flow = some (f, n) → due f < n → res = .next s) ∧
    (∀ f n, known → a.trimmed = false → a.flow = some (f, n) → n < due f →
      res = .next (told s (if m.refused then .refused else .acknowledged))) ∧
    (known → a.trimmed = false → (∀ f n, a.flow = some (f, n) → due f = n) →
      (s.transport.windows.lookup a.window = none ∨ m.refused = true ∨ m.length < a.first + a.bytes.length ∨
          (∃ w, s.transport.windows.lookup a.window = some w ∧ w.length < a.offset + a.first + a.bytes.length) →
        res = .next (told (passed (kept s { m with refused := true })) .refused)) ∧
      ∀ w, s.transport.windows.lookup a.window = some w → m.refused = false →
        a.first + a.bytes.length ≤ m.length → a.offset + a.first + a.bytes.length ≤ w.length →
        let va := w.base + BitVec.ofNat 64 (a.offset + a.first)
        let already := (∀ b, inside b → covered m b) ∧ a.mode ≠ 2
        (∀ s1 : State, (already → s1 = s) →
          (¬ already → Placed w.space va.toNat a.bytes (pieces va.toNat a.bytes.length) s s1) →
          ∃ n : Message, n = { m with placed := n.placed, counted := n.counted } ∧
            (∀ b, covered n b ↔ covered m b ∨ inside b) ∧
            (n.counted = true ↔ m.counted = true ∨ ∀ b < m.length, covered n b) ∧
            (m.counted = n.counted → res = .next (told (passed (kept s1 n)) .acknowledged)) ∧
            (m.counted ≠ n.counted →
              ((kept s1 n).wordAt w.space w.counter = none → res = .next (told (passed (kept s1 n)) .acknowledged)) ∧
              ∀ pa, (kept s1 n).wordAt w.space w.counter = some pa →
                let got := (kept s1 n).releaseHome.l2Read pa 8
                res = .next (told (passed (got.1.l2Write pa (leBytes 8 (leNat got.2 + 1)))) .acknowledged))) ∧
        ∀ s1 runs, s.writeEngine w.space va a.bytes = (s1, runs) →
          let n : Message := { m with placed := m.placed ++ runs.map fun r => (a.first + r.1, r.2) }
          (∃ b, inside b ∧ ¬ covered n b) → res = .next (kept s1 n))) ∧
  ∀ (s : State) (space : Nat) (va : DWord) (bs : List Byte),
    (∀ t, Placed space va.toNat bs (pieces va.toNat bs.length) s t → s.writeEngine space va bs =
      (t, (pieces va.toNat bs.length).map fun p => (p.1 - va.toNat, p.2))) ∧
    ((∀ (t : State) (p : Nat × Nat), p ∈ pieces va.toNat bs.length →
        ∀ pa st bc, (t.translateBare space (BitVec.ofNat 64 p.1) .write).2 = .ok pa st bc → inDram pa = false) →
      (s.writeEngine space va bs).2 = [])

/-! ### Reliability -/

/-- The package still holds a column and a memory stack that have passed every stage up to `k` (R355). -/
def usableAfter (failing : List (Nat × Part)) (k : Nat) : Prop :=
  (∃ n < 384, ∀ j, 1 ≤ j → j ≤ k → (j, Part.column n) ∉ failing) ∧
  ∃ n < 8, ∀ j, 1 ≤ j → j ≤ k → (j, Part.memoryStack n) ∉ failing

/-- A part that is up, or whose bring-up has stopped, goes into reset first: stage 0 without `READY`, every interleave mode and
the staging region at their reset values, nothing resident, every cache and register at its reset value, so that the host
configures the next boot (R22, R174, R354). That memory and flash stand as they are, and that reset and bring-up are two
steps, are the model's choices (log 28). -/
def Sys2Proof.Claims.ResetIsEntered : Prop :=
  ∀ (failing : List (Nat × Part)) (s : State), s.foreman.stage ≠ 0 → Completes (exec (.reset failing) s) fun s' =>
    s' = { State.reset with
      mem := s.mem, badLines := s.badLines, flashMem := s.flashMem, flash := s'.flash, agenda := s.agenda, serial := s.serial,
      draws := s.draws } ∧
    s'.foreman.stage = 0 ∧ s'.ready = false ∧ s'.modes = List.replicate 12 false ∧ s'.stagingGib = 48 ∧ s'.time = 0 ∧
    ∀ f, s'.flash.lookup f = (s.flash.lookup f).map fun x => { x with installs := [], commits := [], locked := [] }

/-- Bring-up out of stage 0: the stages run in ascending order, and a unit that fails one of them is out of service; a stage
after which no column or no memory stack is left stops bring-up there, so that `READY` stays clear; otherwise stage 5 and
`READY` come together, with bit 1 where a unit was left out. The modes and the staging region are those that the host gave at
stage 0. Stage 4, where it is reached, zeroes the package's memory; the caches are empty and nothing is resident; `$time`
starts at 0; a pair of slices that is out is reported (R17, R22, R26, R174, R354, R355). That memory stands as it was where
bring-up stops earlier, that flash keeps its content, and that address space 0 and the save pool given at stage 0 stay are the
model's choices (log 28). -/
def Sys2Proof.Claims.StagesRun : Prop :=
  ∀ (failing : List (Nat × Part)) (s : State), s.foreman.stage = 0 → Completes (exec (.reset failing) s) fun s' =>
    let fails (u : Part) : Prop := ∃ k, 1 ≤ k ∧ k ≤ 4 ∧ k ≤ s'.foreman.stage ∧ (k, u) ∈ failing
    (usableAfter failing 4 → s'.foreman.stage = 5) ∧
    (∀ k, 1 ≤ k → k ≤ 4 → ¬ usableAfter failing k → (k = 1 ∨ usableAfter failing (k - 1)) → s'.foreman.stage = k) ∧
    (s'.ready = true ↔ s'.foreman.stage = 5) ∧
    (∀ k, 1 ≤ k → k ≤ 4 → ((∀ n < 8, (k, Part.memoryStack n) ∈ failing) ∨ ∀ n < 384, (k, Part.column n) ∈ failing) →
      s'.foreman.stage ≤ k ∧ s'.ready = false) ∧
    (∀ n, n ∈ s'.columnsOut ↔ n < 384 ∧ fails (.column n)) ∧
    (∀ n, n ∈ s'.stacksOut ↔ n < 8 ∧ fails (.memoryStack n)) ∧
    (∀ n, n ∈ s'.slicesOut ↔ n < 384 ∧ fails (.slice n)) ∧
    (∀ n, n ∈ s'.banksOut ↔ n < 16384 ∧ fails (.bank n)) ∧
    (∀ n, n ∈ s'.flashOut ↔ n < 4 ∧ fails (.flashStack n)) ∧
    (∀ n, n ∈ s'.remapped ↔ n ∈ s'.slicesOut ∧ n ^^^ 1 ∉ s'.slicesOut) ∧
    (s'.foreman.calibration = true ↔ s'.foreman.stage = 5 ∧ ∃ f ∈ failing, 1 ≤ f.1 ∧ f.1 ≤ 4 ∧ isPart f.2 = true) ∧
    (4 ≤ s'.foreman.stage → ∀ a, s'.mem.read a = if inHost a then s.mem.read a else 0) ∧
    (s'.foreman.stage < 4 → s'.mem = s.mem) ∧
    s'.outbox = s.outbox ++
      (s'.slicesOut.filter fun n => s'.slicesOut.contains (n ^^^ 1)).map (fun n => .faulty (.slice n) []) ∧
    s'.time = 0 ∧ s'.modes = s.modes ∧ s'.stagingGib = s.stagingGib ∧ s'.link = s.link ∧
    s'.foreman.spaces = s.foreman.spaces ∧ s'.foreman.savePool = s.foreman.savePool ∧
    s'.flashMem = s.flashMem ∧ s'.groups = [] ∧ s'.teams = [] ∧ s'.clusters = [] ∧ s'.grids = [] ∧
    s'.nextLaunch = 0x80000000 ∧ s'.staging = [] ∧ s'.flaws = [] ∧
    ∀ n, s'.core n = Core.initial ∧ s'.slice n = Slice.initial

/-- Reset is entered, and the stages run out of it: all of the statements just given. -/
def Obligations.ResetBringsUp : Prop :=
  Sys2Proof.Claims.ResetIsEntered ∧ Sys2Proof.Claims.StagesRun

/-- The leaf that the tables of a root hold for an address, read at the homes, with the log2 of its size (R104, R106). -/
def leafAt (s : State) (va : Nat) : List (Nat × Nat) → Nat → Option (Nat × Nat)
  | [], _ => none
  | (shift, width) :: rest, table =>
    let e := leNat (s.peek (table + va / 2 ^ shift % 2 ^ width * 8) 8)
    if malformed shift e || e % 2 == 0 then none
    else if shift = 16 || e / 2 % 2 == 1 then some (shift, e)
    else leafAt s va rest (entryAddr e)

/-- A page of a registered address space, by its first address, maps bytes of a bank (R104, R106, R357). -/
def mapsBank (s : State) (bank space va : Nat) : Prop :=
  ∃ root low size e, (space, root) ∈ s.foreman.spaces ∧ low < 2 ^ 48 ∧ low % 2 ^ size = 0 ∧
    va = ((BitVec.ofNat 48 low).signExtend 64).toNat ∧
    leafAt s low [(39, 9), (30, 9), (21, 9), (16, 5)] root = some (size, e) ∧
    ∃ k < 2 ^ size / 256, inDram (entryAddr e + 256 * k) = true ∧ s.bankOf (entryAddr e + 256 * k) = bank

/-- Correctable events are counted over 2^20 µs against a column, slice, bank or erase block; a unit whose count has reached
its threshold, and which is in service, is taken out of service: the flag is set, it is reported, and an erase block's
extent never returns; with a bank the pages that map it are reported, with the second slice of a pair both slices; a slice
out of service whose pair is in service is remapped once nothing is resident; until then nothing is placed (R26, R104, R106,
R182, R356, R357). That placement goes on where both slices of a pair are out, and no remap can come, is the model's choice
(log 77). -/
def Obligations.UnitsLeaveService : Prop :=
  ∀ s : State,
    let recent := s.foreman.events.filter fun e => decide (s.time < e.2 + 104857600)
    (∀ u, faultThreshold u = none → exec (.correctableEvent u) s = .next s ∧ exec (.lastingFaulty u) s = .next s) ∧
    (∀ u n, faultThreshold u = some n →
      exec (.correctableEvent u) s = .next { s with foreman := { s.foreman with events := (u, s.time) :: recent } } ∧
      (recent.countP (fun e => e.1 = u) < n → exec (.lastingFaulty u) s = .next s)) ∧
    (∀ n, n ∈ s.columnsOut → exec (.lastingFaulty (.column n)) s = .next s) ∧
    (∀ n, n ∉ s.columnsOut → 64 ≤ recent.countP (fun e => e.1 = .column n) →
      (∀ t ∈ s.teams, t.2.core ≠ n) → Completes (exec (.lastingFaulty (.column n)) s) fun s' => ∃ s1,
        MemorySystem s s1 ∧ s' = { s1 with
          columnsOut := n :: s.columnsOut, foreman := { s.foreman with outFlag := true },
          outbox := s.outbox ++ [.faulty (.column n) []] } ∧
        dirtyLines (s'.core n).l1 = [] ∧ dirtyLines (s'.core n).column = []) ∧
    (∀ n, n ∉ s.slicesOut → n ^^^ 1 ∉ s.slicesOut → 256 ≤ recent.countP (fun e => e.1 = .slice n) →
      exec (.lastingFaulty (.slice n)) s = .next { s with
        slicesOut := n :: s.slicesOut, foreman := { s.foreman with outFlag := true },
        outbox := s.outbox ++ [.faulty (.slice n) []] }) ∧
    (∀ n, n ∉ s.slicesOut → n ^^^ 1 ∈ s.slicesOut → 256 ≤ recent.countP (fun e => e.1 = .slice n) →
      exec (.lastingFaulty (.slice n)) s = .next { s with
        slicesOut := n :: s.slicesOut, foreman := { s.foreman with outFlag := true },
        outbox := s.outbox ++ [.faulty (.slice n) [], .faulty (.slice (n ^^^ 1)) []] }) ∧
    (∀ n, n ∉ s.banksOut → 32 ≤ recent.countP (fun e => e.1 = .bank n) → Completes (exec (.lastingFaulty (.bank n)) s)
      fun s' => ∃ pages : List (Nat × Nat), s' = { s with
        banksOut := n :: s.banksOut, foreman := { s.foreman with outFlag := true },
        outbox := s.outbox ++ [.faulty (.bank n) pages] } ∧
        ∀ space va, (space, va) ∈ pages ↔ mapsBank s n space va) ∧
    (∀ f n, 16 ≤ recent.countP (fun e => e.1 = .eraseBlock f n) → n ∉ (s.flash.at f Flash.initial).retired →
      Completes (exec (.lastingFaulty (.eraseBlock f n)) s) fun s' => ∃ fl, s' = { s with
          flash := s.flash.put f fl, foreman := { s.foreman with outFlag := true },
          outbox := s.outbox ++ [.faulty (.eraseBlock f n) []] } ∧
        n ∈ fl.retired ∧ n / 4 ∈ fl.gone ∧ fl.map = (s.flash.at f Flash.initial).map) ∧
    ((∀ n ∈ s.slicesOut, n ∈ s.remapped ∨ n ^^^ 1 ∈ s.slicesOut) → s.link.up = true → s.placesNothing = false) ∧
    ∀ n, (n ∈ s.slicesOut ∧ n ∉ s.remapped ∧ n ^^^ 1 ∉ s.slicesOut → s.placesNothing = true) ∧
      ((n ∉ s.slicesOut ∨ n ∈ s.remapped ∨ n ^^^ 1 ∈ s.slicesOut ∨ ∃ c ∈ s.clusters, c.2.resident = true) →
        exec (.sliceRemap n) s = .next s) ∧
      (n ∈ s.slicesOut → n ∉ s.remapped → n ^^^ 1 ∉ s.slicesOut → (∀ c ∈ s.clusters, c.2.resident = false) →
        (s.windows.filter fun w => decide (s.home w.1 = n)) = [] → Completes (exec (.sliceRemap n) s) fun s' =>
          ∃ s1, MemorySystem s s1 ∧ s' = { s1 with remapped := n :: s.remapped, slices := s'.slices } ∧
            s'.slice n = Slice.initial ∧ ∀ k, k ≠ n → s'.slice k = s1.slice k)

/-- Sensors and throttling: a reading more than 12 degrees off the median of its neighbours is a strike, three in a row mark
the sensor failed; a failed sensor's column counts as the hottest of its neighbours and 8 degrees more, and a column whose
neighbours have all failed as 120 degrees; the level follows the temperature, from 86 degrees a step for every two, 15 from
114; it takes effect at a 16-cycle boundary; a column at 120 degrees on ten readings at level 15 leaves service; more than
2,400 W raises every level by one for 1 ms (R359, R360). That a second such report sets the end anew and raises nothing more
is the model's choice (log 29). -/
def Obligations.LevelsFollowSensors : Prop :=
  (∀ (column : Nat) (reading : Int) (s : State) (x : Sensor), column < 384 → s.foreman.sensors.lookup column = some x →
    x.failed = false → x.strikes < 3 → s.foreman.raiseEnd = none → s.alone column = false →
    let near := s.neighbourReadings column
    let off := ∃ m, median2 near = some m ∧ (24 < 2 * reading - m ∨ 2 * reading - m < -24)
    Completes (exec (.sensorReading column reading) s) fun s' => ∃ y,
      s' = { s with cores := s'.cores, foreman := { s.foreman with sensors := s.foreman.sensors.put column y } } ∧
      y.reading = reading ∧ (off → y.strikes = x.strikes + 1) ∧ (¬ off → y.strikes = 0) ∧ y.failed = false ∧
      (y.strikes < 3 → s'.core column = { s.core column with swallowNext := some (levelFor reading), raised := false } ∧
        y.hot = if (s.core column).swallow = 15 ∧ 120 ≤ reading then x.hot + 1 else 0) ∧
      ∀ k, k ≠ column → s'.core k = s.core k) ∧
  (∀ (column : Nat) (reading : Int) (s : State), column < 384 → s.foreman.raiseEnd = none →
    (s.alone column = true ↔ ∀ k ∈ meshNeighbours column, ∃ x, s.foreman.sensors.lookup k = some x ∧
      (x.failed = true ∨ 3 ≤ x.strikes)) ∧
    (s.alone column = true → Completes (exec (.sensorReading column reading) s) fun s' =>
      s'.core column = { s.core column with swallowNext := some 15, raised := false }) ∧
    ∀ x a r, s.alone column = false → s.foreman.sensors.lookup column = some x → x.failed = true →
      s.neighbourReadings column = a :: r → Completes (exec (.sensorReading column reading) s) fun s' =>
        s'.core column = { s.core column with swallowNext := some (levelFor (r.foldl max a + 8)), raised := false } ∧
        ∃ y, s'.foreman.sensors.lookup column = some y ∧ y.failed = true) ∧
  (∀ (column : Nat) (s : State) (x : Sensor), s.foreman.sensors.lookup column = some x →
    Completes (exec (.sensorFailed column) s) fun s' => s' =
        { s with foreman := { s.foreman with sensors := s'.foreman.sensors } } ∧
      s'.foreman.sensors.lookup column = some (if 3 ≤ x.strikes then { x with failed := true } else x) ∧
      ∀ k, k ≠ column → s'.foreman.sensors.lookup k = s.foreman.sensors.lookup k) ∧
  (∀ (column : Nat) (s : State),
    (s.cycles % 16 ≠ 0 ∨ (s.core column).swallowNext = none → exec (.swallowLevelApply column) s = .next s) ∧
    ∀ l, s.cycles % 16 = 0 → (s.core column).swallowNext = some l → exec (.swallowLevelApply column) s = .next
      { s with cores := s.cores.put column { s.core column with swallow := l, swallowNext := none } }) ∧
  (∀ (column : Nat) (s : State),
    ((∀ x, s.foreman.sensors.lookup column = some x → x.hot < 10) ∨ column ∈ s.columnsOut ∨ 384 ≤ column →
      exec (.columnOverheat column) s = .next s) ∧
    ∀ x, s.foreman.sensors.lookup column = some x → 10 ≤ x.hot → column ∉ s.columnsOut → column < 384 →
      (∀ t ∈ s.teams, t.2.core ≠ column) → Completes (exec (.columnOverheat column) s) fun s' =>
        s'.columnsOut = column :: s.columnsOut ∧ s'.foreman.outFlag = true ∧
        s'.outbox = s.outbox ++ [.faulty (.column column) []]) ∧
  ∀ (watts : Nat) (s : State),
    (watts ≤ 2400 → exec (.powerOverLimit watts) s = .next s) ∧
    (2400 < watts → Completes (exec (.powerOverLimit watts) s) fun s' =>
      s' = { s with cores := s'.cores, foreman := { s.foreman with raiseEnd := some (s.time + 100000) } } ∧
      ∀ n < 384, ((s'.core n).swallowNext.getD (s'.core n).swallow) =
        if s.foreman.raiseEnd = none then min 15 ((s.core n).swallowNext.getD (s.core n).swallow + 1)
        else (s.core n).swallowNext.getD (s.core n).swallow) ∧
    (s.foreman.raiseEnd = none → exec .powerRaiseEnd s = .next s) ∧
    ∀ t, s.foreman.raiseEnd = some t →
      (s.time < t → exec .powerRaiseEnd s = .next s) ∧
      (t ≤ s.time → Completes (exec .powerRaiseEnd s) fun s' =>
        s' = { s with cores := s'.cores, foreman := { s.foreman with raiseEnd := none } } ∧
        ∀ n < 384, ((s'.core n).swallowNext.getD (s'.core n).swallow) =
          if (s.core n).raised then (s.core n).swallowNext.getD (s.core n).swallow - 1
          else (s.core n).swallowNext.getD (s.core n).swallow)
end

