-- ==== Sys2Proof/Laws/Access.lean ====
section
/-! SUPPORT. Laws of the lanes' accesses: which of them find lost memory at their turn, one fold and one recursion for it, and
idle releases and acquires. -/

namespace Sys2Proof.Machine

@[simp] theorem lostIn_nil {α : Type} (bad : State → α → Bool) (act : State → α → State) (s : State) :
    lostIn bad act s [] = [] := rfl

theorem lostIn_cons_lost {α : Type} (bad : State → α → Bool) (act : State → α → State) (s : State) (a : α) (r : List α)
    (h : bad s a = true) : lostIn bad act s (a :: r) = a :: lostIn bad act s r := by simp [lostIn, h]

theorem lostIn_cons_kept {α : Type} (bad : State → α → Bool) (act : State → α → State) (s : State) (a : α) (r : List α)
    (h : bad s a = false) : lostIn bad act s (a :: r) = lostIn bad act (act s a) r := by simp [lostIn, h]

/-- The lost steps are a part of the steps, in their order. -/
theorem lostIn_sublist {α : Type} (bad : State → α → Bool) (act : State → α → State) (as : List α) :
    ∀ s, (lostIn bad act s as).Sublist as := by
  induction as with
  | nil => intro s; exact .slnil
  | cons a r ih =>
    intro s
    cases h : bad s a
    · rw [lostIn_cons_kept _ _ _ _ _ h]; exact (ih _).cons a
    · rw [lostIn_cons_lost _ _ _ _ _ h]; exact (ih _).cons_cons a

/-- The same as one fold that carries the state and the steps lost so far. -/
theorem lostIn_eq_foldl {α : Type} (bad : State → α → Bool) (act : State → α → State) (as : List α) :
    ∀ (s : State) (out : List α),
      (as.foldl (fun q a => if bad q.1 a then (q.1, q.2 ++ [a]) else (act q.1 a, q.2)) (s, out)).2 =
        out ++ lostIn bad act s as := by
  induction as with
  | nil => intro s out; simp
  | cons a r ih =>
    intro s out
    cases h : bad s a
    · simp [lostIn_cons_kept _ _ _ _ _ h, h, ih]
    · simp [lostIn_cons_lost _ _ _ _ _ h, h, ih]

/-- With no active lane nothing is released or acquired (R119). -/
theorem releaseFor_idle (s : State) (i : Issue) (scope unit : Nat) (h : i.active = 0) :
    s.releaseFor i scope unit = s := by simp [State.releaseFor, h]

theorem acquireFor_idle (s : State) (i : Issue) (scope unit : Nat) (h : i.active = 0) :
    s.acquireFor i scope unit = s := by simp [State.acquireFor, h]

end Sys2Proof.Machine
end

