-- ==== Sys2Proof/Laws/Memory.lean ====
section
/-! SUPPORT. Laws of memory: reading after writing, and the canonical form that every operation keeps. -/

namespace Sys2Proof.Machine

theorem Memory.read_cons (a j : Nat) (w : Byte) (r : Memory) :
    Memory.read ((j, w) :: r) a = if a = j then w else Memory.read r a := by
  by_cases h : a = j
  · subst h; simp [Memory.read]
  · simp [Memory.read, List.lookup_cons, h, show (a == j) = false by simpa using h]

/-- An address below every listed one reads as 0. -/
theorem Memory.read_below (m : Memory) (a : Nat) (h : ∀ c ∈ m, a < c.1) : Memory.read m a = 0 := by
  induction m with
  | nil => rfl
  | cons p r ih =>
    rw [Memory.read_cons, if_neg (by have := h p (by simp); omega)]
    exact ih fun c hc => h c (by simp [hc])

/-- Every listed address is an old one or the one written. -/
theorem Memory.write_keys (m : Memory) (a : Nat) (b : Byte) :
    ∀ c ∈ m.write a b, c ∈ m ∨ (c = (a, b) ∧ b ≠ 0) := by
  induction m with
  | nil => intro c; rw [Memory.write]; split <;> simp_all
  | cons p r ih =>
    obtain ⟨j, w⟩ := p
    intro c hc
    rw [Memory.write] at hc
    split at hc
    · split at hc <;> simp_all; tauto
    · split at hc
      · split at hc <;> simp_all; tauto
      · rcases List.mem_cons.mp hc with rfl | h
        · simp
        · rcases ih c h with h | h
          · simp [h]
          · exact Or.inr h

/-- A write keeps the canonical form. -/
theorem Memory.wf_write (m : Memory) (a : Nat) (b : Byte) (h : m.wf) : (m.write a b).wf := by
  refine ⟨?_, fun c hc => ?_⟩
  · obtain ⟨hp, -⟩ := h
    induction m with
    | nil => rw [Memory.write]; split <;> simp
    | cons p r ih =>
      obtain ⟨j, w⟩ := p
      have hr := List.pairwise_cons.mp hp
      rw [Memory.write]
      split
      · split
        · exact hp
        · refine List.pairwise_cons.mpr ⟨fun c hc => ?_, hp⟩
          rcases List.mem_cons.mp hc with rfl | h'
          · assumption
          · have := hr.1 c h'; simp only at this ⊢; omega
      · split
        · subst_vars
          split
          · exact hr.2
          · exact List.pairwise_cons.mpr ⟨fun c hc => hr.1 c hc, hr.2⟩
        · refine List.pairwise_cons.mpr ⟨fun c hc => ?_, ih hr.2⟩
          rcases Memory.write_keys r a b c hc with h' | ⟨rfl, -⟩
          · exact hr.1 c h'
          · simp only; omega
  · rcases Memory.write_keys m a b c hc with h' | ⟨rfl, hb⟩
    · exact h.2 c h'
    · exact hb

/-- The byte just written reads back. -/
theorem Memory.read_write_same (m : Memory) (a : Nat) (b : Byte) (h : m.wf) : (m.write a b).read a = b := by
  obtain ⟨hp, -⟩ := h
  induction m with
  | nil => rw [Memory.write]; split <;> simp_all [Memory.read]
  | cons p r ih =>
    obtain ⟨j, w⟩ := p
    have hr := List.pairwise_cons.mp hp
    rw [Memory.write]
    split
    · split
      · subst_vars
        refine Memory.read_below _ _ fun c hc => ?_
        rcases List.mem_cons.mp hc with rfl | h'
        · assumption
        · have := hr.1 c h'; simp only at this; omega
      · simp [Memory.read_cons]
    · split
      · split
        · subst_vars; exact Memory.read_below _ _ fun c hc => hr.1 c hc
        · simp [Memory.read_cons]
      · rw [Memory.read_cons, if_neg ‹_›]; exact ih hr.2

/-- A write leaves every other byte alone. -/
theorem Memory.read_write_other (m : Memory) (a k : Nat) (b : Byte) (h : k ≠ a) : (m.write a b).read k = m.read k := by
  induction m with
  | nil => rw [Memory.write]; split <;> simp [Memory.read, List.lookup_cons, show (k == a) = false by simpa using h]
  | cons p r ih =>
    obtain ⟨j, w⟩ := p
    rw [Memory.write]
    split
    · split
      · rfl
      · rw [Memory.read_cons, if_neg h]
    · split
      · subst_vars
        split
        · rw [Memory.read_cons, if_neg h]
        · rw [Memory.read_cons, if_neg h, Memory.read_cons, if_neg h]
      · rw [Memory.read_cons, Memory.read_cons, ih]

theorem Memory.wf_writeBytes (bs : List Byte) : ∀ (m : Memory) (a : Nat), m.wf → (m.writeBytes a bs).wf := by
  induction bs with
  | nil => intro m a h; exact h
  | cons b r ih => intro m a h; exact ih _ _ (Memory.wf_write m a b h)

/-- Bytes outside those written read as before. -/
theorem Memory.read_writeBytes_other (bs : List Byte) : ∀ (m : Memory) (a k : Nat), k < a ∨ a + bs.length ≤ k →
    (m.writeBytes a bs).read k = m.read k := by
  induction bs with
  | nil => intro m a k _; rfl
  | cons b r ih =>
    intro m a k h
    rw [Memory.writeBytes, ih _ _ _ (by simp at h; omega), Memory.read_write_other _ _ _ _ (by simp at h; omega)]

/-- The bytes written read back. -/
theorem Memory.read_writeBytes (bs : List Byte) : ∀ (m : Memory) (a j : Nat), m.wf → (h : j < bs.length) →
    (m.writeBytes a bs).read (a + j) = bs[j] := by
  induction bs with
  | nil => intro m a j _ h; simp at h
  | cons b r ih =>
    intro m a j hm h
    cases j with
    | zero =>
      rw [Memory.writeBytes, Memory.read_writeBytes_other _ _ _ _ (by omega)]
      simpa using Memory.read_write_same m a b hm
    | succ j =>
      rw [Memory.writeBytes, show a + (j + 1) = a + 1 + j by omega]
      simpa using ih _ (a + 1) j (Memory.wf_write m a b hm) (by simpa using h)

/-- Dropping bytes keeps the canonical form. -/
theorem Memory.wf_filter (m : Memory) (p : Host.Cell → Bool) (h : m.wf) : Memory.wf (m.filter p) :=
  ⟨h.1.filter p, fun c hc => h.2 c (List.mem_of_mem_filter hc)⟩

end Sys2Proof.Machine
end

