-- ==== Sys2Proof/Laws/PerInstr.lean ====
section
/-! SUPPORT. What holds of every instruction as syntax, made per instruction: the opcode and the form of an instruction
build it again, so that no field of it is lost on the way to its words (R206, R208). -/

/-- The opcode and the form that an instruction is written with build that instruction. -/
def Sys2Proof.Laws.Rebuild.Statement (i : Sys2Proof.Instr) : Prop :=
  ∀ op f, i.form = some (op, f) → Sys2Proof.build op f = some i

namespace Sys2Proof.Laws.Rebuild

theorem nop (g : Guard) : Statement (.nop g) := by intro op f h; cases h; rfl
theorem bra (x : XC) : Statement (.bra x) := by intro op f h; cases h; rfl
theorem brx (x : XC) : Statement (.brx x) := by intro op f h; cases h; rfl
theorem call (x : XC) : Statement (.call x) := by intro op f h; cases h; rfl
theorem callx (x : XC) : Statement (.callx x) := by intro op f h; cases h; rfl
theorem ret (g : Guard) (prio : BitVec 8) : Statement (.ret g prio) := by
  intro op f h
  cases h
  simp only [build, buildN]
  rw [if_pos (by bv_omega)]
  congr 2
  bv_omega
theorem join (x : XC) : Statement (.join x) := by intro op f h; cases h; rfl
theorem exit (g : Guard) : Statement (.exit g) := by intro op f h; cases h; rfl
theorem trap (g : Guard) (n : BitVec 16) : Statement (.trap g n) := by
  intro op f h
  cases h
  simp only [build, buildN]
  rw [if_pos (by bv_omega)]
  congr 2
  bv_omega
theorem tret (g : Guard) : Statement (.tret g) := by intro op f h; cases h; rfl
theorem tretSkip (g : Guard) : Statement (.tretSkip g) := by intro op f h; cases h; rfl
theorem yield (g : Guard) : Statement (.yield g) := by intro op f h; cases h; rfl
theorem bar (x : XS) : Statement (.bar x) := by intro op f h; cases h; rfl
theorem rep (steps : BitVec 4) (count : BitVec 6) : Statement (.rep steps count) := by intro op f h; cases h; rfl
theorem bnz (x : XC) : Statement (.bnz x) := by intro op f h; cases h; rfl
theorem bz (x : XC) : Statement (.bz x) := by intro op f h; cases h; rfl
theorem pand (p : PForm) : Statement (.pand p) := by intro op f h; cases h; rfl
theorem por (p : PForm) : Statement (.por p) := by intro op f h; cases h; rfl
theorem pxor (p : PForm) : Statement (.pxor p) := by intro op f h; cases h; rfl
theorem pnot (p : PForm) : Statement (.pnot p) := by intro op f h; cases h; rfl
theorem pmov (p : PForm) : Statement (.pmov p) := by intro op f h; cases h; rfl
theorem pset (x : XA) : Statement (.pset x) := by intro op f h; cases h; rfl
theorem pget (x : XA) : Statement (.pget x) := by intro op f h; cases h; rfl
theorem vote (x : XA) : Statement (.vote x) := by intro op f h; cases h; rfl
theorem redx (x : XA) : Statement (.redx x) := by intro op f h; cases h; rfl
theorem scan (x : XA) : Statement (.scan x) := by intro op f h; cases h; rfl
theorem perm (x : XA) : Statement (.perm x) := by intro op f h; cases h; rfl
theorem push (x : XA) : Statement (.push x) := by intro op f h; cases h; rfl
theorem compress (x : XA) : Statement (.compress x) := by intro op f h; cases h; rfl
theorem rdlane (x : XA) : Statement (.rdlane x) := by intro op f h; cases h; rfl
theorem wrlane (x : XA) : Statement (.wrlane x) := by intro op f h; cases h; rfl
theorem lrot (x : XA) : Statement (.lrot x) := by intro op f h; cases h; rfl
theorem add (x : XA) : Statement (.add x) := by intro op f h; cases h; rfl
theorem sub (x : XA) : Statement (.sub x) := by intro op f h; cases h; rfl
theorem mul (x : XA) : Statement (.mul x) := by intro op f h; cases h; rfl
theorem mulhi (x : XA) : Statement (.mulhi x) := by intro op f h; cases h; rfl
theorem mad (x : XA) : Statement (.mad x) := by intro op f h; cases h; rfl
theorem madw (x : XA) : Statement (.madw x) := by intro op f h; cases h; rfl
theorem div (x : XA) : Statement (.div x) := by intro op f h; cases h; rfl
theorem rem (x : XA) : Statement (.rem x) := by intro op f h; cases h; rfl
theorem min (x : XA) : Statement (.min x) := by intro op f h; cases h; rfl
theorem max (x : XA) : Statement (.max x) := by intro op f h; cases h; rfl
theorem abs (x : XA) : Statement (.abs x) := by intro op f h; cases h; rfl
theorem neg (x : XA) : Statement (.neg x) := by intro op f h; cases h; rfl
theorem clamp (x : XA) : Statement (.clamp x) := by intro op f h; cases h; rfl
theorem sad (x : XA) : Statement (.sad x) := by intro op f h; cases h; rfl
theorem lea (x : XA) : Statement (.lea x) := by intro op f h; cases h; rfl
theorem cmp (x : XA) : Statement (.cmp x) := by intro op f h; cases h; rfl
theorem and (x : XA) : Statement (.and x) := by intro op f h; cases h; rfl
theorem or (x : XA) : Statement (.or x) := by intro op f h; cases h; rfl
theorem xor (x : XA) : Statement (.xor x) := by intro op f h; cases h; rfl
theorem not (x : XA) : Statement (.not x) := by intro op f h; cases h; rfl
theorem andn (x : XA) : Statement (.andn x) := by intro op f h; cases h; rfl
theorem shl (x : XA) : Statement (.shl x) := by intro op f h; cases h; rfl
theorem shr (x : XA) : Statement (.shr x) := by intro op f h; cases h; rfl
theorem rotl (x : XA) : Statement (.rotl x) := by intro op f h; cases h; rfl
theorem popc (x : XA) : Statement (.popc x) := by intro op f h; cases h; rfl
theorem clz (x : XA) : Statement (.clz x) := by intro op f h; cases h; rfl
theorem ctz (x : XA) : Statement (.ctz x) := by intro op f h; cases h; rfl
theorem bfx (x : XA) : Statement (.bfx x) := by intro op f h; cases h; rfl
theorem bfi (x : XA) : Statement (.bfi x) := by intro op f h; cases h; rfl
theorem brev (x : XA) : Statement (.brev x) := by intro op f h; cases h; rfl
theorem sel (x : XA) : Statement (.sel x) := by intro op f h; cases h; rfl
theorem mov (g : Guard) (wide : Bool) (d a : BitVec 8) : Statement (.mov g wide d a) := by
  intro op f h; cases h; rfl
theorem movLiteral (g : Guard) (wide : Bool) (d : BitVec 8) (lit : DWord) : Statement (.movLiteral g wide d lit) := by
  intro op f h; cases h; rfl
theorem uadd (x : XA) : Statement (.uadd x) := by intro op f h; cases h; rfl
theorem usub (x : XA) : Statement (.usub x) := by intro op f h; cases h; rfl
theorem umul (x : XA) : Statement (.umul x) := by intro op f h; cases h; rfl
theorem umad (x : XA) : Statement (.umad x) := by intro op f h; cases h; rfl
theorem udiv (x : XA) : Statement (.udiv x) := by intro op f h; cases h; rfl
theorem urem (x : XA) : Statement (.urem x) := by intro op f h; cases h; rfl
theorem umin (x : XA) : Statement (.umin x) := by intro op f h; cases h; rfl
theorem umax (x : XA) : Statement (.umax x) := by intro op f h; cases h; rfl
theorem uand (x : XA) : Statement (.uand x) := by intro op f h; cases h; rfl
theorem uor (x : XA) : Statement (.uor x) := by intro op f h; cases h; rfl
theorem uxor (x : XA) : Statement (.uxor x) := by intro op f h; cases h; rfl
theorem ushl (x : XA) : Statement (.ushl x) := by intro op f h; cases h; rfl
theorem ushr (x : XA) : Statement (.ushr x) := by intro op f h; cases h; rfl
theorem ucmp (x : XA) : Statement (.ucmp x) := by intro op f h; cases h; rfl
theorem usel (x : XA) : Statement (.usel x) := by intro op f h; cases h; rfl
theorem umov (g : Guard) (d a : BitVec 8) : Statement (.umov g d a) := by intro op f h; cases h; rfl
theorem umovLiteral (g : Guard) (d : BitVec 8) (lit : DWord) : Statement (.umovLiteral g d lit) := by
  intro op f h; cases h; rfl
theorem ucvt (x : XA) : Statement (.ucvt x) := by intro op f h; cases h; rfl
theorem upopc (x : XA) : Statement (.upopc x) := by intro op f h; cases h; rfl
theorem uclz (x : XA) : Statement (.uclz x) := by intro op f h; cases h; rfl
theorem ubfx (x : XA) : Statement (.ubfx x) := by intro op f h; cases h; rfl
theorem fadd (x : XA) : Statement (.fadd x) := by intro op f h; cases h; rfl
theorem fsub (x : XA) : Statement (.fsub x) := by intro op f h; cases h; rfl
theorem fmul (x : XA) : Statement (.fmul x) := by intro op f h; cases h; rfl
theorem fma (x : XA) : Statement (.fma x) := by intro op f h; cases h; rfl
theorem fmin (x : XA) : Statement (.fmin x) := by intro op f h; cases h; rfl
theorem fmax (x : XA) : Statement (.fmax x) := by intro op f h; cases h; rfl
theorem fabs (x : XA) : Statement (.fabs x) := by intro op f h; cases h; rfl
theorem fneg (x : XA) : Statement (.fneg x) := by intro op f h; cases h; rfl
theorem fcmp (x : XA) : Statement (.fcmp x) := by intro op f h; cases h; rfl
theorem fdiv (x : XA) : Statement (.fdiv x) := by intro op f h; cases h; rfl
theorem fsqrt (x : XA) : Statement (.fsqrt x) := by intro op f h; cases h; rfl
theorem frcp (x : XA) : Statement (.frcp x) := by intro op f h; cases h; rfl
theorem frsq (x : XA) : Statement (.frsq x) := by intro op f h; cases h; rfl
theorem frnd (x : XA) : Statement (.frnd x) := by intro op f h; cases h; rfl
theorem fclass (x : XA) : Statement (.fclass x) := by intro op f h; cases h; rfl
theorem fsgn (x : XA) : Statement (.fsgn x) := by intro op f h; cases h; rfl
theorem fexp2 (x : XA) : Statement (.fexp2 x) := by intro op f h; cases h; rfl
theorem flog2 (x : XA) : Statement (.flog2 x) := by intro op f h; cases h; rfl
theorem fsin (x : XA) : Statement (.fsin x) := by intro op f h; cases h; rfl
theorem fcos (x : XA) : Statement (.fcos x) := by intro op f h; cases h; rfl
theorem ftanh (x : XA) : Statement (.ftanh x) := by intro op f h; cases h; rfl
theorem fsig (x : XA) : Statement (.fsig x) := by intro op f h; cases h; rfl
theorem fsilu (x : XA) : Statement (.fsilu x) := by intro op f h; cases h; rfl
theorem fgelu (x : XA) : Statement (.fgelu x) := by intro op f h; cases h; rfl
theorem cvt (x : XA) : Statement (.cvt x) := by intro op f h; cases h; rfl
theorem cvtsc (x : XA) : Statement (.cvtsc x) := by intro op f h; cases h; rfl
theorem pack (x : XA) : Statement (.pack x) := by intro op f h; cases h; rfl
theorem unpack (x : XA) : Statement (.unpack x) := by intro op f h; cases h; rfl
theorem bperm (x : XA) : Statement (.bperm x) := by intro op f h; cases h; rfl
theorem tern (x : XA) : Statement (.tern x) := by intro op f h; cases h; rfl
theorem fdot2 (x : XA) : Statement (.fdot2 x) := by intro op f h; cases h; rfl
theorem fdot4 (x : XA) : Statement (.fdot4 x) := by intro op f h; cases h; rfl
theorem hadd (x : XA) : Statement (.hadd x) := by intro op f h; cases h; rfl
theorem hsub (x : XA) : Statement (.hsub x) := by intro op f h; cases h; rfl
theorem hmul (x : XA) : Statement (.hmul x) := by intro op f h; cases h; rfl
theorem hfma (x : XA) : Statement (.hfma x) := by intro op f h; cases h; rfl
theorem hmin (x : XA) : Statement (.hmin x) := by intro op f h; cases h; rfl
theorem hmax (x : XA) : Statement (.hmax x) := by intro op f h; cases h; rfl
theorem habs (x : XA) : Statement (.habs x) := by intro op f h; cases h; rfl
theorem hneg (x : XA) : Statement (.hneg x) := by intro op f h; cases h; rfl
theorem hcmp (x : XA) : Statement (.hcmp x) := by intro op f h; cases h; rfl
theorem hcvt (x : XA) : Statement (.hcvt x) := by intro op f h; cases h; rfl
theorem hexp2 (x : XA) : Statement (.hexp2 x) := by intro op f h; cases h; rfl
theorem hrcp (x : XA) : Statement (.hrcp x) := by intro op f h; cases h; rfl
theorem ufadd (x : XA) : Statement (.ufadd x) := by intro op f h; cases h; rfl
theorem ufmul (x : XA) : Statement (.ufmul x) := by intro op f h; cases h; rfl
theorem ufma (x : XA) : Statement (.ufma x) := by intro op f h; cases h; rfl
theorem ufmin (x : XA) : Statement (.ufmin x) := by intro op f h; cases h; rfl
theorem ufmax (x : XA) : Statement (.ufmax x) := by intro op f h; cases h; rfl
theorem ufcmp (x : XA) : Statement (.ufcmp x) := by intro op f h; cases h; rfl
theorem ufcvt (x : XA) : Statement (.ufcvt x) := by intro op f h; cases h; rfl
theorem ldG (x : XM) : Statement (.ldG x) := by intro op f h; cases h; rfl
theorem ldS (x : XM) : Statement (.ldS x) := by intro op f h; cases h; rfl
theorem ldC (x : XM) : Statement (.ldC x) := by intro op f h; cases h; rfl
theorem ldF (x : XM) : Statement (.ldF x) := by intro op f h; cases h; rfl
theorem ldP (x : XM) : Statement (.ldP x) := by intro op f h; cases h; rfl
theorem stG (x : XM) : Statement (.stG x) := by intro op f h; cases h; rfl
theorem stS (x : XM) : Statement (.stS x) := by intro op f h; cases h; rfl
theorem stC (x : XM) : Statement (.stC x) := by intro op f h; cases h; rfl
theorem stF (x : XM) : Statement (.stF x) := by intro op f h; cases h; rfl
theorem stP (x : XM) : Statement (.stP x) := by intro op f h; cases h; rfl
theorem atom (x : XM) : Statement (.atom x) := by intro op f h; cases h; rfl
theorem cas (x : XM) : Statement (.cas x) := by intro op f h; cases h; rfl
theorem ared (x : XM) : Statement (.ared x) := by intro op f h; cases h; rfl
theorem ldu (x : XM) : Statement (.ldu x) := by intro op f h; cases h; rfl
theorem stu (x : XM) : Statement (.stu x) := by intro op f h; cases h; rfl
theorem prf (x : XM) : Statement (.prf x) := by intro op f h; cases h; rfl
theorem uatom (x : XM) : Statement (.uatom x) := by intro op f h; cases h; rfl
theorem ucas (x : XM) : Statement (.ucas x) := by intro op f h; cases h; rfl
theorem rel (x : XM) : Statement (.rel x) := by intro op f h; cases h; rfl
theorem acq (x : XM) : Statement (.acq x) := by intro op f h; cases h; rfl
theorem fence (x : XM) : Statement (.fence x) := by intro op f h; cases h; rfl
theorem clean (x : XM) : Statement (.clean x) := by intro op f h; cases h; rfl
theorem inval (x : XM) : Statement (.inval x) := by intro op f h; cases h; rfl
theorem cinv (x : XM) : Statement (.cinv x) := by intro op f h; cases h; rfl
theorem qfence (x : XS) : Statement (.qfence x) := by intro op f h; cases h; rfl
theorem nfence (g : Guard) : Statement (.nfence g) := by intro op f h; cases h; rfl
theorem xlinv (x : XM) : Statement (.xlinv x) := by intro op f h; cases h; rfl
theorem icinv (x : XS) : Statement (.icinv x) := by intro op f h; cases h; rfl
theorem mcall (x : XS) : Statement (.mcall x) := by intro op f h; cases h; rfl
theorem dot (bank : Nat) : Statement (.dot bank) := by intro op f h; cases h
theorem axpy (bank : Nat) : Statement (.axpy bank) := by intro op f h; cases h
theorem addv (bank : Nat) : Statement (.addv bank) := by intro op f h; cases h
theorem scale (bank : Nat) : Statement (.scale bank) := by intro op f h; cases h
theorem fill (bank : Nat) : Statement (.fill bank) := by intro op f h; cases h
theorem red (bank : Nat) : Statement (.red bank) := by intro op f h; cases h
theorem cmpscan (bank : Nat) : Statement (.cmpscan bank) := by intro op f h; cases h
theorem vadd (bank : Nat) : Statement (.vadd bank) := by intro op f h; cases h
theorem walk (stack : Nat) : Statement (.walk stack) := by intro op f h; cases h
theorem assay (stack : Nat) : Statement (.assay stack) := by intro op f h; cases h
theorem mcallReply (ticket : Nat) : Statement (.mcallReply ticket) := by intro op f h; cases h
theorem nadd (x : XM) : Statement (.nadd x) := by intro op f h; cases h; rfl
theorem naddPerform (stack : Nat) : Statement (.naddPerform stack) := by intro op f h; cases h
theorem winit (x : XS) : Statement (.winit x) := by intro op f h; cases h; rfl
theorem wpush (x : XS) : Statement (.wpush x) := by intro op f h; cases h; rfl
theorem wread (x : XS) : Statement (.wread x) := by intro op f h; cases h; rfl
theorem wlen (x : XS) : Statement (.wlen x) := by intro op f h; cases h; rfl
theorem wfree (x : XS) : Statement (.wfree x) := by intro op f h; cases h; rfl
theorem winitAtHome (core : Nat) : Statement (.winitAtHome core) := by intro op f h; cases h
theorem wpushAtHome (core : Nat) : Statement (.wpushAtHome core) := by intro op f h; cases h
theorem wreadAtHome (core : Nat) : Statement (.wreadAtHome core) := by intro op f h; cases h
theorem wlenAtHome (core : Nat) : Statement (.wlenAtHome core) := by intro op f h; cases h
theorem wfreeAtHome (core : Nat) : Statement (.wfreeAtHome core) := by intro op f h; cases h
theorem finstall (x : XS) : Statement (.finstall x) := by intro op f h; cases h; rfl
theorem flashInstall (stack : Nat) (failing : List Nat) : Statement (.flashInstall stack failing) := by
  intro op f h; cases h
theorem installPermitTimeout (stack : Nat) : Statement (.installPermitTimeout stack) := by intro op f h; cases h
theorem fstat (x : XS) : Statement (.fstat x) := by intro op f h; cases h; rfl
theorem gang (x : XS) : Statement (.gang x) := by intro op f h; cases h; rfl
theorem segtab (x : XS) : Statement (.segtab x) := by intro op f h; cases h; rfl
theorem segtabApply (core : Nat) : Statement (.segtabApply core) := by intro op f h; cases h
theorem wload (x : XS) : Statement (.wload x) := by intro op f h; cases h; rfl
theorem wloadLatch (core : Nat) : Statement (.wloadLatch core) := by intro op f h; cases h
theorem mma (x : XS) : Statement (.mma x) := by intro op f h; cases h; rfl
theorem mmaOperation (core : Nat) : Statement (.mmaOperation core) := by intro op f h; cases h
theorem accrd (x : XS) : Statement (.accrd x) := by intro op f h; cases h; rfl
theorem accwr (x : XS) : Statement (.accwr x) := by intro op f h; cases h; rfl
theorem accz (x : XS) : Statement (.accz x) := by intro op f h; cases h; rfl
theorem accrdPerform (core : Nat) : Statement (.accrdPerform core) := by intro op f h; cases h
theorem accwrPerform (core : Nat) : Statement (.accwrPerform core) := by intro op f h; cases h
theorem acczPerform (core : Nat) : Statement (.acczPerform core) := by intro op f h; cases h
theorem epld (x : XS) : Statement (.epld x) := by intro op f h; cases h; rfl
theorem epldApply (core : Nat) : Statement (.epldApply core) := by intro op f h; cases h
theorem permit (g : Guard) : Statement (.permit g) := by intro op f h; cases h; rfl
theorem permitRel (g : Guard) : Statement (.permitRel g) := by intro op f h; cases h; rfl
theorem permitGrant (core : Nat) : Statement (.permitGrant core) := by intro op f h; cases h
theorem cpgo (x : XS) : Statement (.cpgo x) := by intro op f h; cases h; rfl
theorem copyRecord (core : Nat) (channel : Nat) : Statement (.copyRecord core channel) := by intro op f h; cases h
theorem codebookSetup (core : Nat) (channel : Nat) : Statement (.codebookSetup core channel) := by
  intro op f h; cases h
theorem hwait (x : XS) : Statement (.hwait x) := by intro op f h; cases h; rfl
theorem hrel (x : XS) : Statement (.hrel x) := by intro op f h; cases h; rfl
theorem hstat (x : XS) : Statement (.hstat x) := by intro op f h; cases h; rfl
theorem launch (x : XS) : Statement (.launch x) := by intro op f h; cases h; rfl
theorem waitdep (g : Guard) : Statement (.waitdep g) := by intro op f h; cases h; rfl
theorem trigger (g : Guard) : Statement (.trigger g) := by intro op f h; cases h; rfl
theorem setways (x : XS) : Statement (.setways x) := by intro op f h; cases h; rfl
theorem ccwait (x : XS) : Statement (.ccwait x) := by intro op f h; cases h; rfl
theorem ccwaitTimeout (group : Nat) (lane : Nat) : Statement (.ccwaitTimeout group lane) := by
  intro op f h; cases h
theorem ccread (x : XS) : Statement (.ccread x) := by intro op f h; cases h; rfl
theorem sreg (x : XS) : Statement (.sreg x) := by intro op f h; cases h; rfl
theorem sset (x : XS) : Statement (.sset x) := by intro op f h; cases h; rfl
theorem entryRaised (group : Nat) (lane : Nat) : Statement (.entryRaised group lane) := by intro op f h; cases h
theorem icacheLineArrival (core : Nat) (line : Nat) : Statement (.icacheLineArrival core line) := by
  intro op f h; cases h
theorem rejoinStuck (group : Nat) : Statement (.rejoinStuck group) := by intro op f h; cases h
theorem clusterPlacement (corner : Nat) : Statement (.clusterPlacement corner) := by intro op f h; cases h
theorem launchRaised (queue : Nat) : Statement (.launchRaised queue) := by intro op f h; cases h
theorem quantumEnd (cluster : Nat) : Statement (.quantumEnd cluster) := by intro op f h; cases h
theorem waitdepEviction (cluster : Nat) : Statement (.waitdepEviction cluster) := by intro op f h; cases h
theorem clusterResume (corner : Nat) : Statement (.clusterResume corner) := by intro op f h; cases h
theorem sliceRemap (slice : Nat) : Statement (.sliceRemap slice) := by intro op f h; cases h
theorem sendDescriptor (queue : Nat) : Statement (.sendDescriptor queue) := by intro op f h; cases h
theorem lastingFaulty (unit : Part) : Statement (.lastingFaulty unit) := by intro op f h; cases h
theorem sensorFailed (column : Nat) : Statement (.sensorFailed column) := by intro op f h; cases h
theorem swallowLevelApply (column : Nat) : Statement (.swallowLevelApply column) := by intro op f h; cases h
theorem columnOverheat (column : Nat) : Statement (.columnOverheat column) := by intro op f h; cases h
theorem powerRaiseEnd : Statement .powerRaiseEnd := by intro op f h; cases h
theorem refresh (bank : Nat) : Statement (.refresh bank) := by intro op f h; cases h
theorem translationWalk (core : Nat) (space : Nat) (page : Nat) : Statement (.translationWalk core space page) := by
  intro op f h; cases h
theorem xlateRetry (ticket : Nat) : Statement (.xlateRetry ticket) := by intro op f h; cases h
theorem xlateFail (ticket : Nat) : Statement (.xlateFail ticket) := by intro op f h; cases h
theorem launchMessage (bytes : List Byte) : Statement (.launchMessage bytes) := by intro op f h; cases h
theorem cancelMessage (bytes : List Byte) : Statement (.cancelMessage bytes) := by intro op f h; cases h
theorem registerAddressSpace (space : Nat) (root : DWord) : Statement (.registerAddressSpace space root) := by
  intro op f h; cases h
theorem releaseAddressSpace (space : Nat) : Statement (.releaseAddressSpace space) := by intro op f h; cases h
theorem setQuantum (queue : Nat) (micros : Nat) : Statement (.setQuantum queue micros) := by intro op f h; cases h
theorem setSavePool (base : Nat) (size : Nat) : Statement (.setSavePool base size) := by intro op f h; cases h
theorem setInterleaveModes (modes : List Bool) : Statement (.setInterleaveModes modes) := by intro op f h; cases h
theorem setStagingRegion (gib : Nat) : Statement (.setStagingRegion gib) := by intro op f h; cases h
theorem lockExtents (first : Nat) (count : Nat) : Statement (.lockExtents first count) := by intro op f h; cases h
theorem unlockExtents (first : Nat) (count : Nat) : Statement (.unlockExtents first count) := by
  intro op f h; cases h
theorem flashStatusRead (stack : Nat) : Statement (.flashStatusRead stack) := by intro op f h; cases h
theorem enrolOwnerKey (key : List Byte) (signer : List Byte) (sigR : Nat) (sigS : Nat) : Statement (.enrolOwnerKey key signer sigR sigS) := by
  intro op f h; cases h
theorem admitCodeObject (file : List Byte) (space : Nat) (loads : List Nat) : Statement (.admitCodeObject file space loads) := by
  intro op f h; cases h
theorem unloadCodeObject (object : Nat) : Statement (.unloadCodeObject object) := by intro op f h; cases h
theorem readAttestation (object : Nat) : Statement (.readAttestation object) := by intro op f h; cases h
theorem readEndOfLife (unit : Part) : Statement (.readEndOfLife unit) := by intro op f h; cases h
theorem clearOutOfServiceFlag (value : Nat) : Statement (.clearOutOfServiceFlag value) := by intro op f h; cases h
theorem hostWrite (address : Nat) (bytes : List Byte) : Statement (.hostWrite address bytes) := by
  intro op f h; cases h
theorem hostRead (address : Nat) (count : Nat) : Statement (.hostRead address count) := by intro op f h; cases h
theorem replayRequest (flit : List Byte) : Statement (.replayRequest flit) := by intro op f h; cases h
theorem linkRetrain (succeeds : Bool) : Statement (.linkRetrain succeeds) := by intro op f h; cases h
theorem configurePeerTable (peer : Nat) (key : List Byte) (route : PeerRoute) (objects : List Nat) :
    Statement (.configurePeerTable peer key route objects) := by
  intro op f h; cases h
theorem registerSendQueue (bytes : List Byte) : Statement (.registerSendQueue bytes) := by intro op f h; cases h
theorem registerReceiveWindow (bytes : List Byte) : Statement (.registerReceiveWindow bytes) := by
  intro op f h; cases h
theorem packetAcknowledged (packet : Nat) (nanos : Nat) (marked : Bool) : Statement (.packetAcknowledged packet nanos marked) := by
  intro op f h; cases h
theorem packetTrimmed (packet : Nat) : Statement (.packetTrimmed packet) := by intro op f h; cases h
theorem retryLimit (peer : Nat) : Statement (.retryLimit peer) := by intro op f h; cases h
theorem receivePacket (packet : Arrival) : Statement (.receivePacket packet) := by intro op f h; cases h
theorem reset (failing : List (Nat × Part)) : Statement (.reset failing) := by intro op f h; cases h
theorem correctableEvent (unit : Part) : Statement (.correctableEvent unit) := by intro op f h; cases h
theorem driftReport (column : Nat) (drift : Nat) : Statement (.driftReport column drift) := by
  intro op f h; cases h
theorem sensorReading (column : Nat) (reading : Int) : Statement (.sensorReading column reading) := by
  intro op f h; cases h
theorem powerOverLimit (watts : Nat) : Statement (.powerOverLimit watts) := by intro op f h; cases h
theorem replay (first : Nat) : Statement (.replay first) := by intro op f h; cases h
theorem retransmission (packet : Nat) : Statement (.retransmission packet) := by intro op f h; cases h
theorem refusedByPeer (packet : Nat) : Statement (.refusedByPeer packet) := by intro op f h; cases h
theorem wallClock (seconds : Nat) : Statement (.wallClock seconds) := by intro op f h; cases h

end Sys2Proof.Laws.Rebuild
end

