-- ==== Sys2Proof/Laws/State.lean ====
section
/-! SUPPORT. One lemma per field per update: what each update of the state and of a group leaves alone. -/

namespace Sys2Proof.Machine

/-! `State.setCore` -/

@[simp] theorem State.setCore_cycles (s : State) (n : Nat) (c : Core) : (s.setCore n c).cycles = s.cycles := rfl
@[simp] theorem State.setCore_mem (s : State) (n : Nat) (c : Core) : (s.setCore n c).mem = s.mem := rfl
@[simp] theorem State.setCore_flashMem (s : State) (n : Nat) (c : Core) : (s.setCore n c).flashMem = s.flashMem := rfl
@[simp] theorem State.setCore_modes (s : State) (n : Nat) (c : Core) : (s.setCore n c).modes = s.modes := rfl
@[simp] theorem State.setCore_stagingGib (s : State) (n : Nat) (c : Core) : (s.setCore n c).stagingGib = s.stagingGib := rfl
@[simp] theorem State.setCore_staging (s : State) (n : Nat) (c : Core) : (s.setCore n c).staging = s.staging := rfl
@[simp] theorem State.setCore_slices (s : State) (n : Nat) (c : Core) : (s.setCore n c).slices = s.slices := rfl
@[simp] theorem State.setCore_groups (s : State) (n : Nat) (c : Core) : (s.setCore n c).groups = s.groups := rfl
@[simp] theorem State.setCore_teams (s : State) (n : Nat) (c : Core) : (s.setCore n c).teams = s.teams := rfl
@[simp] theorem State.setCore_clusters (s : State) (n : Nat) (c : Core) : (s.setCore n c).clusters = s.clusters := rfl
@[simp] theorem State.setCore_grids (s : State) (n : Nat) (c : Core) : (s.setCore n c).grids = s.grids := rfl
@[simp] theorem State.setCore_queues (s : State) (n : Nat) (c : Core) : (s.setCore n c).queues = s.queues := rfl
@[simp] theorem State.setCore_rr (s : State) (n : Nat) (c : Core) : (s.setCore n c).rr = s.rr := rfl
@[simp] theorem State.setCore_nextLaunch (s : State) (n : Nat) (c : Core) : (s.setCore n c).nextLaunch = s.nextLaunch := rfl
@[simp] theorem State.setCore_areas (s : State) (n : Nat) (c : Core) : (s.setCore n c).areas = s.areas := rfl
@[simp] theorem State.setCore_executors (s : State) (n : Nat) (c : Core) : (s.setCore n c).executors = s.executors := rfl
@[simp] theorem State.setCore_walkers (s : State) (n : Nat) (c : Core) : (s.setCore n c).walkers = s.walkers := rfl
@[simp] theorem State.setCore_assays (s : State) (n : Nat) (c : Core) : (s.setCore n c).assays = s.assays := rfl
@[simp] theorem State.setCore_replies (s : State) (n : Nat) (c : Core) : (s.setCore n c).replies = s.replies := rfl
@[simp] theorem State.setCore_adds (s : State) (n : Nat) (c : Core) : (s.setCore n c).adds = s.adds := rfl
@[simp] theorem State.setCore_windows (s : State) (n : Nat) (c : Core) : (s.setCore n c).windows = s.windows := rfl
@[simp] theorem State.setCore_flash (s : State) (n : Nat) (c : Core) : (s.setCore n c).flash = s.flash := rfl
@[simp] theorem State.setCore_foreman (s : State) (n : Nat) (c : Core) : (s.setCore n c).foreman = s.foreman := rfl
@[simp] theorem State.setCore_link (s : State) (n : Nat) (c : Core) : (s.setCore n c).link = s.link := rfl
@[simp] theorem State.setCore_transport (s : State) (n : Nat) (c : Core) : (s.setCore n c).transport = s.transport := rfl
@[simp] theorem State.setCore_columnsOut (s : State) (n : Nat) (c : Core) : (s.setCore n c).columnsOut = s.columnsOut := rfl
@[simp] theorem State.setCore_slicesOut (s : State) (n : Nat) (c : Core) : (s.setCore n c).slicesOut = s.slicesOut := rfl
@[simp] theorem State.setCore_remapped (s : State) (n : Nat) (c : Core) : (s.setCore n c).remapped = s.remapped := rfl
@[simp] theorem State.setCore_stacksOut (s : State) (n : Nat) (c : Core) : (s.setCore n c).stacksOut = s.stacksOut := rfl
@[simp] theorem State.setCore_flashOut (s : State) (n : Nat) (c : Core) : (s.setCore n c).flashOut = s.flashOut := rfl
@[simp] theorem State.setCore_banksOut (s : State) (n : Nat) (c : Core) : (s.setCore n c).banksOut = s.banksOut := rfl
@[simp] theorem State.setCore_badLines (s : State) (n : Nat) (c : Core) : (s.setCore n c).badLines = s.badLines := rfl
@[simp] theorem State.setCore_flaws (s : State) (n : Nat) (c : Core) : (s.setCore n c).flaws = s.flaws := rfl
@[simp] theorem State.setCore_watches (s : State) (n : Nat) (c : Core) : (s.setCore n c).watches = s.watches := rfl
@[simp] theorem State.setCore_outbox (s : State) (n : Nat) (c : Core) : (s.setCore n c).outbox = s.outbox := rfl
@[simp] theorem State.setCore_issue (s : State) (n : Nat) (c : Core) : (s.setCore n c).issue = s.issue := rfl
@[simp] theorem State.setCore_slots (s : State) (n : Nat) (c : Core) : (s.setCore n c).slots = s.slots := rfl
@[simp] theorem State.setCore_turn (s : State) (n : Nat) (c : Core) : (s.setCore n c).turn = s.turn := rfl
@[simp] theorem State.setCore_agenda (s : State) (n : Nat) (c : Core) : (s.setCore n c).agenda = s.agenda := rfl
@[simp] theorem State.setCore_serial (s : State) (n : Nat) (c : Core) : (s.setCore n c).serial = s.serial := rfl
@[simp] theorem State.setCore_draws (s : State) (n : Nat) (c : Core) : (s.setCore n c).draws = s.draws := rfl

/-! `State.onCore` -/

@[simp] theorem State.onCore_cycles (s : State) (n : Nat) (f : Core → Core) : (s.onCore n f).cycles = s.cycles := rfl
@[simp] theorem State.onCore_mem (s : State) (n : Nat) (f : Core → Core) : (s.onCore n f).mem = s.mem := rfl
@[simp] theorem State.onCore_flashMem (s : State) (n : Nat) (f : Core → Core) : (s.onCore n f).flashMem = s.flashMem := rfl
@[simp] theorem State.onCore_modes (s : State) (n : Nat) (f : Core → Core) : (s.onCore n f).modes = s.modes := rfl
@[simp] theorem State.onCore_stagingGib (s : State) (n : Nat) (f : Core → Core) : (s.onCore n f).stagingGib = s.stagingGib := rfl
@[simp] theorem State.onCore_staging (s : State) (n : Nat) (f : Core → Core) : (s.onCore n f).staging = s.staging := rfl
@[simp] theorem State.onCore_slices (s : State) (n : Nat) (f : Core → Core) : (s.onCore n f).slices = s.slices := rfl
@[simp] theorem State.onCore_groups (s : State) (n : Nat) (f : Core → Core) : (s.onCore n f).groups = s.groups := rfl
@[simp] theorem State.onCore_teams (s : State) (n : Nat) (f : Core → Core) : (s.onCore n f).teams = s.teams := rfl
@[simp] theorem State.onCore_clusters (s : State) (n : Nat) (f : Core → Core) : (s.onCore n f).clusters = s.clusters := rfl
@[simp] theorem State.onCore_grids (s : State) (n : Nat) (f : Core → Core) : (s.onCore n f).grids = s.grids := rfl
@[simp] theorem State.onCore_queues (s : State) (n : Nat) (f : Core → Core) : (s.onCore n f).queues = s.queues := rfl
@[simp] theorem State.onCore_rr (s : State) (n : Nat) (f : Core → Core) : (s.onCore n f).rr = s.rr := rfl
@[simp] theorem State.onCore_nextLaunch (s : State) (n : Nat) (f : Core → Core) : (s.onCore n f).nextLaunch = s.nextLaunch := rfl
@[simp] theorem State.onCore_areas (s : State) (n : Nat) (f : Core → Core) : (s.onCore n f).areas = s.areas := rfl
@[simp] theorem State.onCore_executors (s : State) (n : Nat) (f : Core → Core) : (s.onCore n f).executors = s.executors := rfl
@[simp] theorem State.onCore_walkers (s : State) (n : Nat) (f : Core → Core) : (s.onCore n f).walkers = s.walkers := rfl
@[simp] theorem State.onCore_assays (s : State) (n : Nat) (f : Core → Core) : (s.onCore n f).assays = s.assays := rfl
@[simp] theorem State.onCore_replies (s : State) (n : Nat) (f : Core → Core) : (s.onCore n f).replies = s.replies := rfl
@[simp] theorem State.onCore_adds (s : State) (n : Nat) (f : Core → Core) : (s.onCore n f).adds = s.adds := rfl
@[simp] theorem State.onCore_windows (s : State) (n : Nat) (f : Core → Core) : (s.onCore n f).windows = s.windows := rfl
@[simp] theorem State.onCore_flash (s : State) (n : Nat) (f : Core → Core) : (s.onCore n f).flash = s.flash := rfl
@[simp] theorem State.onCore_foreman (s : State) (n : Nat) (f : Core → Core) : (s.onCore n f).foreman = s.foreman := rfl
@[simp] theorem State.onCore_link (s : State) (n : Nat) (f : Core → Core) : (s.onCore n f).link = s.link := rfl
@[simp] theorem State.onCore_transport (s : State) (n : Nat) (f : Core → Core) : (s.onCore n f).transport = s.transport := rfl
@[simp] theorem State.onCore_columnsOut (s : State) (n : Nat) (f : Core → Core) : (s.onCore n f).columnsOut = s.columnsOut := rfl
@[simp] theorem State.onCore_slicesOut (s : State) (n : Nat) (f : Core → Core) : (s.onCore n f).slicesOut = s.slicesOut := rfl
@[simp] theorem State.onCore_remapped (s : State) (n : Nat) (f : Core → Core) : (s.onCore n f).remapped = s.remapped := rfl
@[simp] theorem State.onCore_stacksOut (s : State) (n : Nat) (f : Core → Core) : (s.onCore n f).stacksOut = s.stacksOut := rfl
@[simp] theorem State.onCore_flashOut (s : State) (n : Nat) (f : Core → Core) : (s.onCore n f).flashOut = s.flashOut := rfl
@[simp] theorem State.onCore_banksOut (s : State) (n : Nat) (f : Core → Core) : (s.onCore n f).banksOut = s.banksOut := rfl
@[simp] theorem State.onCore_badLines (s : State) (n : Nat) (f : Core → Core) : (s.onCore n f).badLines = s.badLines := rfl
@[simp] theorem State.onCore_flaws (s : State) (n : Nat) (f : Core → Core) : (s.onCore n f).flaws = s.flaws := rfl
@[simp] theorem State.onCore_watches (s : State) (n : Nat) (f : Core → Core) : (s.onCore n f).watches = s.watches := rfl
@[simp] theorem State.onCore_outbox (s : State) (n : Nat) (f : Core → Core) : (s.onCore n f).outbox = s.outbox := rfl
@[simp] theorem State.onCore_issue (s : State) (n : Nat) (f : Core → Core) : (s.onCore n f).issue = s.issue := rfl
@[simp] theorem State.onCore_slots (s : State) (n : Nat) (f : Core → Core) : (s.onCore n f).slots = s.slots := rfl
@[simp] theorem State.onCore_turn (s : State) (n : Nat) (f : Core → Core) : (s.onCore n f).turn = s.turn := rfl
@[simp] theorem State.onCore_agenda (s : State) (n : Nat) (f : Core → Core) : (s.onCore n f).agenda = s.agenda := rfl
@[simp] theorem State.onCore_serial (s : State) (n : Nat) (f : Core → Core) : (s.onCore n f).serial = s.serial := rfl
@[simp] theorem State.onCore_draws (s : State) (n : Nat) (f : Core → Core) : (s.onCore n f).draws = s.draws := rfl

/-! `State.setSlice` -/

@[simp] theorem State.setSlice_cycles (s : State) (n : Nat) (x : Slice) : (s.setSlice n x).cycles = s.cycles := rfl
@[simp] theorem State.setSlice_mem (s : State) (n : Nat) (x : Slice) : (s.setSlice n x).mem = s.mem := rfl
@[simp] theorem State.setSlice_flashMem (s : State) (n : Nat) (x : Slice) : (s.setSlice n x).flashMem = s.flashMem := rfl
@[simp] theorem State.setSlice_modes (s : State) (n : Nat) (x : Slice) : (s.setSlice n x).modes = s.modes := rfl
@[simp] theorem State.setSlice_stagingGib (s : State) (n : Nat) (x : Slice) : (s.setSlice n x).stagingGib = s.stagingGib := rfl
@[simp] theorem State.setSlice_staging (s : State) (n : Nat) (x : Slice) : (s.setSlice n x).staging = s.staging := rfl
@[simp] theorem State.setSlice_cores (s : State) (n : Nat) (x : Slice) : (s.setSlice n x).cores = s.cores := rfl
@[simp] theorem State.setSlice_groups (s : State) (n : Nat) (x : Slice) : (s.setSlice n x).groups = s.groups := rfl
@[simp] theorem State.setSlice_teams (s : State) (n : Nat) (x : Slice) : (s.setSlice n x).teams = s.teams := rfl
@[simp] theorem State.setSlice_clusters (s : State) (n : Nat) (x : Slice) : (s.setSlice n x).clusters = s.clusters := rfl
@[simp] theorem State.setSlice_grids (s : State) (n : Nat) (x : Slice) : (s.setSlice n x).grids = s.grids := rfl
@[simp] theorem State.setSlice_queues (s : State) (n : Nat) (x : Slice) : (s.setSlice n x).queues = s.queues := rfl
@[simp] theorem State.setSlice_rr (s : State) (n : Nat) (x : Slice) : (s.setSlice n x).rr = s.rr := rfl
@[simp] theorem State.setSlice_nextLaunch (s : State) (n : Nat) (x : Slice) : (s.setSlice n x).nextLaunch = s.nextLaunch := rfl
@[simp] theorem State.setSlice_areas (s : State) (n : Nat) (x : Slice) : (s.setSlice n x).areas = s.areas := rfl
@[simp] theorem State.setSlice_executors (s : State) (n : Nat) (x : Slice) : (s.setSlice n x).executors = s.executors := rfl
@[simp] theorem State.setSlice_walkers (s : State) (n : Nat) (x : Slice) : (s.setSlice n x).walkers = s.walkers := rfl
@[simp] theorem State.setSlice_assays (s : State) (n : Nat) (x : Slice) : (s.setSlice n x).assays = s.assays := rfl
@[simp] theorem State.setSlice_replies (s : State) (n : Nat) (x : Slice) : (s.setSlice n x).replies = s.replies := rfl
@[simp] theorem State.setSlice_adds (s : State) (n : Nat) (x : Slice) : (s.setSlice n x).adds = s.adds := rfl
@[simp] theorem State.setSlice_windows (s : State) (n : Nat) (x : Slice) : (s.setSlice n x).windows = s.windows := rfl
@[simp] theorem State.setSlice_flash (s : State) (n : Nat) (x : Slice) : (s.setSlice n x).flash = s.flash := rfl
@[simp] theorem State.setSlice_foreman (s : State) (n : Nat) (x : Slice) : (s.setSlice n x).foreman = s.foreman := rfl
@[simp] theorem State.setSlice_link (s : State) (n : Nat) (x : Slice) : (s.setSlice n x).link = s.link := rfl
@[simp] theorem State.setSlice_transport (s : State) (n : Nat) (x : Slice) : (s.setSlice n x).transport = s.transport := rfl
@[simp] theorem State.setSlice_columnsOut (s : State) (n : Nat) (x : Slice) : (s.setSlice n x).columnsOut = s.columnsOut := rfl
@[simp] theorem State.setSlice_slicesOut (s : State) (n : Nat) (x : Slice) : (s.setSlice n x).slicesOut = s.slicesOut := rfl
@[simp] theorem State.setSlice_remapped (s : State) (n : Nat) (x : Slice) : (s.setSlice n x).remapped = s.remapped := rfl
@[simp] theorem State.setSlice_stacksOut (s : State) (n : Nat) (x : Slice) : (s.setSlice n x).stacksOut = s.stacksOut := rfl
@[simp] theorem State.setSlice_flashOut (s : State) (n : Nat) (x : Slice) : (s.setSlice n x).flashOut = s.flashOut := rfl
@[simp] theorem State.setSlice_banksOut (s : State) (n : Nat) (x : Slice) : (s.setSlice n x).banksOut = s.banksOut := rfl
@[simp] theorem State.setSlice_badLines (s : State) (n : Nat) (x : Slice) : (s.setSlice n x).badLines = s.badLines := rfl
@[simp] theorem State.setSlice_flaws (s : State) (n : Nat) (x : Slice) : (s.setSlice n x).flaws = s.flaws := rfl
@[simp] theorem State.setSlice_watches (s : State) (n : Nat) (x : Slice) : (s.setSlice n x).watches = s.watches := rfl
@[simp] theorem State.setSlice_outbox (s : State) (n : Nat) (x : Slice) : (s.setSlice n x).outbox = s.outbox := rfl
@[simp] theorem State.setSlice_issue (s : State) (n : Nat) (x : Slice) : (s.setSlice n x).issue = s.issue := rfl
@[simp] theorem State.setSlice_slots (s : State) (n : Nat) (x : Slice) : (s.setSlice n x).slots = s.slots := rfl
@[simp] theorem State.setSlice_turn (s : State) (n : Nat) (x : Slice) : (s.setSlice n x).turn = s.turn := rfl
@[simp] theorem State.setSlice_agenda (s : State) (n : Nat) (x : Slice) : (s.setSlice n x).agenda = s.agenda := rfl
@[simp] theorem State.setSlice_serial (s : State) (n : Nat) (x : Slice) : (s.setSlice n x).serial = s.serial := rfl
@[simp] theorem State.setSlice_draws (s : State) (n : Nat) (x : Slice) : (s.setSlice n x).draws = s.draws := rfl

/-! `State.onGroup` -/

@[simp] theorem State.onGroup_cycles (s : State) (n : Nat) (f : Group → Group) : (s.onGroup n f).cycles = s.cycles := rfl
@[simp] theorem State.onGroup_mem (s : State) (n : Nat) (f : Group → Group) : (s.onGroup n f).mem = s.mem := rfl
@[simp] theorem State.onGroup_flashMem (s : State) (n : Nat) (f : Group → Group) : (s.onGroup n f).flashMem = s.flashMem := rfl
@[simp] theorem State.onGroup_modes (s : State) (n : Nat) (f : Group → Group) : (s.onGroup n f).modes = s.modes := rfl
@[simp] theorem State.onGroup_stagingGib (s : State) (n : Nat) (f : Group → Group) : (s.onGroup n f).stagingGib = s.stagingGib := rfl
@[simp] theorem State.onGroup_staging (s : State) (n : Nat) (f : Group → Group) : (s.onGroup n f).staging = s.staging := rfl
@[simp] theorem State.onGroup_cores (s : State) (n : Nat) (f : Group → Group) : (s.onGroup n f).cores = s.cores := rfl
@[simp] theorem State.onGroup_slices (s : State) (n : Nat) (f : Group → Group) : (s.onGroup n f).slices = s.slices := rfl
@[simp] theorem State.onGroup_teams (s : State) (n : Nat) (f : Group → Group) : (s.onGroup n f).teams = s.teams := rfl
@[simp] theorem State.onGroup_clusters (s : State) (n : Nat) (f : Group → Group) : (s.onGroup n f).clusters = s.clusters := rfl
@[simp] theorem State.onGroup_grids (s : State) (n : Nat) (f : Group → Group) : (s.onGroup n f).grids = s.grids := rfl
@[simp] theorem State.onGroup_queues (s : State) (n : Nat) (f : Group → Group) : (s.onGroup n f).queues = s.queues := rfl
@[simp] theorem State.onGroup_rr (s : State) (n : Nat) (f : Group → Group) : (s.onGroup n f).rr = s.rr := rfl
@[simp] theorem State.onGroup_nextLaunch (s : State) (n : Nat) (f : Group → Group) : (s.onGroup n f).nextLaunch = s.nextLaunch := rfl
@[simp] theorem State.onGroup_areas (s : State) (n : Nat) (f : Group → Group) : (s.onGroup n f).areas = s.areas := rfl
@[simp] theorem State.onGroup_executors (s : State) (n : Nat) (f : Group → Group) : (s.onGroup n f).executors = s.executors := rfl
@[simp] theorem State.onGroup_walkers (s : State) (n : Nat) (f : Group → Group) : (s.onGroup n f).walkers = s.walkers := rfl
@[simp] theorem State.onGroup_assays (s : State) (n : Nat) (f : Group → Group) : (s.onGroup n f).assays = s.assays := rfl
@[simp] theorem State.onGroup_replies (s : State) (n : Nat) (f : Group → Group) : (s.onGroup n f).replies = s.replies := rfl
@[simp] theorem State.onGroup_adds (s : State) (n : Nat) (f : Group → Group) : (s.onGroup n f).adds = s.adds := rfl
@[simp] theorem State.onGroup_windows (s : State) (n : Nat) (f : Group → Group) : (s.onGroup n f).windows = s.windows := rfl
@[simp] theorem State.onGroup_flash (s : State) (n : Nat) (f : Group → Group) : (s.onGroup n f).flash = s.flash := rfl
@[simp] theorem State.onGroup_foreman (s : State) (n : Nat) (f : Group → Group) : (s.onGroup n f).foreman = s.foreman := rfl
@[simp] theorem State.onGroup_link (s : State) (n : Nat) (f : Group → Group) : (s.onGroup n f).link = s.link := rfl
@[simp] theorem State.onGroup_transport (s : State) (n : Nat) (f : Group → Group) : (s.onGroup n f).transport = s.transport := rfl
@[simp] theorem State.onGroup_columnsOut (s : State) (n : Nat) (f : Group → Group) : (s.onGroup n f).columnsOut = s.columnsOut := rfl
@[simp] theorem State.onGroup_slicesOut (s : State) (n : Nat) (f : Group → Group) : (s.onGroup n f).slicesOut = s.slicesOut := rfl
@[simp] theorem State.onGroup_remapped (s : State) (n : Nat) (f : Group → Group) : (s.onGroup n f).remapped = s.remapped := rfl
@[simp] theorem State.onGroup_stacksOut (s : State) (n : Nat) (f : Group → Group) : (s.onGroup n f).stacksOut = s.stacksOut := rfl
@[simp] theorem State.onGroup_flashOut (s : State) (n : Nat) (f : Group → Group) : (s.onGroup n f).flashOut = s.flashOut := rfl
@[simp] theorem State.onGroup_banksOut (s : State) (n : Nat) (f : Group → Group) : (s.onGroup n f).banksOut = s.banksOut := rfl
@[simp] theorem State.onGroup_badLines (s : State) (n : Nat) (f : Group → Group) : (s.onGroup n f).badLines = s.badLines := rfl
@[simp] theorem State.onGroup_flaws (s : State) (n : Nat) (f : Group → Group) : (s.onGroup n f).flaws = s.flaws := rfl
@[simp] theorem State.onGroup_watches (s : State) (n : Nat) (f : Group → Group) : (s.onGroup n f).watches = s.watches := rfl
@[simp] theorem State.onGroup_outbox (s : State) (n : Nat) (f : Group → Group) : (s.onGroup n f).outbox = s.outbox := rfl
@[simp] theorem State.onGroup_issue (s : State) (n : Nat) (f : Group → Group) : (s.onGroup n f).issue = s.issue := rfl
@[simp] theorem State.onGroup_slots (s : State) (n : Nat) (f : Group → Group) : (s.onGroup n f).slots = s.slots := rfl
@[simp] theorem State.onGroup_turn (s : State) (n : Nat) (f : Group → Group) : (s.onGroup n f).turn = s.turn := rfl
@[simp] theorem State.onGroup_agenda (s : State) (n : Nat) (f : Group → Group) : (s.onGroup n f).agenda = s.agenda := rfl
@[simp] theorem State.onGroup_serial (s : State) (n : Nat) (f : Group → Group) : (s.onGroup n f).serial = s.serial := rfl
@[simp] theorem State.onGroup_draws (s : State) (n : Nat) (f : Group → Group) : (s.onGroup n f).draws = s.draws := rfl

/-! `State.onTeam` -/

@[simp] theorem State.onTeam_cycles (s : State) (n : Nat) (f : Team → Team) : (s.onTeam n f).cycles = s.cycles := rfl
@[simp] theorem State.onTeam_mem (s : State) (n : Nat) (f : Team → Team) : (s.onTeam n f).mem = s.mem := rfl
@[simp] theorem State.onTeam_flashMem (s : State) (n : Nat) (f : Team → Team) : (s.onTeam n f).flashMem = s.flashMem := rfl
@[simp] theorem State.onTeam_modes (s : State) (n : Nat) (f : Team → Team) : (s.onTeam n f).modes = s.modes := rfl
@[simp] theorem State.onTeam_stagingGib (s : State) (n : Nat) (f : Team → Team) : (s.onTeam n f).stagingGib = s.stagingGib := rfl
@[simp] theorem State.onTeam_staging (s : State) (n : Nat) (f : Team → Team) : (s.onTeam n f).staging = s.staging := rfl
@[simp] theorem State.onTeam_cores (s : State) (n : Nat) (f : Team → Team) : (s.onTeam n f).cores = s.cores := rfl
@[simp] theorem State.onTeam_slices (s : State) (n : Nat) (f : Team → Team) : (s.onTeam n f).slices = s.slices := rfl
@[simp] theorem State.onTeam_groups (s : State) (n : Nat) (f : Team → Team) : (s.onTeam n f).groups = s.groups := rfl
@[simp] theorem State.onTeam_clusters (s : State) (n : Nat) (f : Team → Team) : (s.onTeam n f).clusters = s.clusters := rfl
@[simp] theorem State.onTeam_grids (s : State) (n : Nat) (f : Team → Team) : (s.onTeam n f).grids = s.grids := rfl
@[simp] theorem State.onTeam_queues (s : State) (n : Nat) (f : Team → Team) : (s.onTeam n f).queues = s.queues := rfl
@[simp] theorem State.onTeam_rr (s : State) (n : Nat) (f : Team → Team) : (s.onTeam n f).rr = s.rr := rfl
@[simp] theorem State.onTeam_nextLaunch (s : State) (n : Nat) (f : Team → Team) : (s.onTeam n f).nextLaunch = s.nextLaunch := rfl
@[simp] theorem State.onTeam_areas (s : State) (n : Nat) (f : Team → Team) : (s.onTeam n f).areas = s.areas := rfl
@[simp] theorem State.onTeam_executors (s : State) (n : Nat) (f : Team → Team) : (s.onTeam n f).executors = s.executors := rfl
@[simp] theorem State.onTeam_walkers (s : State) (n : Nat) (f : Team → Team) : (s.onTeam n f).walkers = s.walkers := rfl
@[simp] theorem State.onTeam_assays (s : State) (n : Nat) (f : Team → Team) : (s.onTeam n f).assays = s.assays := rfl
@[simp] theorem State.onTeam_replies (s : State) (n : Nat) (f : Team → Team) : (s.onTeam n f).replies = s.replies := rfl
@[simp] theorem State.onTeam_adds (s : State) (n : Nat) (f : Team → Team) : (s.onTeam n f).adds = s.adds := rfl
@[simp] theorem State.onTeam_windows (s : State) (n : Nat) (f : Team → Team) : (s.onTeam n f).windows = s.windows := rfl
@[simp] theorem State.onTeam_flash (s : State) (n : Nat) (f : Team → Team) : (s.onTeam n f).flash = s.flash := rfl
@[simp] theorem State.onTeam_foreman (s : State) (n : Nat) (f : Team → Team) : (s.onTeam n f).foreman = s.foreman := rfl
@[simp] theorem State.onTeam_link (s : State) (n : Nat) (f : Team → Team) : (s.onTeam n f).link = s.link := rfl
@[simp] theorem State.onTeam_transport (s : State) (n : Nat) (f : Team → Team) : (s.onTeam n f).transport = s.transport := rfl
@[simp] theorem State.onTeam_columnsOut (s : State) (n : Nat) (f : Team → Team) : (s.onTeam n f).columnsOut = s.columnsOut := rfl
@[simp] theorem State.onTeam_slicesOut (s : State) (n : Nat) (f : Team → Team) : (s.onTeam n f).slicesOut = s.slicesOut := rfl
@[simp] theorem State.onTeam_remapped (s : State) (n : Nat) (f : Team → Team) : (s.onTeam n f).remapped = s.remapped := rfl
@[simp] theorem State.onTeam_stacksOut (s : State) (n : Nat) (f : Team → Team) : (s.onTeam n f).stacksOut = s.stacksOut := rfl
@[simp] theorem State.onTeam_flashOut (s : State) (n : Nat) (f : Team → Team) : (s.onTeam n f).flashOut = s.flashOut := rfl
@[simp] theorem State.onTeam_banksOut (s : State) (n : Nat) (f : Team → Team) : (s.onTeam n f).banksOut = s.banksOut := rfl
@[simp] theorem State.onTeam_badLines (s : State) (n : Nat) (f : Team → Team) : (s.onTeam n f).badLines = s.badLines := rfl
@[simp] theorem State.onTeam_flaws (s : State) (n : Nat) (f : Team → Team) : (s.onTeam n f).flaws = s.flaws := rfl
@[simp] theorem State.onTeam_watches (s : State) (n : Nat) (f : Team → Team) : (s.onTeam n f).watches = s.watches := rfl
@[simp] theorem State.onTeam_outbox (s : State) (n : Nat) (f : Team → Team) : (s.onTeam n f).outbox = s.outbox := rfl
@[simp] theorem State.onTeam_issue (s : State) (n : Nat) (f : Team → Team) : (s.onTeam n f).issue = s.issue := rfl
@[simp] theorem State.onTeam_slots (s : State) (n : Nat) (f : Team → Team) : (s.onTeam n f).slots = s.slots := rfl
@[simp] theorem State.onTeam_turn (s : State) (n : Nat) (f : Team → Team) : (s.onTeam n f).turn = s.turn := rfl
@[simp] theorem State.onTeam_agenda (s : State) (n : Nat) (f : Team → Team) : (s.onTeam n f).agenda = s.agenda := rfl
@[simp] theorem State.onTeam_serial (s : State) (n : Nat) (f : Team → Team) : (s.onTeam n f).serial = s.serial := rfl
@[simp] theorem State.onTeam_draws (s : State) (n : Nat) (f : Team → Team) : (s.onTeam n f).draws = s.draws := rfl

/-! `State.onGrid` -/

@[simp] theorem State.onGrid_cycles (s : State) (n : Nat) (f : Grid → Grid) : (s.onGrid n f).cycles = s.cycles := rfl
@[simp] theorem State.onGrid_mem (s : State) (n : Nat) (f : Grid → Grid) : (s.onGrid n f).mem = s.mem := rfl
@[simp] theorem State.onGrid_flashMem (s : State) (n : Nat) (f : Grid → Grid) : (s.onGrid n f).flashMem = s.flashMem := rfl
@[simp] theorem State.onGrid_modes (s : State) (n : Nat) (f : Grid → Grid) : (s.onGrid n f).modes = s.modes := rfl
@[simp] theorem State.onGrid_stagingGib (s : State) (n : Nat) (f : Grid → Grid) : (s.onGrid n f).stagingGib = s.stagingGib := rfl
@[simp] theorem State.onGrid_staging (s : State) (n : Nat) (f : Grid → Grid) : (s.onGrid n f).staging = s.staging := rfl
@[simp] theorem State.onGrid_cores (s : State) (n : Nat) (f : Grid → Grid) : (s.onGrid n f).cores = s.cores := rfl
@[simp] theorem State.onGrid_slices (s : State) (n : Nat) (f : Grid → Grid) : (s.onGrid n f).slices = s.slices := rfl
@[simp] theorem State.onGrid_groups (s : State) (n : Nat) (f : Grid → Grid) : (s.onGrid n f).groups = s.groups := rfl
@[simp] theorem State.onGrid_teams (s : State) (n : Nat) (f : Grid → Grid) : (s.onGrid n f).teams = s.teams := rfl
@[simp] theorem State.onGrid_clusters (s : State) (n : Nat) (f : Grid → Grid) : (s.onGrid n f).clusters = s.clusters := rfl
@[simp] theorem State.onGrid_queues (s : State) (n : Nat) (f : Grid → Grid) : (s.onGrid n f).queues = s.queues := rfl
@[simp] theorem State.onGrid_rr (s : State) (n : Nat) (f : Grid → Grid) : (s.onGrid n f).rr = s.rr := rfl
@[simp] theorem State.onGrid_nextLaunch (s : State) (n : Nat) (f : Grid → Grid) : (s.onGrid n f).nextLaunch = s.nextLaunch := rfl
@[simp] theorem State.onGrid_areas (s : State) (n : Nat) (f : Grid → Grid) : (s.onGrid n f).areas = s.areas := rfl
@[simp] theorem State.onGrid_executors (s : State) (n : Nat) (f : Grid → Grid) : (s.onGrid n f).executors = s.executors := rfl
@[simp] theorem State.onGrid_walkers (s : State) (n : Nat) (f : Grid → Grid) : (s.onGrid n f).walkers = s.walkers := rfl
@[simp] theorem State.onGrid_assays (s : State) (n : Nat) (f : Grid → Grid) : (s.onGrid n f).assays = s.assays := rfl
@[simp] theorem State.onGrid_replies (s : State) (n : Nat) (f : Grid → Grid) : (s.onGrid n f).replies = s.replies := rfl
@[simp] theorem State.onGrid_adds (s : State) (n : Nat) (f : Grid → Grid) : (s.onGrid n f).adds = s.adds := rfl
@[simp] theorem State.onGrid_windows (s : State) (n : Nat) (f : Grid → Grid) : (s.onGrid n f).windows = s.windows := rfl
@[simp] theorem State.onGrid_flash (s : State) (n : Nat) (f : Grid → Grid) : (s.onGrid n f).flash = s.flash := rfl
@[simp] theorem State.onGrid_foreman (s : State) (n : Nat) (f : Grid → Grid) : (s.onGrid n f).foreman = s.foreman := rfl
@[simp] theorem State.onGrid_link (s : State) (n : Nat) (f : Grid → Grid) : (s.onGrid n f).link = s.link := rfl
@[simp] theorem State.onGrid_transport (s : State) (n : Nat) (f : Grid → Grid) : (s.onGrid n f).transport = s.transport := rfl
@[simp] theorem State.onGrid_columnsOut (s : State) (n : Nat) (f : Grid → Grid) : (s.onGrid n f).columnsOut = s.columnsOut := rfl
@[simp] theorem State.onGrid_slicesOut (s : State) (n : Nat) (f : Grid → Grid) : (s.onGrid n f).slicesOut = s.slicesOut := rfl
@[simp] theorem State.onGrid_remapped (s : State) (n : Nat) (f : Grid → Grid) : (s.onGrid n f).remapped = s.remapped := rfl
@[simp] theorem State.onGrid_stacksOut (s : State) (n : Nat) (f : Grid → Grid) : (s.onGrid n f).stacksOut = s.stacksOut := rfl
@[simp] theorem State.onGrid_flashOut (s : State) (n : Nat) (f : Grid → Grid) : (s.onGrid n f).flashOut = s.flashOut := rfl
@[simp] theorem State.onGrid_banksOut (s : State) (n : Nat) (f : Grid → Grid) : (s.onGrid n f).banksOut = s.banksOut := rfl
@[simp] theorem State.onGrid_badLines (s : State) (n : Nat) (f : Grid → Grid) : (s.onGrid n f).badLines = s.badLines := rfl
@[simp] theorem State.onGrid_flaws (s : State) (n : Nat) (f : Grid → Grid) : (s.onGrid n f).flaws = s.flaws := rfl
@[simp] theorem State.onGrid_watches (s : State) (n : Nat) (f : Grid → Grid) : (s.onGrid n f).watches = s.watches := rfl
@[simp] theorem State.onGrid_outbox (s : State) (n : Nat) (f : Grid → Grid) : (s.onGrid n f).outbox = s.outbox := rfl
@[simp] theorem State.onGrid_issue (s : State) (n : Nat) (f : Grid → Grid) : (s.onGrid n f).issue = s.issue := rfl
@[simp] theorem State.onGrid_slots (s : State) (n : Nat) (f : Grid → Grid) : (s.onGrid n f).slots = s.slots := rfl
@[simp] theorem State.onGrid_turn (s : State) (n : Nat) (f : Grid → Grid) : (s.onGrid n f).turn = s.turn := rfl
@[simp] theorem State.onGrid_agenda (s : State) (n : Nat) (f : Grid → Grid) : (s.onGrid n f).agenda = s.agenda := rfl
@[simp] theorem State.onGrid_serial (s : State) (n : Nat) (f : Grid → Grid) : (s.onGrid n f).serial = s.serial := rfl
@[simp] theorem State.onGrid_draws (s : State) (n : Nat) (f : Grid → Grid) : (s.onGrid n f).draws = s.draws := rfl

/-! `State.onCluster` -/

@[simp] theorem State.onCluster_cycles (s : State) (n : Nat) (f : Cluster → Cluster) : (s.onCluster n f).cycles = s.cycles := rfl
@[simp] theorem State.onCluster_mem (s : State) (n : Nat) (f : Cluster → Cluster) : (s.onCluster n f).mem = s.mem := rfl
@[simp] theorem State.onCluster_flashMem (s : State) (n : Nat) (f : Cluster → Cluster) : (s.onCluster n f).flashMem = s.flashMem := rfl
@[simp] theorem State.onCluster_modes (s : State) (n : Nat) (f : Cluster → Cluster) : (s.onCluster n f).modes = s.modes := rfl
@[simp] theorem State.onCluster_stagingGib (s : State) (n : Nat) (f : Cluster → Cluster) : (s.onCluster n f).stagingGib = s.stagingGib := rfl
@[simp] theorem State.onCluster_staging (s : State) (n : Nat) (f : Cluster → Cluster) : (s.onCluster n f).staging = s.staging := rfl
@[simp] theorem State.onCluster_cores (s : State) (n : Nat) (f : Cluster → Cluster) : (s.onCluster n f).cores = s.cores := rfl
@[simp] theorem State.onCluster_slices (s : State) (n : Nat) (f : Cluster → Cluster) : (s.onCluster n f).slices = s.slices := rfl
@[simp] theorem State.onCluster_groups (s : State) (n : Nat) (f : Cluster → Cluster) : (s.onCluster n f).groups = s.groups := rfl
@[simp] theorem State.onCluster_teams (s : State) (n : Nat) (f : Cluster → Cluster) : (s.onCluster n f).teams = s.teams := rfl
@[simp] theorem State.onCluster_grids (s : State) (n : Nat) (f : Cluster → Cluster) : (s.onCluster n f).grids = s.grids := rfl
@[simp] theorem State.onCluster_queues (s : State) (n : Nat) (f : Cluster → Cluster) : (s.onCluster n f).queues = s.queues := rfl
@[simp] theorem State.onCluster_rr (s : State) (n : Nat) (f : Cluster → Cluster) : (s.onCluster n f).rr = s.rr := rfl
@[simp] theorem State.onCluster_nextLaunch (s : State) (n : Nat) (f : Cluster → Cluster) : (s.onCluster n f).nextLaunch = s.nextLaunch := rfl
@[simp] theorem State.onCluster_areas (s : State) (n : Nat) (f : Cluster → Cluster) : (s.onCluster n f).areas = s.areas := rfl
@[simp] theorem State.onCluster_executors (s : State) (n : Nat) (f : Cluster → Cluster) : (s.onCluster n f).executors = s.executors := rfl
@[simp] theorem State.onCluster_walkers (s : State) (n : Nat) (f : Cluster → Cluster) : (s.onCluster n f).walkers = s.walkers := rfl
@[simp] theorem State.onCluster_assays (s : State) (n : Nat) (f : Cluster → Cluster) : (s.onCluster n f).assays = s.assays := rfl
@[simp] theorem State.onCluster_replies (s : State) (n : Nat) (f : Cluster → Cluster) : (s.onCluster n f).replies = s.replies := rfl
@[simp] theorem State.onCluster_adds (s : State) (n : Nat) (f : Cluster → Cluster) : (s.onCluster n f).adds = s.adds := rfl
@[simp] theorem State.onCluster_windows (s : State) (n : Nat) (f : Cluster → Cluster) : (s.onCluster n f).windows = s.windows := rfl
@[simp] theorem State.onCluster_flash (s : State) (n : Nat) (f : Cluster → Cluster) : (s.onCluster n f).flash = s.flash := rfl
@[simp] theorem State.onCluster_foreman (s : State) (n : Nat) (f : Cluster → Cluster) : (s.onCluster n f).foreman = s.foreman := rfl
@[simp] theorem State.onCluster_link (s : State) (n : Nat) (f : Cluster → Cluster) : (s.onCluster n f).link = s.link := rfl
@[simp] theorem State.onCluster_transport (s : State) (n : Nat) (f : Cluster → Cluster) : (s.onCluster n f).transport = s.transport := rfl
@[simp] theorem State.onCluster_columnsOut (s : State) (n : Nat) (f : Cluster → Cluster) : (s.onCluster n f).columnsOut = s.columnsOut := rfl
@[simp] theorem State.onCluster_slicesOut (s : State) (n : Nat) (f : Cluster → Cluster) : (s.onCluster n f).slicesOut = s.slicesOut := rfl
@[simp] theorem State.onCluster_remapped (s : State) (n : Nat) (f : Cluster → Cluster) : (s.onCluster n f).remapped = s.remapped := rfl
@[simp] theorem State.onCluster_stacksOut (s : State) (n : Nat) (f : Cluster → Cluster) : (s.onCluster n f).stacksOut = s.stacksOut := rfl
@[simp] theorem State.onCluster_flashOut (s : State) (n : Nat) (f : Cluster → Cluster) : (s.onCluster n f).flashOut = s.flashOut := rfl
@[simp] theorem State.onCluster_banksOut (s : State) (n : Nat) (f : Cluster → Cluster) : (s.onCluster n f).banksOut = s.banksOut := rfl
@[simp] theorem State.onCluster_badLines (s : State) (n : Nat) (f : Cluster → Cluster) : (s.onCluster n f).badLines = s.badLines := rfl
@[simp] theorem State.onCluster_flaws (s : State) (n : Nat) (f : Cluster → Cluster) : (s.onCluster n f).flaws = s.flaws := rfl
@[simp] theorem State.onCluster_watches (s : State) (n : Nat) (f : Cluster → Cluster) : (s.onCluster n f).watches = s.watches := rfl
@[simp] theorem State.onCluster_outbox (s : State) (n : Nat) (f : Cluster → Cluster) : (s.onCluster n f).outbox = s.outbox := rfl
@[simp] theorem State.onCluster_issue (s : State) (n : Nat) (f : Cluster → Cluster) : (s.onCluster n f).issue = s.issue := rfl
@[simp] theorem State.onCluster_slots (s : State) (n : Nat) (f : Cluster → Cluster) : (s.onCluster n f).slots = s.slots := rfl
@[simp] theorem State.onCluster_turn (s : State) (n : Nat) (f : Cluster → Cluster) : (s.onCluster n f).turn = s.turn := rfl
@[simp] theorem State.onCluster_agenda (s : State) (n : Nat) (f : Cluster → Cluster) : (s.onCluster n f).agenda = s.agenda := rfl
@[simp] theorem State.onCluster_serial (s : State) (n : Nat) (f : Cluster → Cluster) : (s.onCluster n f).serial = s.serial := rfl
@[simp] theorem State.onCluster_draws (s : State) (n : Nat) (f : Cluster → Cluster) : (s.onCluster n f).draws = s.draws := rfl

/-! `State.report` -/

@[simp] theorem State.report_cycles (s : State) (r : Report) : (s.report r).cycles = s.cycles := rfl
@[simp] theorem State.report_mem (s : State) (r : Report) : (s.report r).mem = s.mem := rfl
@[simp] theorem State.report_flashMem (s : State) (r : Report) : (s.report r).flashMem = s.flashMem := rfl
@[simp] theorem State.report_modes (s : State) (r : Report) : (s.report r).modes = s.modes := rfl
@[simp] theorem State.report_stagingGib (s : State) (r : Report) : (s.report r).stagingGib = s.stagingGib := rfl
@[simp] theorem State.report_staging (s : State) (r : Report) : (s.report r).staging = s.staging := rfl
@[simp] theorem State.report_cores (s : State) (r : Report) : (s.report r).cores = s.cores := rfl
@[simp] theorem State.report_slices (s : State) (r : Report) : (s.report r).slices = s.slices := rfl
@[simp] theorem State.report_groups (s : State) (r : Report) : (s.report r).groups = s.groups := rfl
@[simp] theorem State.report_teams (s : State) (r : Report) : (s.report r).teams = s.teams := rfl
@[simp] theorem State.report_clusters (s : State) (r : Report) : (s.report r).clusters = s.clusters := rfl
@[simp] theorem State.report_grids (s : State) (r : Report) : (s.report r).grids = s.grids := rfl
@[simp] theorem State.report_queues (s : State) (r : Report) : (s.report r).queues = s.queues := rfl
@[simp] theorem State.report_rr (s : State) (r : Report) : (s.report r).rr = s.rr := rfl
@[simp] theorem State.report_nextLaunch (s : State) (r : Report) : (s.report r).nextLaunch = s.nextLaunch := rfl
@[simp] theorem State.report_areas (s : State) (r : Report) : (s.report r).areas = s.areas := rfl
@[simp] theorem State.report_executors (s : State) (r : Report) : (s.report r).executors = s.executors := rfl
@[simp] theorem State.report_walkers (s : State) (r : Report) : (s.report r).walkers = s.walkers := rfl
@[simp] theorem State.report_assays (s : State) (r : Report) : (s.report r).assays = s.assays := rfl
@[simp] theorem State.report_replies (s : State) (r : Report) : (s.report r).replies = s.replies := rfl
@[simp] theorem State.report_adds (s : State) (r : Report) : (s.report r).adds = s.adds := rfl
@[simp] theorem State.report_windows (s : State) (r : Report) : (s.report r).windows = s.windows := rfl
@[simp] theorem State.report_flash (s : State) (r : Report) : (s.report r).flash = s.flash := rfl
@[simp] theorem State.report_foreman (s : State) (r : Report) : (s.report r).foreman = s.foreman := rfl
@[simp] theorem State.report_link (s : State) (r : Report) : (s.report r).link = s.link := rfl
@[simp] theorem State.report_transport (s : State) (r : Report) : (s.report r).transport = s.transport := rfl
@[simp] theorem State.report_columnsOut (s : State) (r : Report) : (s.report r).columnsOut = s.columnsOut := rfl
@[simp] theorem State.report_slicesOut (s : State) (r : Report) : (s.report r).slicesOut = s.slicesOut := rfl
@[simp] theorem State.report_remapped (s : State) (r : Report) : (s.report r).remapped = s.remapped := rfl
@[simp] theorem State.report_stacksOut (s : State) (r : Report) : (s.report r).stacksOut = s.stacksOut := rfl
@[simp] theorem State.report_flashOut (s : State) (r : Report) : (s.report r).flashOut = s.flashOut := rfl
@[simp] theorem State.report_banksOut (s : State) (r : Report) : (s.report r).banksOut = s.banksOut := rfl
@[simp] theorem State.report_badLines (s : State) (r : Report) : (s.report r).badLines = s.badLines := rfl
@[simp] theorem State.report_flaws (s : State) (r : Report) : (s.report r).flaws = s.flaws := rfl
@[simp] theorem State.report_watches (s : State) (r : Report) : (s.report r).watches = s.watches := rfl
@[simp] theorem State.report_issue (s : State) (r : Report) : (s.report r).issue = s.issue := rfl
@[simp] theorem State.report_slots (s : State) (r : Report) : (s.report r).slots = s.slots := rfl
@[simp] theorem State.report_turn (s : State) (r : Report) : (s.report r).turn = s.turn := rfl
@[simp] theorem State.report_agenda (s : State) (r : Report) : (s.report r).agenda = s.agenda := rfl
@[simp] theorem State.report_serial (s : State) (r : Report) : (s.report r).serial = s.serial := rfl
@[simp] theorem State.report_draws (s : State) (r : Report) : (s.report r).draws = s.draws := rfl

/-! `Group.setV` -/

@[simp] theorem Group.setV_team (g : Group) (l n : Nat) (x : Word) : (g.setV l n x).team = g.team := rfl
@[simp] theorem Group.setV_cluster (g : Group) (l n : Nat) (x : Word) : (g.setV l n x).cluster = g.cluster := rfl
@[simp] theorem Group.setV_grid (g : Group) (l n : Nat) (x : Word) : (g.setV l n x).grid = g.grid := rfl
@[simp] theorem Group.setV_index (g : Group) (l n : Nat) (x : Word) : (g.setV l n x).index = g.index := rfl
@[simp] theorem Group.setV_width (g : Group) (l n : Nat) (x : Word) : (g.setV l n x).width = g.width := rfl
@[simp] theorem Group.setV_count (g : Group) (l n : Nat) (x : Word) : (g.setV l n x).count = g.count := rfl
@[simp] theorem Group.setV_base (g : Group) (l n : Nat) (x : Word) : (g.setV l n x).base = g.base := rfl
@[simp] theorem Group.setV_core (g : Group) (l n : Nat) (x : Word) : (g.setV l n x).core = g.core := rfl
@[simp] theorem Group.setV_space (g : Group) (l n : Nat) (x : Word) : (g.setV l n x).space = g.space := rfl
@[simp] theorem Group.setV_gridId (g : Group) (l n : Nat) (x : Word) : (g.setV l n x).gridId = g.gridId := rfl
@[simp] theorem Group.setV_clus (g : Group) (l n : Nat) (x : Word) : (g.setV l n x).clus = g.clus := rfl
@[simp] theorem Group.setV_teamIndex (g : Group) (l n : Nat) (x : Word) : (g.setV l n x).teamIndex = g.teamIndex := rfl
@[simp] theorem Group.setV_plimit (g : Group) (l n : Nat) (x : Word) : (g.setV l n x).plimit = g.plimit := rfl
@[simp] theorem Group.setV_pbase (g : Group) (l n : Nat) (x : Word) : (g.setV l n x).pbase = g.pbase := rfl
@[simp] theorem Group.setV_args (g : Group) (l n : Nat) (x : Word) : (g.setV l n x).args = g.args := rfl
@[simp] theorem Group.setV_trapEntry (g : Group) (l n : Nat) (x : Word) : (g.setV l n x).trapEntry = g.trapEntry := rfl
@[simp] theorem Group.setV_resident (g : Group) (l n : Nat) (x : Word) : (g.setV l n x).resident = g.resident := rfl
@[simp] theorem Group.setV_uregs (g : Group) (l n : Nat) (x : Word) : (g.setV l n x).uregs = g.uregs := rfl
@[simp] theorem Group.setV_preds (g : Group) (l n : Nat) (x : Word) : (g.setV l n x).preds = g.preds := rfl
@[simp] theorem Group.setV_live (g : Group) (l n : Nat) (x : Word) : (g.setV l n x).live = g.live := rfl
@[simp] theorem Group.setV_front (g : Group) (l n : Nat) (x : Word) : (g.setV l n x).front = g.front := rfl
@[simp] theorem Group.setV_trap (g : Group) (l n : Nat) (x : Word) : (g.setV l n x).trap = g.trap := rfl
@[simp] theorem Group.setV_returns (g : Group) (l n : Nat) (x : Word) : (g.setV l n x).returns = g.returns := rfl
@[simp] theorem Group.setV_spilled (g : Group) (l n : Nat) (x : Word) : (g.setV l n x).spilled = g.spilled := rfl
@[simp] theorem Group.setV_rep (g : Group) (l n : Nat) (x : Word) : (g.setV l n x).rep = g.rep := rfl
@[simp] theorem Group.setV_tmask (g : Group) (l n : Nat) (x : Word) : (g.setV l n x).tmask = g.tmask := rfl
@[simp] theorem Group.setV_tcause (g : Group) (l n : Nat) (x : Word) : (g.setV l n x).tcause = g.tcause := rfl
@[simp] theorem Group.setV_taddr (g : Group) (l n : Nat) (x : Word) : (g.setV l n x).taddr = g.taddr := rfl
@[simp] theorem Group.setV_gang (g : Group) (l n : Nat) (x : Word) : (g.setV l n x).gang = g.gang := rfl
@[simp] theorem Group.setV_triggered (g : Group) (l n : Nat) (x : Word) : (g.setV l n x).triggered = g.triggered := rfl
@[simp] theorem Group.setV_raises (g : Group) (l n : Nat) (x : Word) : (g.setV l n x).raises = g.raises := rfl
@[simp] theorem Group.setV_flights (g : Group) (l n : Nat) (x : Word) : (g.setV l n x).flights = g.flights := rfl
@[simp] theorem Group.setV_fresh (g : Group) (l n : Nat) (x : Word) : (g.setV l n x).fresh = g.fresh := rfl

/-! `Group.setU` -/

@[simp] theorem Group.setU_team (g : Group) (n : Nat) (x : DWord) : (g.setU n x).team = g.team := rfl
@[simp] theorem Group.setU_cluster (g : Group) (n : Nat) (x : DWord) : (g.setU n x).cluster = g.cluster := rfl
@[simp] theorem Group.setU_grid (g : Group) (n : Nat) (x : DWord) : (g.setU n x).grid = g.grid := rfl
@[simp] theorem Group.setU_index (g : Group) (n : Nat) (x : DWord) : (g.setU n x).index = g.index := rfl
@[simp] theorem Group.setU_width (g : Group) (n : Nat) (x : DWord) : (g.setU n x).width = g.width := rfl
@[simp] theorem Group.setU_count (g : Group) (n : Nat) (x : DWord) : (g.setU n x).count = g.count := rfl
@[simp] theorem Group.setU_base (g : Group) (n : Nat) (x : DWord) : (g.setU n x).base = g.base := rfl
@[simp] theorem Group.setU_core (g : Group) (n : Nat) (x : DWord) : (g.setU n x).core = g.core := rfl
@[simp] theorem Group.setU_space (g : Group) (n : Nat) (x : DWord) : (g.setU n x).space = g.space := rfl
@[simp] theorem Group.setU_gridId (g : Group) (n : Nat) (x : DWord) : (g.setU n x).gridId = g.gridId := rfl
@[simp] theorem Group.setU_clus (g : Group) (n : Nat) (x : DWord) : (g.setU n x).clus = g.clus := rfl
@[simp] theorem Group.setU_teamIndex (g : Group) (n : Nat) (x : DWord) : (g.setU n x).teamIndex = g.teamIndex := rfl
@[simp] theorem Group.setU_plimit (g : Group) (n : Nat) (x : DWord) : (g.setU n x).plimit = g.plimit := rfl
@[simp] theorem Group.setU_pbase (g : Group) (n : Nat) (x : DWord) : (g.setU n x).pbase = g.pbase := rfl
@[simp] theorem Group.setU_args (g : Group) (n : Nat) (x : DWord) : (g.setU n x).args = g.args := rfl
@[simp] theorem Group.setU_trapEntry (g : Group) (n : Nat) (x : DWord) : (g.setU n x).trapEntry = g.trapEntry := rfl
@[simp] theorem Group.setU_resident (g : Group) (n : Nat) (x : DWord) : (g.setU n x).resident = g.resident := rfl
@[simp] theorem Group.setU_vregs (g : Group) (n : Nat) (x : DWord) : (g.setU n x).vregs = g.vregs := rfl
@[simp] theorem Group.setU_preds (g : Group) (n : Nat) (x : DWord) : (g.setU n x).preds = g.preds := rfl
@[simp] theorem Group.setU_live (g : Group) (n : Nat) (x : DWord) : (g.setU n x).live = g.live := rfl
@[simp] theorem Group.setU_front (g : Group) (n : Nat) (x : DWord) : (g.setU n x).front = g.front := rfl
@[simp] theorem Group.setU_trap (g : Group) (n : Nat) (x : DWord) : (g.setU n x).trap = g.trap := rfl
@[simp] theorem Group.setU_returns (g : Group) (n : Nat) (x : DWord) : (g.setU n x).returns = g.returns := rfl
@[simp] theorem Group.setU_spilled (g : Group) (n : Nat) (x : DWord) : (g.setU n x).spilled = g.spilled := rfl
@[simp] theorem Group.setU_rep (g : Group) (n : Nat) (x : DWord) : (g.setU n x).rep = g.rep := rfl
@[simp] theorem Group.setU_tmask (g : Group) (n : Nat) (x : DWord) : (g.setU n x).tmask = g.tmask := rfl
@[simp] theorem Group.setU_tcause (g : Group) (n : Nat) (x : DWord) : (g.setU n x).tcause = g.tcause := rfl
@[simp] theorem Group.setU_taddr (g : Group) (n : Nat) (x : DWord) : (g.setU n x).taddr = g.taddr := rfl
@[simp] theorem Group.setU_gang (g : Group) (n : Nat) (x : DWord) : (g.setU n x).gang = g.gang := rfl
@[simp] theorem Group.setU_triggered (g : Group) (n : Nat) (x : DWord) : (g.setU n x).triggered = g.triggered := rfl
@[simp] theorem Group.setU_raises (g : Group) (n : Nat) (x : DWord) : (g.setU n x).raises = g.raises := rfl
@[simp] theorem Group.setU_flights (g : Group) (n : Nat) (x : DWord) : (g.setU n x).flights = g.flights := rfl
@[simp] theorem Group.setU_fresh (g : Group) (n : Nat) (x : DWord) : (g.setU n x).fresh = g.fresh := rfl

/-! `Group.setP` -/

@[simp] theorem Group.setP_team (g : Group) (k n : Nat) (m v : LaneMask) : (g.setP k n m v).team = g.team := rfl
@[simp] theorem Group.setP_cluster (g : Group) (k n : Nat) (m v : LaneMask) : (g.setP k n m v).cluster = g.cluster := rfl
@[simp] theorem Group.setP_grid (g : Group) (k n : Nat) (m v : LaneMask) : (g.setP k n m v).grid = g.grid := rfl
@[simp] theorem Group.setP_index (g : Group) (k n : Nat) (m v : LaneMask) : (g.setP k n m v).index = g.index := rfl
@[simp] theorem Group.setP_width (g : Group) (k n : Nat) (m v : LaneMask) : (g.setP k n m v).width = g.width := rfl
@[simp] theorem Group.setP_count (g : Group) (k n : Nat) (m v : LaneMask) : (g.setP k n m v).count = g.count := rfl
@[simp] theorem Group.setP_base (g : Group) (k n : Nat) (m v : LaneMask) : (g.setP k n m v).base = g.base := rfl
@[simp] theorem Group.setP_core (g : Group) (k n : Nat) (m v : LaneMask) : (g.setP k n m v).core = g.core := rfl
@[simp] theorem Group.setP_space (g : Group) (k n : Nat) (m v : LaneMask) : (g.setP k n m v).space = g.space := rfl
@[simp] theorem Group.setP_gridId (g : Group) (k n : Nat) (m v : LaneMask) : (g.setP k n m v).gridId = g.gridId := rfl
@[simp] theorem Group.setP_clus (g : Group) (k n : Nat) (m v : LaneMask) : (g.setP k n m v).clus = g.clus := rfl
@[simp] theorem Group.setP_teamIndex (g : Group) (k n : Nat) (m v : LaneMask) : (g.setP k n m v).teamIndex = g.teamIndex := rfl
@[simp] theorem Group.setP_plimit (g : Group) (k n : Nat) (m v : LaneMask) : (g.setP k n m v).plimit = g.plimit := rfl
@[simp] theorem Group.setP_pbase (g : Group) (k n : Nat) (m v : LaneMask) : (g.setP k n m v).pbase = g.pbase := rfl
@[simp] theorem Group.setP_args (g : Group) (k n : Nat) (m v : LaneMask) : (g.setP k n m v).args = g.args := rfl
@[simp] theorem Group.setP_trapEntry (g : Group) (k n : Nat) (m v : LaneMask) : (g.setP k n m v).trapEntry = g.trapEntry := rfl
@[simp] theorem Group.setP_resident (g : Group) (k n : Nat) (m v : LaneMask) : (g.setP k n m v).resident = g.resident := rfl
@[simp] theorem Group.setP_vregs (g : Group) (k n : Nat) (m v : LaneMask) : (g.setP k n m v).vregs = g.vregs := rfl
@[simp] theorem Group.setP_uregs (g : Group) (k n : Nat) (m v : LaneMask) : (g.setP k n m v).uregs = g.uregs := rfl
@[simp] theorem Group.setP_live (g : Group) (k n : Nat) (m v : LaneMask) : (g.setP k n m v).live = g.live := rfl
@[simp] theorem Group.setP_front (g : Group) (k n : Nat) (m v : LaneMask) : (g.setP k n m v).front = g.front := rfl
@[simp] theorem Group.setP_trap (g : Group) (k n : Nat) (m v : LaneMask) : (g.setP k n m v).trap = g.trap := rfl
@[simp] theorem Group.setP_returns (g : Group) (k n : Nat) (m v : LaneMask) : (g.setP k n m v).returns = g.returns := rfl
@[simp] theorem Group.setP_spilled (g : Group) (k n : Nat) (m v : LaneMask) : (g.setP k n m v).spilled = g.spilled := rfl
@[simp] theorem Group.setP_rep (g : Group) (k n : Nat) (m v : LaneMask) : (g.setP k n m v).rep = g.rep := rfl
@[simp] theorem Group.setP_tmask (g : Group) (k n : Nat) (m v : LaneMask) : (g.setP k n m v).tmask = g.tmask := rfl
@[simp] theorem Group.setP_tcause (g : Group) (k n : Nat) (m v : LaneMask) : (g.setP k n m v).tcause = g.tcause := rfl
@[simp] theorem Group.setP_taddr (g : Group) (k n : Nat) (m v : LaneMask) : (g.setP k n m v).taddr = g.taddr := rfl
@[simp] theorem Group.setP_gang (g : Group) (k n : Nat) (m v : LaneMask) : (g.setP k n m v).gang = g.gang := rfl
@[simp] theorem Group.setP_triggered (g : Group) (k n : Nat) (m v : LaneMask) : (g.setP k n m v).triggered = g.triggered := rfl
@[simp] theorem Group.setP_raises (g : Group) (k n : Nat) (m v : LaneMask) : (g.setP k n m v).raises = g.raises := rfl
@[simp] theorem Group.setP_flights (g : Group) (k n : Nat) (m v : LaneMask) : (g.setP k n m v).flights = g.flights := rfl
@[simp] theorem Group.setP_fresh (g : Group) (k n : Nat) (m v : LaneMask) : (g.setP k n m v).fresh = g.fresh := rfl

/-! `Group.enter` -/

@[simp] theorem Group.enter_team (g : Group) (e : Entry) : (g.enter e).team = g.team := rfl
@[simp] theorem Group.enter_cluster (g : Group) (e : Entry) : (g.enter e).cluster = g.cluster := rfl
@[simp] theorem Group.enter_grid (g : Group) (e : Entry) : (g.enter e).grid = g.grid := rfl
@[simp] theorem Group.enter_index (g : Group) (e : Entry) : (g.enter e).index = g.index := rfl
@[simp] theorem Group.enter_width (g : Group) (e : Entry) : (g.enter e).width = g.width := rfl
@[simp] theorem Group.enter_count (g : Group) (e : Entry) : (g.enter e).count = g.count := rfl
@[simp] theorem Group.enter_base (g : Group) (e : Entry) : (g.enter e).base = g.base := rfl
@[simp] theorem Group.enter_core (g : Group) (e : Entry) : (g.enter e).core = g.core := rfl
@[simp] theorem Group.enter_space (g : Group) (e : Entry) : (g.enter e).space = g.space := rfl
@[simp] theorem Group.enter_gridId (g : Group) (e : Entry) : (g.enter e).gridId = g.gridId := rfl
@[simp] theorem Group.enter_clus (g : Group) (e : Entry) : (g.enter e).clus = g.clus := rfl
@[simp] theorem Group.enter_teamIndex (g : Group) (e : Entry) : (g.enter e).teamIndex = g.teamIndex := rfl
@[simp] theorem Group.enter_plimit (g : Group) (e : Entry) : (g.enter e).plimit = g.plimit := rfl
@[simp] theorem Group.enter_pbase (g : Group) (e : Entry) : (g.enter e).pbase = g.pbase := rfl
@[simp] theorem Group.enter_args (g : Group) (e : Entry) : (g.enter e).args = g.args := rfl
@[simp] theorem Group.enter_trapEntry (g : Group) (e : Entry) : (g.enter e).trapEntry = g.trapEntry := rfl
@[simp] theorem Group.enter_resident (g : Group) (e : Entry) : (g.enter e).resident = g.resident := rfl
@[simp] theorem Group.enter_vregs (g : Group) (e : Entry) : (g.enter e).vregs = g.vregs := rfl
@[simp] theorem Group.enter_uregs (g : Group) (e : Entry) : (g.enter e).uregs = g.uregs := rfl
@[simp] theorem Group.enter_preds (g : Group) (e : Entry) : (g.enter e).preds = g.preds := rfl
@[simp] theorem Group.enter_live (g : Group) (e : Entry) : (g.enter e).live = g.live := rfl
@[simp] theorem Group.enter_trap (g : Group) (e : Entry) : (g.enter e).trap = g.trap := rfl
@[simp] theorem Group.enter_returns (g : Group) (e : Entry) : (g.enter e).returns = g.returns := rfl
@[simp] theorem Group.enter_spilled (g : Group) (e : Entry) : (g.enter e).spilled = g.spilled := rfl
@[simp] theorem Group.enter_rep (g : Group) (e : Entry) : (g.enter e).rep = g.rep := rfl
@[simp] theorem Group.enter_tmask (g : Group) (e : Entry) : (g.enter e).tmask = g.tmask := rfl
@[simp] theorem Group.enter_tcause (g : Group) (e : Entry) : (g.enter e).tcause = g.tcause := rfl
@[simp] theorem Group.enter_taddr (g : Group) (e : Entry) : (g.enter e).taddr = g.taddr := rfl
@[simp] theorem Group.enter_gang (g : Group) (e : Entry) : (g.enter e).gang = g.gang := rfl
@[simp] theorem Group.enter_triggered (g : Group) (e : Entry) : (g.enter e).triggered = g.triggered := rfl
@[simp] theorem Group.enter_raises (g : Group) (e : Entry) : (g.enter e).raises = g.raises := rfl
@[simp] theorem Group.enter_flights (g : Group) (e : Entry) : (g.enter e).flights = g.flights := rfl
@[simp] theorem Group.enter_fresh (g : Group) (e : Entry) : (g.enter e).fresh = g.fresh := rfl

/-! `Group.leave` -/

@[simp] theorem Group.leave_team (g : Group) (m : LaneMask) : (g.leave m).team = g.team := rfl
@[simp] theorem Group.leave_cluster (g : Group) (m : LaneMask) : (g.leave m).cluster = g.cluster := rfl
@[simp] theorem Group.leave_grid (g : Group) (m : LaneMask) : (g.leave m).grid = g.grid := rfl
@[simp] theorem Group.leave_index (g : Group) (m : LaneMask) : (g.leave m).index = g.index := rfl
@[simp] theorem Group.leave_width (g : Group) (m : LaneMask) : (g.leave m).width = g.width := rfl
@[simp] theorem Group.leave_count (g : Group) (m : LaneMask) : (g.leave m).count = g.count := rfl
@[simp] theorem Group.leave_base (g : Group) (m : LaneMask) : (g.leave m).base = g.base := rfl
@[simp] theorem Group.leave_core (g : Group) (m : LaneMask) : (g.leave m).core = g.core := rfl
@[simp] theorem Group.leave_space (g : Group) (m : LaneMask) : (g.leave m).space = g.space := rfl
@[simp] theorem Group.leave_gridId (g : Group) (m : LaneMask) : (g.leave m).gridId = g.gridId := rfl
@[simp] theorem Group.leave_clus (g : Group) (m : LaneMask) : (g.leave m).clus = g.clus := rfl
@[simp] theorem Group.leave_teamIndex (g : Group) (m : LaneMask) : (g.leave m).teamIndex = g.teamIndex := rfl
@[simp] theorem Group.leave_plimit (g : Group) (m : LaneMask) : (g.leave m).plimit = g.plimit := rfl
@[simp] theorem Group.leave_pbase (g : Group) (m : LaneMask) : (g.leave m).pbase = g.pbase := rfl
@[simp] theorem Group.leave_args (g : Group) (m : LaneMask) : (g.leave m).args = g.args := rfl
@[simp] theorem Group.leave_trapEntry (g : Group) (m : LaneMask) : (g.leave m).trapEntry = g.trapEntry := rfl
@[simp] theorem Group.leave_resident (g : Group) (m : LaneMask) : (g.leave m).resident = g.resident := rfl
@[simp] theorem Group.leave_vregs (g : Group) (m : LaneMask) : (g.leave m).vregs = g.vregs := rfl
@[simp] theorem Group.leave_uregs (g : Group) (m : LaneMask) : (g.leave m).uregs = g.uregs := rfl
@[simp] theorem Group.leave_preds (g : Group) (m : LaneMask) : (g.leave m).preds = g.preds := rfl
@[simp] theorem Group.leave_live (g : Group) (m : LaneMask) : (g.leave m).live = g.live := rfl
@[simp] theorem Group.leave_trap (g : Group) (m : LaneMask) : (g.leave m).trap = g.trap := rfl
@[simp] theorem Group.leave_returns (g : Group) (m : LaneMask) : (g.leave m).returns = g.returns := rfl
@[simp] theorem Group.leave_spilled (g : Group) (m : LaneMask) : (g.leave m).spilled = g.spilled := rfl
@[simp] theorem Group.leave_rep (g : Group) (m : LaneMask) : (g.leave m).rep = g.rep := rfl
@[simp] theorem Group.leave_tmask (g : Group) (m : LaneMask) : (g.leave m).tmask = g.tmask := rfl
@[simp] theorem Group.leave_tcause (g : Group) (m : LaneMask) : (g.leave m).tcause = g.tcause := rfl
@[simp] theorem Group.leave_taddr (g : Group) (m : LaneMask) : (g.leave m).taddr = g.taddr := rfl
@[simp] theorem Group.leave_gang (g : Group) (m : LaneMask) : (g.leave m).gang = g.gang := rfl
@[simp] theorem Group.leave_triggered (g : Group) (m : LaneMask) : (g.leave m).triggered = g.triggered := rfl
@[simp] theorem Group.leave_raises (g : Group) (m : LaneMask) : (g.leave m).raises = g.raises := rfl
@[simp] theorem Group.leave_flights (g : Group) (m : LaneMask) : (g.leave m).flights = g.flights := rfl
@[simp] theorem Group.leave_fresh (g : Group) (m : LaneMask) : (g.leave m).fresh = g.fresh := rfl

/-! `Group.follow` -/

@[simp] theorem Group.follow_team (g : Group) (m : LaneMask) : (g.follow m).team = g.team := rfl
@[simp] theorem Group.follow_cluster (g : Group) (m : LaneMask) : (g.follow m).cluster = g.cluster := rfl
@[simp] theorem Group.follow_grid (g : Group) (m : LaneMask) : (g.follow m).grid = g.grid := rfl
@[simp] theorem Group.follow_index (g : Group) (m : LaneMask) : (g.follow m).index = g.index := rfl
@[simp] theorem Group.follow_width (g : Group) (m : LaneMask) : (g.follow m).width = g.width := rfl
@[simp] theorem Group.follow_count (g : Group) (m : LaneMask) : (g.follow m).count = g.count := rfl
@[simp] theorem Group.follow_base (g : Group) (m : LaneMask) : (g.follow m).base = g.base := rfl
@[simp] theorem Group.follow_core (g : Group) (m : LaneMask) : (g.follow m).core = g.core := rfl
@[simp] theorem Group.follow_space (g : Group) (m : LaneMask) : (g.follow m).space = g.space := rfl
@[simp] theorem Group.follow_gridId (g : Group) (m : LaneMask) : (g.follow m).gridId = g.gridId := rfl
@[simp] theorem Group.follow_clus (g : Group) (m : LaneMask) : (g.follow m).clus = g.clus := rfl
@[simp] theorem Group.follow_teamIndex (g : Group) (m : LaneMask) : (g.follow m).teamIndex = g.teamIndex := rfl
@[simp] theorem Group.follow_plimit (g : Group) (m : LaneMask) : (g.follow m).plimit = g.plimit := rfl
@[simp] theorem Group.follow_pbase (g : Group) (m : LaneMask) : (g.follow m).pbase = g.pbase := rfl
@[simp] theorem Group.follow_args (g : Group) (m : LaneMask) : (g.follow m).args = g.args := rfl
@[simp] theorem Group.follow_trapEntry (g : Group) (m : LaneMask) : (g.follow m).trapEntry = g.trapEntry := rfl
@[simp] theorem Group.follow_resident (g : Group) (m : LaneMask) : (g.follow m).resident = g.resident := rfl
@[simp] theorem Group.follow_vregs (g : Group) (m : LaneMask) : (g.follow m).vregs = g.vregs := rfl
@[simp] theorem Group.follow_uregs (g : Group) (m : LaneMask) : (g.follow m).uregs = g.uregs := rfl
@[simp] theorem Group.follow_preds (g : Group) (m : LaneMask) : (g.follow m).preds = g.preds := rfl
@[simp] theorem Group.follow_live (g : Group) (m : LaneMask) : (g.follow m).live = g.live := rfl
@[simp] theorem Group.follow_front (g : Group) (m : LaneMask) : (g.follow m).front = g.front := rfl
@[simp] theorem Group.follow_trap (g : Group) (m : LaneMask) : (g.follow m).trap = g.trap := rfl
@[simp] theorem Group.follow_returns (g : Group) (m : LaneMask) : (g.follow m).returns = g.returns := rfl
@[simp] theorem Group.follow_spilled (g : Group) (m : LaneMask) : (g.follow m).spilled = g.spilled := rfl
@[simp] theorem Group.follow_rep (g : Group) (m : LaneMask) : (g.follow m).rep = g.rep := rfl
@[simp] theorem Group.follow_tmask (g : Group) (m : LaneMask) : (g.follow m).tmask = g.tmask := rfl
@[simp] theorem Group.follow_tcause (g : Group) (m : LaneMask) : (g.follow m).tcause = g.tcause := rfl
@[simp] theorem Group.follow_taddr (g : Group) (m : LaneMask) : (g.follow m).taddr = g.taddr := rfl
@[simp] theorem Group.follow_gang (g : Group) (m : LaneMask) : (g.follow m).gang = g.gang := rfl
@[simp] theorem Group.follow_triggered (g : Group) (m : LaneMask) : (g.follow m).triggered = g.triggered := rfl
@[simp] theorem Group.follow_raises (g : Group) (m : LaneMask) : (g.follow m).raises = g.raises := rfl

end Sys2Proof.Machine
end

