-- ==== Sys2Proof/Laws/Store.lean ====
section
/-! SUPPORT. Laws of the sparse tables: reading after writing, here and elsewhere. -/

namespace Sys2Proof.Machine

theorem Store.lookup_put_same {α : Type} (m : Store α) (k : Nat) (v : α) : (Store.put m k v).lookup k = some v := by
  induction m with
  | nil => simp [Store.put]
  | cons p r ih =>
    obtain ⟨j, w⟩ := p
    rw [Store.put]
    split
    · simp
    · split
      · simp
      · rename_i h; simp [List.lookup_cons, show (k == j) = false by simpa using h, ih]

theorem Store.lookup_put_other {α : Type} (m : Store α) (k j : Nat) (v : α) (h : j ≠ k) :
    (Store.put m k v).lookup j = m.lookup j := by
  induction m with
  | nil => simp [Store.put, List.lookup_cons, show (j == k) = false by simpa using h]
  | cons p r ih =>
    obtain ⟨i, w⟩ := p
    rw [Store.put]
    split
    · simp [List.lookup_cons, show (j == k) = false by simpa using h]
    · split
      · rename_i h'; subst h'; simp [List.lookup_cons, show (j == k) = false by simpa using h]
      · simp [List.lookup_cons, ih]

theorem Store.lookup_put {α : Type} (m : Store α) (k j : Nat) (v : α) :
    (Store.put m k v).lookup j = if j = k then some v else m.lookup j := by
  split
  · subst_vars; exact Store.lookup_put_same m _ v
  · exact Store.lookup_put_other m k j v ‹_›

theorem Store.lookup_modify {α : Type} (m : Store α) (k j : Nat) (f : α → α) :
    (Store.modify m k f).lookup j = if j = k then (m.lookup j).map f else m.lookup j := by
  induction m with
  | nil => simp [Store.modify]
  | cons p r ih =>
    obtain ⟨i, w⟩ := p
    have ih' : List.lookup j (List.map (fun p : Nat × α => if p.1 = k then (p.1, f p.2) else p) r) =
        if j = k then (r.lookup j).map f else r.lookup j := ih
    rw [Store.modify, List.map_cons]
    by_cases hi : i = k <;> by_cases hj : j = i
    · subst hi hj; simp
    · subst hi; simp [List.lookup_cons, show (j == i) = false by simpa using hj, ih', hj]
    · subst hj; simp [hi]
    · simp [hi, List.lookup_cons, show (j == i) = false by simpa using hj, ih']

@[simp] theorem Store.at_put_same {α : Type} (m : Store α) (k : Nat) (v d : α) : (Store.put m k v).at k d = v := by
  simp [Store.at, Store.lookup_put_same]

theorem Store.at_put_other {α : Type} (m : Store α) (k j : Nat) (v d : α) (h : j ≠ k) :
    (Store.put m k v).at j d = m.at j d := by
  simp [Store.at, Store.lookup_put_other m k j v h]

end Sys2Proof.Machine
end

