-- ==== Sys2Proof/Laws/Registers.lean ====
section
/-! SUPPORT. Laws of registers and of the instructions that write one register: what `laneWrite`, `uniWrite`, `predWrite`
and `State.retire` can do, said once. -/

namespace Sys2Proof.Machine

/-! ### Masks -/

theorem mem_lanes (m : LaneMask) (l : Nat) : l ∈ lanes m ↔ m.getLsbD l = true := by
  simp only [lanes, List.mem_filter, List.mem_range]
  exact ⟨fun h => h.2, fun h => ⟨by by_contra hl; rw [BitVec.getLsbD_of_ge _ _ (by omega)] at h; simp at h, h⟩⟩

theorem lanes_nodup (m : LaneMask) : (lanes m).Nodup := List.nodup_range.filter _

@[simp] theorem getLsbD_laneBit (l k : Nat) (h : k < 64) : (laneBit l).getLsbD k = decide (k = l) := by
  simp only [laneBit, BitVec.getLsbD_ofNat, h, decide_true, Bool.true_and, Nat.testBit_two_pow]
  simp [eq_comm]

/-! ### One register -/

theorem Group.vreg_setV (g : Group) (gid lane n l k : Nat) (x : Word) (hn : n < 256) (hk : k < 256) :
    (g.setV lane n x).vreg gid l k = if l = lane ∧ k = n then x else g.vreg gid l k := by
  unfold Group.vreg Group.setV
  simp only [Store.lookup_put]
  by_cases h : l = lane ∧ k = n
  · simp [h]
  · rw [if_neg h, if_neg (by omega)]; rfl

theorem Group.ureg_setU (g : Group) (gid n k : Nat) (x : DWord) :
    (g.setU n x).ureg gid k = if k = n then x else g.ureg gid k := by
  unfold Group.ureg Group.setU
  simp only [Store.lookup_put, Group.unwritten]
  split <;> rfl

theorem Group.pred_setP (g : Group) (gid n k l : Nat) (m v : LaneMask) :
    ((g.setP gid n m v).pred gid k).getLsbD l =
      if k = n ∧ m.getLsbD l then v.getLsbD l else (g.pred gid k).getLsbD l := by
  by_cases hk : k = n
  · subst hk
    have h : (g.setP gid k m v).pred gid k = (g.pred gid k &&& ~~~m) ||| (v &&& m) := by
      rw [Group.pred, Group.setP]
      simp only [Store.lookup_put_same, Option.getD_some]
    rw [h]
    by_cases hl : l < 64
    · cases hm : m.getLsbD l <;>
        simp only [BitVec.getLsbD_or, BitVec.getLsbD_and, BitVec.getLsbD_not, hm, hl] <;> simp
    · simp [BitVec.getLsbD_of_ge _ l (Nat.le_of_not_lt hl)]
  · simp [Group.pred, Group.setP, Group.unwritten, Store.lookup_put, hk]

/-- A result of a type goes to one register or to a pair, and nowhere else. -/
theorem Group.vreg_write (g : Group) (gid : Nat) (t : Ty) (lane d r l n : Nat) (hd : d < 256)
    (he : t.bits = 64 → d + 1 < 256) (hn : n < 256) :
    (g.write t lane d r).vreg gid l n =
      if l = lane then (resultWord t d r n).getD (g.vreg gid l n) else g.vreg gid l n := by
  unfold Group.write resultWord
  split
  · rename_i h
    rw [Group.setPair, Group.vreg_setV _ _ _ _ _ _ _ (he h) hn, Group.vreg_setV _ _ _ _ _ _ _ hd hn]
    have e1 : BitVec.setWidth 32 (BitVec.ofNat 64 r) = BitVec.ofNat 32 r := by
      apply BitVec.eq_of_toNat_eq
      simp [BitVec.toNat_ofNat]
    have e2 : BitVec.setWidth 32 (BitVec.ofNat 64 r >>> 32) = BitVec.ofNat 32 (r / 2 ^ 32) := by
      apply BitVec.eq_of_toNat_eq
      simp only [BitVec.toNat_setWidth, BitVec.toNat_ushiftRight, BitVec.toNat_ofNat, Nat.shiftRight_eq_div_pow]
      omega
    by_cases hl : l = lane
    · subst hl
      by_cases h1 : n = d
      · subst h1; simp [e1]
      · by_cases h2 : n = d + 1
        · subst h2; simp [e2]
        · simp [h1, h2]
    · simp [hl]
  · rw [Group.vreg_setV _ _ _ _ _ _ _ hd hn]
    by_cases hl : l = lane
    · by_cases h1 : n = d <;> simp [hl, h1]
    · simp [hl]

/-- A write changes the vector registers alone. -/
theorem Group.write_only (g : Group) (t : Ty) (lane d r : Nat) :
    g.write t lane d r = { g with vregs := (g.write t lane d r).vregs } := by
  unfold Group.write; split <;> rfl

/-! ### The lanes of a mask -/

theorem Group.foldl_write_only (ls : List Nat) (t : Ty) (d : Nat) (f : Nat → Nat) : ∀ g : Group,
    ls.foldl (fun g l => g.write t l d (f l)) g =
      { g with vregs := (ls.foldl (fun g l => g.write t l d (f l)) g).vregs } := by
  induction ls with
  | nil => intro g; rfl
  | cons a r ih =>
    intro g
    simp only [List.foldl_cons]
    rw [ih (g.write t a d (f a)), Group.write_only g t a d (f a)]

theorem Group.vreg_foldl_write (ls : List Nat) (gid : Nat) (t : Ty) (d n : Nat) (f : Nat → Nat) (hd : d < 256)
    (he : t.bits = 64 → d + 1 < 256) (hn : n < 256) : ∀ (g : Group) (l : Nat), ls.Nodup →
    (ls.foldl (fun g l => g.write t l d (f l)) g).vreg gid l n =
      if l ∈ ls then (resultWord t d (f l) n).getD (g.vreg gid l n) else g.vreg gid l n := by
  induction ls with
  | nil => intro g l _; simp
  | cons a r ih =>
    intro g l hnd
    obtain ⟨ha, hr⟩ := List.nodup_cons.mp hnd
    simp only [List.foldl_cons]
    rw [ih _ _ hr, Group.vreg_write _ _ _ _ _ _ _ _ hd he hn]
    by_cases hl : l = a
    · subst hl; simp [ha]
    · simp [hl]

theorem Group.writeLanes_only (g : Group) (m : LaneMask) (t : Ty) (d : Nat) (f : Nat → Nat) :
    g.writeLanes m t d f = { g with vregs := (g.writeLanes m t d f).vregs } :=
  Group.foldl_write_only _ _ _ _ _

theorem Group.vreg_writeLanes (g : Group) (gid : Nat) (m : LaneMask) (t : Ty) (d l n : Nat) (f : Nat → Nat)
    (hd : d < 256) (he : t.bits = 64 → d + 1 < 256) (hn : n < 256) :
    (g.writeLanes m t d f).vreg gid l n =
      if m.getLsbD l then (resultWord t d (f l) n).getD (g.vreg gid l n) else g.vreg gid l n := by
  rw [Group.writeLanes, Group.vreg_foldl_write _ _ _ _ _ _ hd he hn _ _ (lanes_nodup m)]
  by_cases h : m.getLsbD l
  · rw [if_pos ((mem_lanes m l).mpr h), if_pos h]
  · rw [if_neg (fun h' => h ((mem_lanes m l).mp h')), if_neg h]

theorem getLsbD_laneTest (m : LaneMask) (f : Nat → Bool) (l : Nat) (hl : l < 64) :
    (laneTest m f).getLsbD l = (m.getLsbD l && f l) := by
  have gen : ∀ (ls : List Nat) (acc : LaneMask),
      (ls.foldl (fun acc l => if f l then acc ||| laneBit l else acc) acc).getLsbD l =
        (acc.getLsbD l || (decide (l ∈ ls) && f l)) := by
    intro ls
    induction ls with
    | nil => intro acc; simp
    | cons a r ih =>
      intro acc
      simp only [List.foldl_cons, ih]
      by_cases ha : l = a
      · subst ha
        cases hf : f l
        · simp
        · simp only [if_true, BitVec.getLsbD_or, getLsbD_laneBit _ _ hl, decide_true]; simp
      · cases hf : f a
        · simp [ha]
        · simp only [if_true, BitVec.getLsbD_or, getLsbD_laneBit _ _ hl]; simp [ha]
  rw [laneTest, gen]
  simp [mem_lanes]

/-! ### Moving the entry on leaves the registers alone -/

theorem Group.advance_vregs (g : Group) (x : Slot) (v : Store Word) :
    { g with vregs := v }.advance x = { g.advance x with vregs := v } := by
  unfold Group.advance Group.follow Group.entryOf
  simp only
  split
  · rfl
  · split
    · split <;> rfl
    · rfl

theorem Group.advance_uregs (g : Group) (x : Slot) (v : Store DWord) :
    { g with uregs := v }.advance x = { g.advance x with uregs := v } := by
  unfold Group.advance Group.follow Group.entryOf
  simp only
  split
  · rfl
  · split
    · split <;> rfl
    · rfl

theorem Group.advance_preds (g : Group) (x : Slot) (v : Store LaneMask) :
    { g with preds := v }.advance x = { g.advance x with preds := v } := by
  unfold Group.advance Group.follow Group.entryOf
  simp only
  split
  · rfl
  · split
    · split <;> rfl
    · rfl

@[simp] theorem Group.vregs_advance (g : Group) (x : Slot) : (g.advance x).vregs = g.vregs :=
  (congrArg Group.vregs (Group.advance_vregs g x g.vregs) :)

@[simp] theorem Group.uregs_advance (g : Group) (x : Slot) : (g.advance x).uregs = g.uregs :=
  (congrArg Group.uregs (Group.advance_uregs g x g.uregs) :)

@[simp] theorem Group.preds_advance (g : Group) (x : Slot) : (g.advance x).preds = g.preds :=
  (congrArg Group.preds (Group.advance_preds g x g.preds) :)

@[simp] theorem Group.fresh_advance (g : Group) (x : Slot) : (g.advance x).fresh = g.fresh := by
  unfold Group.advance Group.follow Group.entryOf
  simp only
  split
  · rfl
  · split
    · split <;> rfl
    · rfl

@[simp] theorem Group.vreg_advance (g : Group) (x : Slot) (k l n : Nat) :
    (g.advance x).vreg k l n = g.vreg k l n := by simp [Group.vreg, Group.unwritten]

@[simp] theorem Group.ureg_advance (g : Group) (x : Slot) (k n : Nat) : (g.advance x).ureg k n = g.ureg k n := by
  simp [Group.ureg, Group.unwritten]

@[simp] theorem Group.pred_advance (g : Group) (x : Slot) (k n : Nat) : (g.advance x).pred k n = g.pred k n := by
  simp [Group.pred, Group.unwritten]

theorem Group.advance_setU (g : Group) (x : Slot) (n : Nat) (v : DWord) :
    (g.setU n v).advance x = { g.advance x with uregs := ((g.setU n v).advance x).uregs } := by
  rw [Group.uregs_advance]; exact Group.advance_uregs g x _

theorem Group.advance_setP (g : Group) (x : Slot) (k n : Nat) (m v : LaneMask) :
    (g.setP k n m v).advance x = { g.advance x with preds := ((g.setP k n m v).advance x).preds } := by
  rw [Group.preds_advance]; exact Group.advance_preds g x _

theorem Group.advance_writeLanes (g : Group) (x : Slot) (m : LaneMask) (t : Ty) (d : Nat) (f : Nat → Nat) :
    (g.writeLanes m t d f).advance x = { g.advance x with vregs := ((g.writeLanes m t d f).advance x).vregs } := by
  rw [Group.vregs_advance, Group.writeLanes_only]; exact Group.advance_vregs g x _

/-! ### Running for the issuing entry -/

theorem withIssue_eq {s : State} {gd : Guard} {i : Issue} (h : s.issuing gd = some i) (k : Issue → Result) :
    withIssue s gd k = k i := by
  unfold State.issuing at h
  unfold withIssue
  cases hx : s.issue with
  | none => simp [hx] at h
  | some x =>
    cases hg : s.groups.lookup x.group with
    | none => simp [hx, hg] at h
    | some g => simp [hx, hg] at h; simp [h, hg]

theorem issuing_lookup {s : State} {gd : Guard} {i : Issue} (h : s.issuing gd = some i) :
    s.groups.lookup i.gid = some i.grp := by
  unfold State.issuing at h
  cases hx : s.issue with
  | none => simp [hx] at h
  | some x =>
    cases hg : s.groups.lookup x.group with
    | none => simp [hx, hg] at h
    | some g => simp [hx, hg] at h; subst h; exact hg

/-- Rewriting the issuing group changes that group alone. -/
theorem Issue.changes_onGroup {s : State} {gd : Guard} {i : Issue} (h : s.issuing gd = some i) (f : Group → Group) :
    i.Changes s (s.onGroup i.gid f) (f i.grp) where
  rest := rfl
  own := by simp [State.onGroup, Store.lookup_modify, issuing_lookup h]
  others k hk := by simp [State.onGroup, Store.lookup_modify, hk]

/-- Retiring changes the issuing group alone, by the writes and then by moving on. -/
theorem retire_spec {s : State} {gd : Guard} {i : Issue} (h : s.issuing gd = some i) (f : Group → Group) :
    i.Changes s (s.retire i f) ((f i.grp).advance i.slot) := Issue.changes_onGroup h _

theorem retire_id_spec {s : State} {gd : Guard} {i : Issue} (h : s.issuing gd = some i) :
    MovesOn s i (.next (s.retire i id)) := ⟨_, rfl, retire_spec h id⟩

/-- What a lane instruction does. -/
theorem laneWrite_spec {s : State} {e : Ext} {i : Issue} (t : Ty) (f : Issue → Nat → Nat)
    (h : s.issuing e.g = some i) (he : t.bits = 64 → e.d.n.toNat + 1 < 256) :
    LaneResult s i t e.d.n.toNat (f i) (laneWrite s e t f) := by
  rw [laneWrite, withIssue_eq h]
  refine ⟨_, rfl, _, retire_spec h _, Group.advance_writeLanes _ _ _ _ _ _, fun l n hn => ?_⟩
  rw [Group.vreg_advance]
  exact Group.vreg_writeLanes i.grp i.gid i.active t _ l n (f i) e.d.n.isLt he hn

/-- What a uniform instruction does. -/
theorem uniWrite_spec {s : State} {e : Ext} {i : Issue} (t : Ty) (f : Issue → Nat → Nat)
    (h : s.issuing e.g = some i) : UniResult s i t e.d.n.toNat (f i 0) (uniWrite s e t f) := by
  rw [uniWrite, withIssue_eq h]
  refine ⟨_, rfl, _, retire_spec h _, ?_, fun n => ?_⟩
  · by_cases ha : i.active = 0
    · simp only [ha, if_true]; rfl
    · simp only [ha, if_false]; exact Group.advance_setU _ _ _ _
  · rw [Group.ureg_advance]
    by_cases ha : i.active = 0
    · simp [ha]
    · rw [if_neg ha, Group.writeU, Group.ureg_setU]; exact if_congr (by simpa using fun _ => ha) rfl rfl

/-- What a predicate-writing instruction does. -/
theorem predWrite_spec {s : State} {gd : Guard} {i : Issue} (pd : Nat) (f : Issue → LaneMask)
    (h : s.issuing gd = some i) :
    PredResult s i pd (fun l => (f i).getLsbD l) (predWrite s gd pd f) := by
  rw [predWrite, withIssue_eq h]
  refine ⟨_, rfl, _, retire_spec h _, Group.advance_setP _ _ _ _ _ _, fun n l _ => ?_⟩
  rw [Group.pred_advance]
  exact Group.pred_setP i.grp i.gid pd n l i.active (f i)

end Sys2Proof.Machine
end

