-- ==== Sys2Proof/Tests/Slice0.lean ====
section
/-! SUPPORT. Tests: words and values of the manual's own examples, ill-formed terms that the checks refuse, and for each
statement a state and operands that meet its hypotheses. -/

namespace Sys2Proof.Tests

open Sys2Proof.Machine Sys2Proof.Claims

-- Theorems are checked one after another: each evaluates in the kernel, and many at once need a thread each.
set_option Elab.async false

/-! ### Instructions by their operands -/

/-- Vector and uniform destinations. -/
def vd (n : BitVec 8) : Dst := { uni := false, n := n }
def ud (n : BitVec 8) : Dst := { uni := true, n := n }

/-- Instructions of the extended formats, unguarded unless said otherwise, with unused fields at 0. -/
def xa (t : Ty) (d : Dst) (a b : Src) (c : Src := .v 0) (q : BitVec 8 := 0) (pd : BitVec 4 := 15) (sub : BitVec 6 := 0)
    (g : Guard := .always) : XA :=
  { g := g, sub := sub, la := 0, d := d, a := a, b := b, c := c, pd := pd, q := q, t := t }

def xm (t : Ty) (d : Dst) (a b : Src) (c : Src := .v 0) (disp : BitVec 16 := 0) (s : BitVec 4 := 0) (o : BitVec 2 := 0)
    (sl : BitVec 3 := 0) (ranged : Bool := false) (sub : BitVec 6 := 0) (g : Guard := .always) : XM :=
  { g := g, sub := sub, la := 0, d := d, a := a, b := b, c := c, disp := disp, ranged := ranged, sl := sl, o := o, s := s,
    v := 0, t := t }

def xc (a : Src) (target : Target) (prio : BitVec 8 := 128) (sub : BitVec 6 := 0) : XC :=
  { g := .always, sub := sub, la := 0, d := vd 0, a := a, b := .v 0, c := .v 0, prio := prio, target := target }

def xs (d : Dst) (a b c : Src) (i32 : BitVec 32 := 0) : XS :=
  { g := .always, sub := 0, la := 0, d := d, a := a, b := b, c := c, i32 := i32 }

/-! ### Words of the manual -/

/-- R208's worked example, `(!p2) add.s32 v4, v5, #16`. -/
theorem test_word_add : decodeBits (0x02824881 + 2 ^ 32 * 0x000C0010 + 2 ^ 64 * 0x0000F002) =
    .ok (.add (xa .s32 (vd 4) (.v 5) (.imm 16) (g := { g := 2, neg := true }))) 3 := by decide

/-- The same from its bytes in memory (R208). -/
theorem test_bytes_add : decodeBytes [0x81, 0x48, 0x82, 0x02, 0x10, 0x00, 0x0C, 0x00, 0x02, 0xF0, 0x00, 0x00] =
    .ok (.add (xa .s32 (vd 4) (.v 5) (.imm 16) (g := { g := 2, neg := true }))) 3 := by decide

/-- R208: `rep.d.a #4`. -/
theorem test_word_rep : decodeBits 0x0061BC34 = .ok (.rep 3 3) 1 := by decide

/-- R235: `pand p1, p2, !p3`. -/
theorem test_word_pand : decodeBits 0x1190BC40 =
    .ok (.pand { g := .always, nb := true, na := false, pb := 3, pa := 2, pd := 1 }) 1 := by decide

/-- R239: `cmp.lt.s32 p2, v1, v3`. -/
theorem test_word_cmp : decodeBits (0x00803CBD + 2 ^ 32 * 0x08000003 + 2 ^ 64 * 0x00002002) =
    .ok (.cmp (xa .s32 (vd 0) (.v 1) (.v 3) (pd := 2) (sub := 2))) 3 := by decide

/-- R257, chapter 32: `perm.b32 v16, v1, g6, g5`. -/
theorem test_word_perm : decodeBits (0x00883C69 + 2 ^ 32 * 0x00140506 + 2 ^ 64 * 0x0000F008) =
    .ok (.perm (xa .b32 (vd 16) (.v 1) (.g 6) (.g 5))) 3 := by decide

/-- R257, chapter 32: `push.b32 v21, v1, v2, g5`. -/
theorem test_word_push : decodeBits (0x008ABC6D + 2 ^ 32 * 0x00100502 + 2 ^ 64 * 0x0000F008) =
    .ok (.push (xa .b32 (vd 21) (.v 1) (.v 2) (.g 5))) 3 := by decide

/-- R259, chapter 32: `compress.b32 v28, g7, v21, g5, p4`. -/
theorem test_word_compress : decodeBits (0x0A8E3C71 + 2 ^ 32 * 0x00140507 + 2 ^ 64 * 0x0000F048) =
    .ok (.compress (xa .b32 (vd 28) (.v 21) (.g 7) (.g 5) (q := 4))) 3 := by decide

/-- R243, chapter 24: `umov g4, #0x0008_0955`. -/
theorem test_word_umov : decodeBits (0x00023D3E + 2 ^ 32 * 0x00080955) = .ok (.umovLiteral .always 4 0x00080955) 3 := by
  decide

/-- R263: `st.g.rel.dev.s32 [v6 + 8], v9`. -/
theorem test_word_store : decodeBits (0x03003E15 + 2 ^ 32 * 0x00000009 + 2 ^ 64 * 0x00080902) =
    .ok (.stG (xm .s32 (vd 0) (.v 6) (.v 9) (disp := 8) (s := 4) (o := 2))) 3 := by decide

/-- R260, chapter 30: `ld.f.s32 v10, [v9]`. -/
theorem test_word_floor_load : decodeBits (0x04853E0D + 2 ^ 64 * 0x00000002) =
    .ok (.ldF (xm .s32 (vd 10) (.v 9) (.v 0))) 3 := by decide

/-- R265, chapter 22: `ldu.acq.dev.s32 g3, [g2 + 4096]`. -/
theorem test_word_uniform_load : decodeBits (0x8101BE35 + 2 ^ 32 * 0x00010000 + 2 ^ 64 * 0x10000502) =
    .ok (.ldu (xm .s32 (ud 3) (.g 2) (.v 0) (disp := 0x1000) (s := 4) (o := 1))) 3 := by decide

/-- R272: `acq.chn g2, g4, g5`. -/
theorem test_word_acquire : decodeBits (0x02003E45 + 2 ^ 32 * 0x00150205 + 2 ^ 64 * 0x000081C0) =
    .ok (.acq (xm .s8 (vd 0) (.g 4) (.g 5) (.g 2) (s := 7) (ranged := true))) 3 := by decide

/-- R274, chapter 23: `clean.bnk g2, g3`. -/
theorem test_word_clean : decodeBits (0x01003E4D + 2 ^ 32 * 0x00050003 + 2 ^ 64 * 0x0000C000) =
    .ok (.clean (xm .s8 (vd 0) (.g 2) (.g 3) (sl := 4) (ranged := true))) 3 := by decide

/-- R277: `mcall v16, v8, g4, g5, back, #140`. -/
theorem test_word_mcall : decodeBits (0x04083E69 + 2 ^ 32 * 0x00140504 + 2 ^ 64 * 0x8C000003) =
    .ok (.mcall (xs (vd 16) (.v 8) (.g 4) (.g 5) (i32 := 0x8C000003))) 3 := by decide

/-- R284: `nadd.f32 [v6 + 16], v9`. -/
theorem test_word_nadd : decodeBits (0x03003E6D + 2 ^ 32 * 0x00000009 + 2 ^ 64 * 0x00100009) =
    .ok (.nadd (xm .f32 (vd 0) (.v 6) (.v 9) (disp := 16))) 3 := by decide

/-- R285: `nfence`. -/
theorem test_word_nfence : decodeBits 0x00003E5C = .ok (.nfence .always) 1 := by decide

/-- R297: `finstall g4, g5, g6`. -/
theorem test_word_finstall : decodeBits (0x02003E95 + 2 ^ 32 * 0x00150605) =
    .ok (.finstall (xs (vd 0) (.g 4) (.g 5) (.g 6))) 3 := by decide

/-- R307, chapter 28: `mma.zero.seg.epi.hdl.e4m3.e4m3 g8`. -/
theorem test_word_mma : decodeBits (0x04003EA9 + 2 ^ 32 * 0x00010000 + 2 ^ 64 * 0x000001D0) =
    .ok (.mma (xs (vd 0) (.g 8) (.v 0) (.v 0) (i32 := 0x1D0))) 3 := by decide

/-- R305, chapter 28: `segtab #0x440, #2`, with its literal in words 3 and 4. -/
theorem test_word_segtab : decodeBits (0x00003EA3 + 2 ^ 32 * 0x000E0002 + 2 ^ 96 * 0x00000440) =
    .ok (.segtab (xs (vd 0) (.lit 0x440) (.imm 2) (.v 0))) 5 := by decide

/-- R317: `cpgo #1, g4`. -/
theorem test_word_cpgo : decodeBits (0x02003EC1 + 2 ^ 32 * 0x00010000 + 2 ^ 64 * 1) =
    .ok (.cpgo (xs (vd 0) (.g 4) (.v 0) (.v 0) (i32 := 1))) 3 := by decide

/-- R319: `hwait.full #0`. -/
theorem test_word_hwait : decodeBits (0x00003EC5 + 2 ^ 32 * 0x00030000 + 2 ^ 64 * 4) =
    .ok (.hwait (xs (vd 0) (.imm 0) (.v 0) (.v 0) (i32 := 4))) 3 := by decide

/-- R331, chapter 30: `setways #8`. -/
theorem test_word_setways : decodeBits (0x04003EDD + 2 ^ 32 * 0x00030000) =
    .ok (.setways (xs (vd 0) (.imm 8) (.v 0) (.v 0))) 3 := by decide

/-- R333: `icinv g2, g3`. -/
theorem test_word_icinv : decodeBits (0x01003E65 + 2 ^ 32 * 0x00050003) =
    .ok (.icinv (xs (vd 0) (.g 2) (.g 3) (.v 0))) 3 := by decide

/-- R335, chapter 30: `tret.skip`. -/
theorem test_word_tret_skip : decodeBits 0x0000BC28 = .ok (.tretSkip .always) 1 := by decide

/-- R337, chapter 32: `ccwait g4, [g8], g9`. -/
theorem test_word_ccwait : decodeBits (0x84023EE1 + 2 ^ 32 * 0x00050009) =
    .ok (.ccwait (xs (ud 4) (.g 8) (.g 9) (.v 0))) 3 := by decide

/-- The table's numbering of bits gives the same decoder (log 9). -/
theorem test_table_word : decodeTableWord 32 0x00003E5C = some (.nfence .always) := by decide

/-- Opcode 0 is unassigned (R207, R208). -/
theorem test_unassigned : decodeBits 0 = .illegalOp := by decide

/-- A reserved guard, and a bit of F that `nop` does not define, are illegal fields (R192, R208, R231). -/
theorem test_reserved_guard : decodeBits 0x00003004 = .illegalField ∧ decodeBits 0x00007C04 = .illegalField := by decide

/-! ### Ill-formed terms that the checks refuse -/

/-- Guard 13 is reserved (R192). -/
theorem test_refused_guard : (Instr.add (xa .s32 (vd 4) (.v 5) (.v 6) (g := { g := 13, neg := false }))).wellFormed = false ∧
    (Instr.add (xa .s32 (vd 4) (.v 5) (.v 6) (g := { g := 15, neg := true }))).wellFormed = false := by decide

/-- `add` reads two sources: a third is refused, as is a uniform destination (R195). -/
theorem test_refused_fields : (Instr.add (xa .s32 (vd 4) (.v 5) (.v 6) (c := .v 1))).wellFormed = false ∧
    (Instr.add (xa .s32 (ud 4) (.v 5) (.v 6))).wellFormed = false := by decide

/-- A pair starts at an even register (R4, R195). -/
theorem test_refused_pair : (Instr.add (xa .s64 (vd 5) (.v 6) (.v 8))).wellFormed = false ∧
    (Instr.add (xa .s64 (vd 4) (.v 7) (.v 8))).wellFormed = false := by decide

/-- Two literals are refused, and one wider than its use (R196). -/
theorem test_refused_literals : (Instr.add (xa .s32 (vd 4) (.lit 1) (.lit 2))).wellFormed = false ∧
    (Instr.add (xa .s32 (vd 4) (.v 5) (.lit (2 ^ 32)))).wellFormed = false := by decide

/-- A uniform register above 63 is refused, as source and as destination (R195). -/
theorem test_refused_uniform : (Instr.add (xa .s32 (vd 4) (.g 64) (.v 6))).wellFormed = false ∧
    (Instr.uadd (xa .s32 (ud 64) (.g 1) (.g 2))).wellFormed = false := by decide

/-- A type that the entry does not list, a Q bit and a SUB value that it does not define (R198, R239, R240). -/
theorem test_refused_type : (Instr.add (xa .f32 (vd 4) (.v 5) (.v 6))).wellFormed = false ∧
    (Instr.add (xa .s32 (vd 4) (.v 5) (.v 6) (q := 2))).wellFormed = false ∧
    (Instr.cmp (xa .s32 (vd 0) (.v 1) (.v 3) (pd := 2) (sub := 6))).wellFormed = false := by decide

/-- PD of an instruction that writes no predicate is 15, and of one that does it is below 12 (R197). -/
theorem test_refused_predicate : (Instr.add (xa .s32 (vd 4) (.v 5) (.v 6) (pd := 3))).wellFormed = false ∧
    (Instr.cmp (xa .s32 (vd 0) (.v 1) (.v 3) (pd := 12) (sub := 2))).wellFormed = false ∧
    (Instr.pand { g := .always, nb := false, na := false, pb := 12, pa := 2, pd := 1 }).wellFormed = false := by decide

/-- An access with a reserved scope, an order without a scope, an acquire form of a store (R261, R263). -/
theorem test_refused_access : (Instr.ldG (xm .s32 (vd 4) (.v 6) (.v 0) (s := 11))).wellFormed = false ∧
    (Instr.ldG (xm .s32 (vd 4) (.v 6) (.v 0) (o := 1))).wellFormed = false ∧
    (Instr.stG (xm .s32 (vd 0) (.v 6) (.v 9) (s := 4) (o := 1))).wellFormed = false := by decide

/-- A unit operand where the scope names no unit (R114, R263). -/
theorem test_refused_unit : (Instr.ldG (xm .s32 (vd 4) (.v 6) (.v 0) (.g 2) (s := 4))).wellFormed = false := by decide

/-- Lookahead on an instruction that has none (R202). -/
theorem test_refused_lookahead : (Instr.add { xa .s32 (vd 4) (.v 5) (.v 6) with la := 1 }).wellFormed = false := by decide

/-- Status register 17 does not exist; a cache level 0; a `launch` block that is misaligned (R274, R324, R329). -/
theorem test_refused_system : (Instr.sreg (xs (vd 4) (.v 0) (.v 0) (.v 0) (i32 := 17))).wellFormed = false ∧
    (Instr.clean (xm .s8 (vd 0) (.g 2) (.g 3) (ranged := true))).wellFormed = false ∧
    (Instr.launch (xs (ud 1) (.g 49) (.v 0) (.v 0))).wellFormed = false := by decide

/-- Registers above the launch's count are refused when the instruction issues (R29, R195). -/
theorem test_refused_count : (Instr.add (xa .s32 (vd 16) (.v 5) (.v 6))).fits 16 = false ∧
    (Instr.add (xa .s32 (vd 15) (.v 5) (.v 6))).fits 16 = true := by decide

/-! ### Scenes: one lane that issues at 0x1000 -/

/-- The slot, and a group of eight lanes with one of them live. -/
def slot1 : Slot := { group := 0, mask := 1, pc := 0x1000, words := 1, port := 0, bits := none, behind := none }
def entry1 : Entry := Entry.make 128 0x1000 1
def group1 : Group :=
  { testGroup 0 0x1000 with
    live := 1, front := { entries := [entry1], parked := [], pool := [], waits := [] } }

/-- The machine of log 9 with that group, changed by `g`, issuing; and what issues. -/
def solo (g : Group → Group) : State :=
  { State.reset.aboutToIssue [] with groups := [(0, g group1)], slots := [], issue := some slot1 }
def here (g : Group → Group) : Issue := { gid := 0, grp := g group1, slot := slot1, active := 1, blame := none }

/-- The unguarded form issues with its lane active. -/
theorem solo_issuing (g : Group → Group) : (solo g).issuing .always = some (here g) := rfl

/-- A guard that is false in the lane. -/
def never : Guard := { g := 0, neg := false }
def idle : Issue := { here id with active := 0 }
theorem solo_idle : (solo id).issuing never = some idle := rfl

/-- Only lane 0 lies in mask 1. -/
theorem lane_zero {l : Nat} (h : (1 : LaneMask).getLsbD l = true) : l = 0 := by
  by_contra hn
  have : l < 64 := by
    by_contra hl
    simp [BitVec.getLsbD_of_ge _ _ (Nat.le_of_not_lt hl)] at h
  revert h
  interval_cases l <;> simp_all

/-- Registers of the lane and of the group. -/
def withV (vs : Store Word) (g : Group) : Group := { g with vregs := vs }
def withU (us : Store DWord) (g : Group) : Group := { g with uregs := us }

/-- A value of the group after a run. -/
def after {α : Type} (r : Result) (f : Group → α) : Option α :=
  match r with
  | .next t => (t.groups.lookup 0).map f
  | _ => none

/-! ### Witnesses: encoding, step, invariant -/

theorem witness_EncodedInstructionsDecode :
    (Instr.add (xa .s32 (vd 4) (.v 5) (.imm 16) (g := { g := 2, neg := true }))).wellFormed = true := by decide

theorem witness_DecodedInstructionsEncode : ∃ i n, decodeBits 0x00003E5C = .ok i n := ⟨_, _, test_word_nfence⟩

/-- The state in which `add v0, v0, v0` stands at the slot, and one in which it repeats. -/
def fetching (repeating : Bool) : State :=
  { State.reset.aboutToIssue [0x81, 0x3C, 0x00, 0, 0, 0, 0, 0, 0x02, 0xF0] with
    groups := [(0, { testGroup 0 0x1000 with
      rep := 0x1040,
      front := { entries := [{ Entry.make 128 0x1000 0xFF with repeating := repeating }],
                 parked := [], pool := [], waits := [] } })] }

theorem witness_StepRunsTheDecodedInstruction (repeating : Bool) :
    let s := fetching repeating
    let x : Slot := { group := 0, mask := 0xFF, pc := 0x1000, words := 0, port := 0, bits := none, behind := none }
    ∃ g e i n j, s.agenda = [] ∧ s.slots = [x] ∧ s.groups.lookup x.group = some g ∧ g.entryOf x.mask = some e ∧
      e.pc = x.pc ∧ Stands s x g e i n ∧ e.repeating = repeating ∧ (repeating = false → j = i) ∧
      (repeating = true → mayRepeat i g.count g.rep = true ∧
        i.repeated g.count (repSteps g.rep) (repDone g.rep) = some j) ∧
      e.hold = .free ∧ g.flights = [] ∧ g.trap = none ∧
      State.lacks { s with slots := [] } (e.issue x.group g j n 0) j = false ∧ NoRegisterFlaw s x.group := by
  cases repeating
  · exact ⟨_, _, _, _, _, rfl, rfl, rfl, rfl, rfl,
      ⟨_, rfl, by decide, .inr ⟨rfl, ⟨_, rfl, rfl⟩, fun _ _ h => Instr.noConfusion h⟩⟩, rfl, fun _ => rfl,
      fun h => absurd h (by decide), rfl, rfl, rfl, by decide, fun _ h => absurd h List.not_mem_nil⟩
  · exact ⟨_, _, _, _, _, rfl, rfl, rfl, rfl, rfl,
      ⟨_, rfl, by decide, .inr ⟨rfl, ⟨_, rfl, rfl⟩, fun _ _ h => Instr.noConfusion h⟩⟩, rfl,
      fun h => absurd h (by decide), fun _ => ⟨by decide, rfl⟩, rfl, rfl, rfl, by decide,
      fun _ h => absurd h List.not_mem_nil⟩

/-- An entry that is held, and one whose lane has an instruction in flight that admits no successor, is not ready. -/
theorem witness_StepPassesOver : ({ entry1 with hold := .waitdep } : Entry).hold ≠ .free ∧
    ∃ f ∈ ([{ ticket := 5, pc := 0xFF4, next := 0x1000, mask := 1, left := 0, issued := 0, writes := [] }] : List Flight),
      f.mask &&& entry1.mask ≠ 0 ∧ f.left = 0 := by decide

theorem witness_agenda : ∃ s : State, ∃ i : Instr, s.agenda = [.event i] ∧ i.form = none :=
  ⟨{ State.reset with agenda := [.event (.refresh 3)] }, .refresh 3, rfl, rfl⟩

theorem witness_agenda_passed : ∃ s : State, ∃ i : Instr, s.agenda = [.event i] ∧ i.form.isSome = true :=
  ⟨{ State.reset with agenda := [.event (.nop .always)] }, .nop .always, rfl, rfl⟩

/-- The first step of `withFetchWord` runs the word: `nop` moves its lanes on (log 9). -/
theorem test_step_runs_word :
    after (step (State.reset.withFetchWord 32 0x00003C04)) (fun g => g.front.entries.map fun e => e.pc) = some [0x1004] := by
  decide

theorem witness_StepKeepsMemoryCanonical : State.reset.Canonical ∧ ∃ t, step State.reset = .next t :=
  ⟨⟨by decide, by decide, by decide, by decide, by decide⟩, _, rfl⟩

/-! ### Witnesses: results -/

theorem witness_ArithmeticResults : ∃ r i, arithmetic (.add (xa .s32 (vd 4) (.v 5) (.imm 16))) = some r ∧
    (Instr.add (xa .s32 (vd 4) (.v 5) (.imm 16))).wellFormed = true ∧ (solo id).issuing r.guard = some i :=
  ⟨_, _, rfl, by decide, rfl⟩

theorem witness_BitwiseResults : ∃ r i, bitwise (.shr (xa .s32 (vd 4) (.v 5) (.imm 31))) = some r ∧
    (Instr.shr (xa .s32 (vd 4) (.v 5) (.imm 31))).wellFormed = true ∧ (solo id).issuing r.guard = some i :=
  ⟨_, _, rfl, by decide, rfl⟩

theorem witness_MoveResults : ∃ r i, moves (.sel (xa .b32 (vd 4) (.v 5) (.v 6) (q := 15))) = some r ∧
    (Instr.sel (xa .b32 (vd 4) (.v 5) (.v 6) (q := 15))).wellFormed = true ∧ (solo id).issuing r.guard = some i :=
  ⟨_, _, rfl, by decide, rfl⟩

theorem witness_FloatingResults : ∃ r i, floating (.fma (xa .f32 (vd 4) (.v 5) (.v 6) (.v 7))) = some r ∧
    (Instr.fma (xa .f32 (vd 4) (.v 5) (.v 6) (.v 7))).wellFormed = true ∧ (solo id).issuing r.guard = some i :=
  ⟨_, _, rfl, by decide, rfl⟩

theorem witness_ConversionResults : ∃ r i, converting (.cvt (xa .s8 (vd 4) (.v 5) (.v 0) (q := 9))) = some r ∧
    (Instr.cvt (xa .s8 (vd 4) (.v 5) (.v 0) (q := 9))).wellFormed = true ∧ (solo id).issuing r.guard = some i :=
  ⟨_, _, rfl, by decide, rfl⟩

theorem witness_PackedResults : ∃ r i, packing (.hadd (xa .f16 (vd 4) (.v 5) (.v 6))) = some r ∧
    (Instr.hadd (xa .f16 (vd 4) (.v 5) (.v 6))).wellFormed = true ∧ (solo id).issuing r.guard = some i :=
  ⟨_, _, rfl, by decide, rfl⟩

theorem witness_UniformResults : ∃ r i, uniform (.uadd (xa .n64 (ud 4) (.g 5) (.imm 1))) = some r ∧
    (Instr.uadd (xa .n64 (ud 4) (.g 5) (.imm 1))).wellFormed = true ∧ (solo id).issuing r.guard = some i :=
  ⟨_, _, rfl, by decide, rfl⟩

theorem witness_PredicateResults : ∃ r i, predicates (.cmp (xa .s32 (vd 0) (.v 1) (.v 3) (pd := 2) (sub := 2))) = some r ∧
    (Instr.cmp (xa .s32 (vd 0) (.v 1) (.v 3) (pd := 2) (sub := 2))).wellFormed = true ∧
    (solo id).issuing r.guard = some i :=
  ⟨_, _, rfl, by decide, rfl⟩

/-- The clauses of R70: operands that wrap, a divisor of 0, and the minimum by -1. -/
def byZero : XA := xa .s32 (vd 4) (.v 5) (.imm 0)
def byMinusOne : XA := xa .s32 (vd 4) (.v 5) (.imm 0xFF)
def atMinimum : Group → Group := withV [(5, 0x80000000)]

theorem witness_WrappingAndDivision (x : XA) (hx : x = byZero ∨ x = byMinusOne) :
    (Instr.add x).wellFormed = true ∧ (Instr.sub x).wellFormed = true ∧ (Instr.mul x).wellFormed = true ∧
    (Instr.shl x).wellFormed = true ∧ (Instr.div x).wellFormed = true ∧ (Instr.rem x).wellFormed = true ∧
    x.q.getLsbD 0 = false ∧ (solo atMinimum).issuing x.g = some (here atMinimum) ∧
    x.t.signed = true ∧ (here atMinimum).int x.t 0 x.a = x.t.minInt ∧
    (x = byZero → (here atMinimum).int x.t 0 x.b = 0) ∧ (x = byMinusOne → (here atMinimum).int x.t 0 x.b = -1) := by
  rcases hx with rfl | rfl
  all_goals exact ⟨by decide, by decide, by decide, by decide, by decide, by decide, by decide, rfl, by decide, by decide,
    by decide, by decide⟩

def uByZero : XA := xa .s32 (ud 4) (.g 5) (.imm 0)
def uByMinusOne : XA := xa .s32 (ud 4) (.g 5) (.imm 0xFF)
def uAtMinimum : Group → Group := withU [(5, 0x80000000)]

theorem witness_UniformWrapping (x : XA) (hx : x = uByZero ∨ x = uByMinusOne) :
    (Instr.uadd x).wellFormed = true ∧ (Instr.usub x).wellFormed = true ∧ (Instr.umul x).wellFormed = true ∧
    (Instr.ushl x).wellFormed = true ∧ (Instr.udiv x).wellFormed = true ∧ (Instr.urem x).wellFormed = true ∧
    x.q.getLsbD 0 = false ∧ (solo uAtMinimum).issuing x.g = some (here uAtMinimum) ∧
    x.t.signed = true ∧ (here uAtMinimum).int x.t 0 x.a = x.t.minInt ∧
    (x = uByZero → (here uAtMinimum).int x.t 0 x.b = 0) ∧ (x = uByMinusOne → (here uAtMinimum).int x.t 0 x.b = -1) := by
  rcases hx with rfl | rfl
  all_goals exact ⟨by decide, by decide, by decide, by decide, by decide, by decide, by decide, rfl, by decide, by decide,
    by decide, by decide⟩

/-- R70 by hand: 0x80000000 / -1 is 0x80000000 and its remainder 0. -/
theorem test_div_minimum :
    after (exec (.div byMinusOne) (solo atMinimum)) (fun g => g.vreg 0 0 4) = some 0x80000000 ∧
    after (exec (.rem byMinusOne) (solo atMinimum)) (fun g => g.vreg 0 0 4) = some 0 := by decide

/-- R70 by hand: a quotient by 0 is all ones, the remainder the dividend. -/
theorem test_div_zero :
    after (exec (.div byZero) (solo atMinimum)) (fun g => g.vreg 0 0 4) = some 0xFFFFFFFF ∧
    after (exec (.rem byZero) (solo atMinimum)) (fun g => g.vreg 0 0 4) = some 0x80000000 := by decide

/-- R69, R70 by hand: 0x80000000 + 0x80000000 wraps to 0; with `.sat` it clamps. -/
theorem test_add_wraps :
    after (exec (.add (xa .s32 (vd 4) (.v 5) (.v 5))) (solo atMinimum)) (fun g => g.vreg 0 0 4) = some 0 ∧
    after (exec (.add (xa .s32 (vd 4) (.v 5) (.v 5) (q := 1))) (solo atMinimum)) (fun g => g.vreg 0 0 4) =
      some 0x80000000 := by decide

theorem witness_NanResultsAreDefault : Flt.f32.value (Flt.f32.add 0x7F800000 0xFF800000) = .nan := by decide

theorem witness_RoundingKeepsWhatIsExact : (0x7E : Nat) < 2 ^ (Flt.e4m3.e + Flt.e4m3.m + 1) ∧ Flt.e4m3.value 0x7E ≠ .nan := by
  decide

def compared : XA := xa .f32 (vd 0) (.v 1) (.v 3) (pd := 2) (sub := 3)
theorem witness_UnorderedComparisons : (Instr.fcmp compared).wellFormed = true ∧
    (solo (withV [(1, 0x7FC00000), (3, 0)])).issuing compared.g = some (here (withV [(1, 0x7FC00000), (3, 0)])) ∧
    Flt.f32.value ((here (withV [(1, 0x7FC00000), (3, 0)])).raw .f32 0 compared.a) = .nan ∧
    (∃ e, Flt.f32.value ((here (withV [(1, 0x80000000), (3, 0)])).raw .f32 0 compared.a) = .fin true 0 e) ∧
    ∃ e, Flt.f32.value ((here (withV [(1, 0x80000000), (3, 0)])).raw .f32 0 compared.b) = .fin false 0 e :=
  ⟨by decide, rfl, by decide, ⟨_, rfl⟩, _, rfl⟩

/-! ### Witnesses: positions -/

/-- The lane's entry repeats, with a `$rep`. -/
def repeats (r : BitVec 16) (g : Group) : Group :=
  { g with rep := r, front := { g.front with entries := [{ entry1 with repeating := true }] } }

theorem witness_EntriesMoveOn : (here id).stands entry1 ∧ entry1.repeating = false ∧
    (∃ e, (here (repeats 0x0041)).stands e ∧ e.repeating = true ∧ repLast 0x0041 ≤ repDone 0x0041) ∧
    ∃ e, (here (repeats 0x0040)).stands e ∧ e.repeating = true ∧ repDone 0x0040 < repLast 0x0040 :=
  ⟨rfl, rfl, ⟨_, rfl, rfl, by decide⟩, _, rfl, rfl, by decide⟩

theorem witness_NothingActs : (solo id).issuing never = some idle ∧ idle.active = 0 := ⟨rfl, rfl⟩

def jump : XC := xc (.v 2) (.rel 4)
def aims (a : Word) : Group → Group := withV [(2, a), (3, 0)]
def aimsHigh : Group → Group := withV [(2, 0), (3, 0x10000)]

theorem witness_BranchesMoveLanes : ∃ r, branches (.bra jump) = some r ∧ (solo id).issuing r.ext.g = some (here id) ∧
    (here id).stands entry1 ∧ takesIndirect (.bra jump) = false := ⟨_, rfl, rfl, rfl, rfl⟩

theorem witness_BranchesIndirect : ∃ r, branches (.brx jump) = some r ∧
    (solo (aims 0x2000)).issuing r.ext.g = some (here (aims 0x2000)) ∧ (here (aims 0x2000)).stands entry1 ∧
    (∀ l, (here (aims 0x2000)).active.getLsbD l = true → badTarget (r.target (here (aims 0x2000)) l) = false) ∧
    (lanes (here (aims 0x2002)).active).filter (fun l => badTarget (r.target (here (aims 0x2002)) l)) = [0] ∧
    (lanes (here aimsHigh).active).filter (fun l => badTarget (r.target (here aimsHigh) l)) = [0] :=
  ⟨_, rfl, rfl, rfl, fun l h => by rw [lane_zero h]; decide, by decide, by decide⟩

/-- A full hardware stack and the private words that a spill needs. -/
def full (limit : BitVec 32) (g : Group) : Group :=
  { g with returns := [(0, List.replicate 8 0x40)], plimit := limit }

theorem witness_CallsPushReturns : ∃ r, calls (.call jump) = some r ∧ (solo id).issuing r.ext.g = some (here id) ∧
    (here id).stands entry1 ∧ (∀ l, (here id).active.getLsbD l = true → ((here id).grp.stackOf l).length < 8) ∧
    (lanes (here (full 1)).active).filter (fun l => decide (8 ≤ ((here (full 1)).grp.stackOf l).length) &&
      decide ((here (full 1)).grp.plimit.toNat < 2 * (here (full 1)).grp.spilledOf l + 2)) = [0] ∧
    (lanes (here (full 2)).active).filter (fun l => decide (8 ≤ ((here (full 2)).grp.stackOf l).length) &&
      decide ((here (full 2)).grp.plimit.toNat < 2 * (here (full 2)).grp.spilledOf l + 2)) = [] :=
  ⟨_, rfl, rfl, rfl, fun l h => by rw [lane_zero h]; decide, by decide, by decide⟩

theorem witness_CallsIndirect : ∃ r, calls (.callx jump) = some r ∧
    (solo (aims 0x2000)).issuing r.ext.g = some (here (aims 0x2000)) ∧
    (∀ l, (here (aims 0x2000)).active.getLsbD l = true → badTarget (r.target (here (aims 0x2000)) l) = false) ∧
    (lanes (here (aims 1)).active).filter (fun l => badTarget (r.target (here (aims 1)) l)) = [0] :=
  ⟨_, rfl, rfl, fun l h => by rw [lane_zero h]; decide, by decide⟩

theorem witness_FullStacksSpill : ((full 2 group1).stackOf 0).length = 8 := by decide

theorem witness_ReturnsPop : (here id).stands entry1 ∧ quiet (here id).grp ∧
    ∀ l, (here id).active.getLsbD l = true → (here id).grp.stackOf l = [] → (here id).grp.spilledOf l = 0 :=
  ⟨rfl, ⟨rfl, rfl⟩, fun l h _ => by rw [lane_zero h]; decide⟩

/-- R42 by hand: a call at 0x1000 pushes 0x1004, and its `ret` comes back there. -/
theorem test_call_and_return :
    after (exec (.call jump) (solo id)) (fun g => (g.stackOf 0, g.front.entries.map fun e => e.pc)) =
      some ([0x1004], [0x1010]) ∧
    after (exec (.ret .always 7) (solo fun g => { g with returns := [(0, [0x40])] }))
      (fun g => g.front.entries.map fun e => (e.pc, e.prio)) = some [(0x40, 7)] := by decide

/-- R31: `exit` and an empty `ret` end the lane. -/
theorem test_exit_ends : after (exec (.exit .always) (solo fun g => { g with live := 3 })) (fun g => g.live) = some 2 ∧
    after (exec (.ret .always 7) (solo fun g => { g with live := 3 })) (fun g => g.live) = some 2 := by decide

def meet : XC := xc (.g 4) (.rel 4)
def meets (m : DWord) (live : LaneMask) (g : Group) : Group := { g with uregs := [(4, m)], live := live }
theorem witness_JoinParksAndReleases :
    (lanes (here (meets 2 1)).active).filter (fun l => !((here (meets 2 1)).uni meet.a &&& (here (meets 2 1)).grp.lanesAll).getLsbD l)
      = [0] ∧
    (let i := here (meets 3 3)
     let m := i.uni meet.a &&& i.grp.lanesAll
     quiet i.grp ∧ i.stands entry1 ∧ i.active &&& ~~~m = 0 ∧ m &&& i.grp.live &&& ~~~i.active ≠ 0) ∧
    (let i := here (meets 1 3)
     let m := i.uni meet.a &&& i.grp.lanesAll
     quiet i.grp ∧ i.stands entry1 ∧ i.active &&& ~~~m = 0 ∧ m &&& i.grp.live &&& ~~~i.active = 0) :=
  ⟨by decide, ⟨⟨rfl, rfl⟩, rfl, by decide, by decide⟩, ⟨rfl, rfl⟩, rfl, by decide, by decide⟩

/-- Lane 1 is parked where the `join` of lane 0 goes, and names both. -/
def waiting1 : Parked := { lane := 1, rejoin := 0x1010, prio := 200, mask := 3, origin := 0x0F00 }
def joining (g : Group) : Group := { meets 3 3 g with front := { g.front with parked := [waiting1] } }
theorem witness_LastArrivalsRelease : (here joining).stands entry1 ∧ (here joining).grp.front.waits = [] ∧
    (∀ p ∈ (here joining).grp.front.parked, p.lane < 64) ∧
    (here joining).active &&& ~~~((here joining).uni meet.a &&& (here joining).grp.lanesAll) = 0 ∧
    (solo joining).issuing .always = some (here joining) ∧
    ∀ l, (here joining).active.getLsbD l = true → (here joining).grp.stackOf l = [] → (here joining).grp.spilledOf l = 0 :=
  ⟨rfl, rfl, by decide, by decide, rfl, fun l h _ => by rw [lane_zero h]; decide⟩

/-- R43 by hand: the last arrival, or the end of the lane waited for, sets the parked lane free, at the highest priority named. -/
theorem test_parked_lanes_leave :
    after (exec (.join meet) (solo joining)) (fun g => (g.front.parked.length, g.front.entries.map fun e => (e.pc, e.prio, e.mask))) =
      some (0, [(0x1010, 200, 3)]) ∧
    after (exec (.exit .always) (solo joining)) (fun g => (g.front.parked.length, g.front.entries.map fun e => (e.pc, e.prio, e.mask))) =
      some (0, [(0x1010, 200, 2)]) := by decide

/-- A second group of the team, waiting or not, beside the one that issues. -/
def second (h : Hold) : Group :=
  { group1 with index := 1, front := { group1.front with entries := [{ entry1 with hold := h }] } }
def pair (g : Group → Group) (h : Hold) : State := { solo g with groups := [(0, g group1), (9, second h)] }
/-- `bar #0`, and `bar #0, g4`. -/
def barX (masked : Bool) : XS := if masked then xs (vd 0) (.g 4) (.v 0) (.v 0) (i32 := 0x10) else xs (vd 0) (.v 0) (.v 0) (.v 0)
def barAll (g : Group) : Group := withU [(4, 3)] g

theorem second_waits (m : Option DWord) (lax : Bool) : AtBarrier (second (.bar 0 m lax)) 0 m lax :=
  ⟨show group1.live ≠ 0 by decide, fun q h => by rw [List.mem_singleton.1 h]; exact ⟨show (1 : LaneMask) ≠ 0 by decide, rfl⟩,
   List.pairwise_singleton _ _, fun l _ => ⟨fun h => ⟨_, List.mem_singleton.2 rfl, h⟩, fun ⟨q, hq, h⟩ => by
     rw [List.mem_singleton.1 hq] at h; exact h⟩⟩

/-- The other group has not arrived; the group's own other lane has not; the mask omits the group. -/
theorem witness_BarriersHoldLanes (masked : Bool) :
    (let i := here (withU [(4, 2)])
     (i.uni (barX true).a).getLsbD i.grp.index = false ∧ i.active ≠ 0 ∧ i.stands entry1) ∧
    (let i := here barAll
     Awaited (barMask (barX masked) i) i.grp ∧ i.active ≠ 0 ∧ (pair barAll .free).issuing .always = some i ∧
      ((pair barAll .free).groups.map (·.1)).Nodup ∧ Unheld i.grp ∧ Unheld (second .free) ∧ (second .free).live ≠ 0 ∧
      (second .free).team = i.grp.team ∧ Awaited (barMask (barX masked) i) (second .free)) ∧
    (let i := here fun g => { barAll g with live := 3 }
     i.grp.live ≠ 0 ∧ i.active ≠ i.grp.live ∧ Unheld i.grp ∧ Awaited (barMask (barX masked) i) i.grp) := by
  cases masked
  · exact ⟨⟨by decide, by decide, rfl⟩, ⟨nofun, by decide, rfl, by decide, by decide, by decide, by decide, by decide, nofun⟩,
      by decide, by decide, by decide, nofun⟩
  · exact ⟨⟨by decide, by decide, rfl⟩, ⟨fun w h => by cases h; decide, by decide, rfl, by decide, by decide, by decide,
      by decide, by decide, fun w h => by cases h; decide⟩, by decide, by decide, by decide, fun w h => by cases h; decide⟩

/-- The second group waits with the same form, or with another; or the mask does not name it. -/
theorem witness_BarriersOpen :
    (let i := here barAll
     i.active = i.slot.mask ∧ i.active = i.grp.live ∧ i.active ≠ 0 ∧ i.stands entry1 ∧ i.grp.front.entries = [entry1] ∧
      Awaited (barMask (barX true) i) i.grp ∧ barMask (barX true) i = some 3 ∧
      AtBarrier (second (.bar 0 (some 3) false)) 0 (some 3) false ∧
      ((pair barAll (.bar 0 (some 3) false)).groups.map (·.1)).Nodup ∧
      AtBarrier (second (.bar 0 none false)) 0 none false ∧ ((none : Option DWord), false) ≠ (some 3, false) ∧
      i.grp.trap = none ∧ (second .free).trap = none ∧ i.grp.trapEntry.isSome = true ∧
      (second .free).trapEntry.isSome = true ∧ ((solo barAll).core i.grp.core).matrix.latch = none) ∧
    (let i := here (withU [(4, 1)])
     Awaited (barMask (barX true) i) i.grp ∧ ¬ Awaited (barMask (barX true) i) (second .free) ∧ Unheld (second .free)) :=
  ⟨⟨rfl, rfl, by decide, rfl, rfl, fun w h => by cases h; decide, rfl, second_waits _ _, by decide, second_waits _ _,
    by decide, rfl, rfl, rfl, rfl, rfl⟩, fun w h => by cases h; decide, fun h => absurd (h 1 rfl) (by decide), by decide⟩

/-- The words of an instruction behind `rep` at 0x1000: `add v0, v0, v0`, and a `nop`. -/
def behind (bs : List Byte) : State := { solo id with cores := [(0, { Core.initial with
  icache := [{ space := 0, line := 0x20, data := [0, 0, 0, 0] ++ bs ++ List.replicate 112 0 }] })] }

theorem witness_RepStartsRepeats :
    (behind [0x81, 0x3C, 0x00, 0, 0, 0, 0, 0, 0x02, 0xF0, 0, 0]).issuing .always = some (here id) ∧
    (behind [0x81, 0x3C, 0x00, 0, 0, 0, 0, 0, 0x02, 0xF0, 0, 0]).nextRepeats (here id) ((1 : BitVec 4) ++ (63 : BitVec 6) ++ (0 : BitVec 6)) = true ∧
    (here id).slot.mask ≠ 0 ∧
    (behind [0x04, 0x3C, 0, 0, 0, 0, 0, 0, 0, 0, 0, 0]).nextRepeats (here id) ((1 : BitVec 4) ++ (63 : BitVec 6) ++ (0 : BitVec 6)) = false :=
  ⟨rfl, by decide, by decide, by decide⟩

def setRep : XS := xs (vd 0) (.g 4) (.v 0) (.v 0) (i32 := 9)
def giving (v : DWord) : Group → Group := withU [(4, v)]
theorem witness_SsetWritesRep : (here (giving 0x10000)).stands entry1 ∧ idle.stands entry1 ∧
    2 ^ 16 ≤ (here (giving 0x10000)).scalar setRep.a ∧
    (here (giving 0x0041)).scalar setRep.a % 64 ≤ (here (giving 0x0041)).scalar setRep.a / 64 % 64 ∧
    (here (giving 0x0042)).scalar setRep.a / 64 % 64 < (here (giving 0x0042)).scalar setRep.a % 64 ∧
    (here (giving 0)).scalar setRep.a = 0 ∧ 0 < (here (giving 0xFFFF)).scalar setRep.a ∧
    (here (giving 0xFFFF)).scalar setRep.a < 2 ^ 16 ∧
    (here (giving 0xFFFF)).scalar setRep.a % 64 ≤ (here (giving 0xFFFF)).scalar setRep.a / 64 % 64 :=
  ⟨rfl, rfl, by decide, by decide, by decide, by decide, by decide, by decide, by decide⟩

def readRep (d : Dst) : XS := xs d (.v 0) (.v 0) (.v 0) (i32 := 9)
theorem witness_StatusRegistersRead : (Instr.sreg (readRep (vd 4))).wellFormed = true ∧ (readRep (vd 4)).d.uni = false ∧
    (solo id).issuing (readRep (vd 4)).g = some (here id) ∧
    (Instr.sreg (xs (ud 4) (.v 0) (.v 0) (.v 0) (i32 := 33))).wellFormed = true := ⟨by decide, rfl, rfl, by decide⟩

/-- R32: `$width` of a group of eight, `$tcause` into a pair. -/
theorem test_sreg : after (exec (.sreg (xs (vd 4) (.v 0) (.v 0) (.v 0) (i32 := 1))) (solo id)) (fun g => g.vreg 0 0 4) =
      some 8 ∧
    after (exec (.sreg (xs (vd 4) (.v 0) (.v 0) (.v 0) (i32 := 11))) (solo fun g => { g with tcause := 0x10000000A0002 }))
      (fun g => (g.vreg 0 0 4, g.vreg 0 0 5)) = some (0xA0002, 0x10000) := by decide

/-! ### Witnesses: member masks -/

def summed : XA := xa .s32 (vd 4) (.v 5) (.v 0) (.g 5)
def names (m : DWord) : Group → Group := fun g => { g with vregs := [(5, 7)], uregs := [(5, m)] }

theorem witness_MemberOperations (c : Instr) (h : c = .redx summed ∨ c = .scan summed) :
    memberMask c = some (summed, .g 5) ∧ c.wellFormed = true ∧ (here (names 1)).stands entry1 ∧
    (solo (names 1)).issuing summed.g = some (here (names 1)) ∧ widthOk (here (names 1)) 3 ∧
    (here (names 2)).active &&& ~~~((here (names 2)).uni (.g 5) &&& (here (names 2)).grp.lanesAll) ≠ 0 ∧
    Together (here (names 1)) entry1 ((here (names 1)).uni (.g 5) &&& (here (names 1)).grp.lanesAll) := by
  refine ⟨by rcases h with rfl | rfl <;> rfl, by rcases h with rfl | rfl <;> decide, rfl, rfl, ⟨rfl, by decide⟩,
    by decide, ⟨rfl, rfl, by decide, by decide, by decide, by decide, by decide⟩⟩

/-- Lane 1 waits at the instruction with a mask, or no lane does. -/
def wait2 (mask : LaneMask) : MemberWait :=
  { pc := 0x1000, next := 0x100C, instr := .redx summed, repeating := false, mask := mask, arrived := 2, active := 2,
    prio := 200, seen := [(1, (5, 0, true))] }
def waitingAt (m : DWord) (live : LaneMask) (ws : List MemberWait) (g : Group) : Group :=
  { names m g with live := live, vregs := [(0, 3), (5, 7)], front := { g.front with waits := ws } }
def joined (m : DWord) (live : LaneMask) : MemberWait :=
  { wait2 m with arrived := 3, active := 3, seen := (here (waitingAt m live [wait2 m])).sees summed 1 [(1, (5, 0, true))] }

/-- The first arrival, a second one while lane 2 is elsewhere, the last one, and one with another mask. -/
theorem witness_MembersWait :
    (let i := here (waitingAt 3 3 [])
     let w : MemberWait := { wait2 3 with arrived := 1, active := 1, prio := 128, seen := i.sees summed 1 [] }
     let m := i.uni (.g 5) &&& i.grp.lanesAll
     WaitsAs i (.redx summed) summed entry1 m none { w with next := 0x1004 } ∧ i.active &&& ~~~m = 0 ∧
      i.slot.mask &&& m ≠ 0 ∧ m &&& i.grp.live &&& ~~~w.arrived ≠ 0 ∧ i.grp.front.waits = []) ∧
    (∀ live : LaneMask, live = 7 ∨ live = 3 →
     let m : DWord := live
     let i := here (waitingAt m live [wait2 m])
     i.uni (.g 5) &&& i.grp.lanesAll = m ∧ (i.grp.front.waits.find? fun v => v.pc = i.slot.pc) = some (wait2 m) ∧
      WaitsAs i (.redx summed) summed entry1 m (some (wait2 m)) (joined m live) ∧
      (live = 7 → m &&& i.grp.live &&& ~~~(joined m live).arrived ≠ 0) ∧
      (live = 3 → m &&& i.grp.live &&& ~~~(joined m live).arrived = 0) ∧
      ∀ q ∈ i.grp.front.entries, q.mask &&& (wait2 m).arrived = 0) ∧
    (let i := here (waitingAt 3 3 [wait2 2])
     (wait2 2).mask ≠ i.uni (.g 5) &&& i.grp.lanesAll ∧ Immediate (solo (waitingAt 3 3 [wait2 2])) i ∧ i.grp.trap = none ∧
      i.grp.trapEntry = some 0x2000) := by
  refine ⟨⟨⟨rfl, by decide, fun _ => ⟨by decide, rfl, by decide, by decide, rfl⟩, fun _ h => absurd h (Option.some_ne_none _).symm, fun l h => ?_⟩,
    by decide, by decide, by decide, rfl⟩, ?_, by decide, ⟨rfl, rfl, by decide⟩, rfl, rfl⟩
  · rw [lane_zero h]; exact ⟨by decide, by decide, by decide⟩
  · rintro live (rfl | rfl)
    · refine ⟨by decide, rfl, ⟨rfl, rfl, fun h => absurd h (Option.some_ne_none _), fun v h => ?_, fun l h => ?_⟩, fun _ => by decide, by decide, by decide⟩
      · cases h; exact ⟨rfl, rfl, by decide, by decide, rfl⟩
      · rw [lane_zero h]; exact ⟨by decide, by decide, by decide⟩
    · refine ⟨by decide, rfl, ⟨rfl, rfl, fun h => absurd h (Option.some_ne_none _), fun v h => ?_, fun l h => ?_⟩, by decide, fun _ => by decide, by decide⟩
      · cases h; exact ⟨rfl, rfl, by decide, by decide, rfl⟩
      · rw [lane_zero h]; exact ⟨by decide, by decide, by decide⟩

theorem witness_MemberWidest : widthOk { here id with grp := { group1 with width := 64 } } 6 := ⟨rfl, by decide⟩

theorem witness_SegmentsAgree : 5 / 2 ^ 3 = 7 / 2 ^ 3 := by decide

def toLane : XA := xa .b32 (vd 4) (.g 5) (.imm 7)
theorem witness_WrlaneWritesOneLane : (Instr.wrlane toLane).wellFormed = true ∧
    (solo id).issuing toLane.g = some (here id) := ⟨by decide, rfl⟩

/-- R258: lane 7 is written although only lane 0 issues. -/
theorem test_wrlane : after (exec (.wrlane toLane) (solo (withU [(5, 9)]))) (fun g => (g.vreg 0 7 4, g.live)) = some (9, 1) := by
  decide

/-! ### Witnesses: traps -/

theorem witness_TrapsEnterTheHandler : Immediate (solo id) (here id) ∧ (here id).grp.trap = none ∧
    (here id).grp.trapEntry = some 0x2000 ∧ (here id).active ≠ 0 ∧ (here id).blame = none :=
  ⟨⟨rfl, rfl, by decide⟩, rfl, rfl, by decide, rfl⟩

/-- The handler runs: the saved frontier holds the entry at 0x0F00. -/
def handling (r : Resume) (g : Group) : Group :=
  { g with trap := some { front := { g.front with entries := [Entry.make 100 0x0F00 1] }, rep := 0, followers := 0,
                          resume := r } }
def handler (g : Group) : Group := handling (.entry 1 0x0F00 0x0F0C) g

theorem witness_DoubleFaultsStopTheGroup : Immediate (solo handler) (here handler) ∧ (here handler).grp.trap ≠ none :=
  ⟨⟨rfl, rfl, by decide⟩, by decide⟩

theorem witness_NoTrapEntry : Immediate (solo fun g => { g with trapEntry := none }) (here fun g => { g with trapEntry := none }) ∧
    (here fun g => { g with trapEntry := none }).grp.trapEntry = none := ⟨⟨rfl, rfl, by decide⟩, rfl⟩

/-- R334, R47 by hand: `trap #9` at 0x1000 enters the handler at 0x2000 with priority 255. -/
theorem test_trap : after (exec (.trap .always 9) (solo id))
      (fun g => (g.tmask, g.tcause, g.taddr, g.front.entries.map fun e => (e.pc, e.prio))) =
    some (1, 0x10000010, 0x1000, [(0x2000, 255)]) := by decide

theorem witness_TrapReturns : (here id).grp.trap = none ∧ (here id).active ≠ 0 ∧
    (∃ t, (here handler).grp.trap = some t ∧ (here handler).grp.front.pool = [] ∧ t.resume = .entry 1 0x0F00 0x0F0C ∧
      t.followers = 0) ∧
    (let g : Group → Group := fun g => { handler g with front := { g.front with
       pool := [{ lane := 1, ticket := 5, rejoin := 0x1000, prio := 0, mask := 2, origin := 0 }] } }
     (here g).grp.trap ≠ none ∧ (here g).grp.front.pool ≠ []) :=
  ⟨rfl, by decide, ⟨_, rfl, rfl, rfl, rfl⟩, by decide, by decide⟩

/-- R335 by hand: the plain form issues again at 0x0F00, the skip form goes on at 0x0F0C. -/
theorem test_trap_return : after (exec (.tret .always) (solo handler)) (fun g => g.front.entries.map fun e => e.pc) =
      some [0x0F00] ∧
    after (exec (.tretSkip .always) (solo handler)) (fun g => g.front.entries.map fun e => e.pc) = some [0x0F0C] := by decide

/-! ### Witnesses: memory -/

/-- The first GiB maps to itself, writable; the line at 0x2000 lies whole in L1; the team has a scratchpad and a floor. -/
def line1 : Line := { full := true, dirty := 0, stable := false, stamp := 0, data := List.replicate 128 5 }
def core1 : Core :=
  { Core.initial with
    tlb := [{ space := 0, base := 0, size := 30, entry := 7 }], l1 := [{ tag := 16, way := 0, lines := [(0, line1)] }] }
def team1 : Team :=
  { grid := 3, cluster := 2, index := 0, core := 0, scratch := [], size := 64, floorNeed := true, handles := [], saved := none }
def mapped (g : Group → Group) : State :=
  { solo g with
    cores := [(0, core1)], teams := [(1, team1)], slices := [(0, { Slice.initial with ways := 8 })] }
theorem mapped_issuing (g : Group → Group) : (mapped g).issuing .always = some (here g) := rfl
theorem mapped_canonical (g : Group → Group) : (mapped g).Canonical := by
  refine ⟨?_, ?_, ?_, ?_, ?_⟩ <;>
    simp [mapped, solo, State.aboutToIssue, State.reset, State.onCore, State.setCore, team1, Slice.initial, Memory.wf]

/-- The lane's address is 0x2000, in v6 with v7. -/
def reads : Group → Group := withV [(6, 0x2000), (7, 0), (9, 0xAB)]
/-- Its private words begin there. -/
def privately : Group → Group := fun g => { g with vregs := [(6, 0), (9, 0xAB)], pbase := 0x2000, plimit := 1 }

def loadX : XM := xm .s32 (vd 4) (.v 6) (.v 0)
def storeX : XM := xm .s32 (vd 0) (.v 6) (.v 9)
def atomX : XM := xm .s32 (vd 4) (.v 6) (.v 9) (s := 4)
def address (va : DWord) : Nat := va.toNat

/-- An access of four bytes to 0x2000 is allowed. -/
theorem allowed (r : Reach) (x : XM) (hx : x = loadX ∨ x = storeX ∨ x = atomX)
    (hr : r ∈ [accessOf 0 .read loadX (here reads), accessOf 0 .write storeX (here reads), atomicAccess atomX (here reads)]) :
    Allowed (mapped reads) (here reads) r x address fun _ => false := by
  simp only [List.mem_cons, List.not_mem_nil, or_false] at hr
  rcases hr with rfl | rfl | rfl <;> rcases hx with rfl | rfl | rfl <;>
  exact ⟨⟨Or.inl rfl, by decide, fun l h _ => by rw [lane_zero h]; decide, fun l _ hs => absurd hs (by decide),
      fun l h _ => by rw [lane_zero h]; decide⟩,
    fun l h p hp => by
      rw [lane_zero h] at hp
      obtain rfl : p = (0x2000, 4) := List.mem_singleton.mp hp
      exact ⟨by decide, _, _, rfl, rfl, fun hs => absurd hs (by decide)⟩,
    fun l h p hp hs => absurd hs (by decide)⟩

/-- So is one to private word 0. -/
theorem allowed_private (r : Reach) (x : XM) (hx : x = loadX ∨ x = storeX)
    (hr : r ∈ [accessOf 3 .read loadX (here privately), accessOf 3 .write storeX (here privately)]) :
    Allowed (mapped privately) (here privately) r x address fun _ => false := by
  simp only [List.mem_cons, List.not_mem_nil, or_false] at hr
  rcases hr with rfl | rfl <;> rcases hx with rfl | rfl <;>
  exact ⟨⟨Or.inr rfl, by decide, fun l _ hs => absurd hs (by decide), fun l h _ => by rw [lane_zero h]; decide,
      fun l h _ => by rw [lane_zero h]; decide⟩,
    fun l h p hp => by
      rw [lane_zero h] at hp
      obtain rfl : p = (0x2000, 4) := List.mem_singleton.mp hp
      exact ⟨by decide, _, _, rfl, rfl, fun _ => by decide⟩,
    fun l h p hp hs => absurd hs (by decide)⟩

/-- R107's rows, each with a page that meets it: a hole, the staging region (336 GiB on), flash without the Flash bit, a flash
page, a page with nothing granted, one that says bank-contiguous, and one that is plain. -/
theorem witness_LeavesDecide :
    (let pa (e : Nat) : Nat := e / 256 % 2 ^ 40 * 256 + 0 % 2 ^ 16
     0x6000000000 ≤ pa 0x6000000007 ∧ pa 0x6000000007 < 0x400000000000 ∧ (384 - State.reset.stagingGib) * 0x40000000 ≤ pa 0x5400000007 ∧
      0x400000000000 ≤ pa 0x400000000007 ∧ (0x400000000007).testBit 6 = false ∧
      pa 0x400000000043 < 0x440000000000 ∧ (0x400000000043).testBit 6 = true ∧
      pa 3 < 0x40000000 ∧ (3).testBit 6 = false ∧ (3).testBit 2 = false ∧ (3).testBit 3 = false ∧
      (0x2F).testBit 5 = true ∧ State.reset.modes.getD (pa 0x2F / 2 ^ 35) false = false ∧ (0x2F).testBit 2 = true ∧
      (0x2F).testBit 3 = true ∧ (0x0F).testBit 5 = false) := by decide

/-- An address that breaks the rule, one with a leaf, one without a root, and roots whose entry for it is malformed or has
Valid clear. -/
def rooted (mem : Memory) : State :=
  { State.reset with foreman := { State.reset.foreman with spaces := [(0, 0x3000)] }, mem := mem }
theorem witness_TranslationsEnd : canonical 0x800000000000 = false ∧ canonical 0x2000 = true ∧
    ((mapped id).core 0).leafOf 0 0x2000 = some { space := 0, base := 0, size := 30, entry := 7 } ∧
    ((solo id).core 0).leafOf 0 0x2000 = none ∧ (solo id).foreman.spaces.lookup 0 = none ∧
    ((rooted []).core 0).leafOf 0 0x2000 = none ∧ (rooted []).foreman.spaces.lookup 0 = some 0x3000 ∧
    (rooted [(0x3000, 2)]).unreadable 0x3000 = false ∧ (rooted []).unreadable 0x3000 = false ∧
    leNat ((rooted [(0x3000, 2)]).l2Read 0x3000 8).2 = 2 ∧ leNat ((rooted []).l2Read 0x3000 8).2 = 0 := by decide +kernel

/-- The page is read only; there is no leaf; a table cannot be read; the line cannot be read. -/
def readOnly : State := { mapped reads with cores := [(0, { core1 with tlb := [{ space := 0, base := 0, size := 30, entry := 3 }] })] }
def tableLost : State :=
  { solo reads with foreman := { State.reset.foreman with spaces := [(0, 0x3000)] }, badLines := [0x60] }
def lineLost : State := { mapped reads with flaws := [.l1 0 0x40] }
def scopedX (s : BitVec 4) : XM := { loadX with s := s, c := .g 2 }
def storeAt : Reach := accessOf 0 .write storeX (here reads)

theorem formed (x : XM) (hx : x = loadX ∨ x = storeX ∨ x = { scopedX 6 with c := .imm 5 })
    (r : Reach) (hr : r ∈ [storeAt, accessOf 0 .read { scopedX 6 with c := .imm 5 } (here reads)]) :
    Formed (here reads) r x := by
  simp only [List.mem_cons, List.not_mem_nil, or_false] at hr
  rcases hr with rfl | rfl <;> rcases hx with rfl | rfl | rfl <;>
  exact ⟨Or.inl rfl, by decide, fun l h _ => by rw [lane_zero h]; decide, fun l _ hs => absurd hs (by decide),
    fun l h _ => by rw [lane_zero h]; decide⟩

/-- Each check of an access fails somewhere, the others before it passing: the unit, the limit, the address rule, the
alignment, the page, the cover, a miss, a table, a line; the link is down under a release at `.sys` below. -/
theorem witness_AccessTraps :
    (let i := here (withU [(2, 0x4000)])
     i.active ≠ 0 ∧ badUnit 6 (accessOf 0 .read (scopedX 6) i).unit = true) ∧
    (let i := here fun g => { privately g with vregs := [(6, 1)] }
     (lanes i.active).filter (fun l => (i.grp.badWord (i.offset loadX l) 4).isSome) = [0]) ∧
    (let i := here (withV [(6, 0), (7, 0x8000)])
     (lanes i.active).filter (fun l => !canonical (i.address loadX l)) = [0]) ∧
    (let i := here (withV [(6, 0x2002), (7, 0)])
     (lanes i.active).filter (fun l => decide ((i.named (accessOf 0 .read (scopedX 3) i) loadX l).toNat % 4 ≠ 0)) = [0] ∧
      canonical (i.address loadX 0) = true) ∧
    (translated readOnly (here reads) storeAt storeX).2 = [((0, 0x2000), .fault .protection)] ∧
    (let x : XM := { scopedX 6 with c := .imm 5 }
     let r := accessOf 0 .read x (here reads)
     let p := translated (mapped reads) (here reads) r x
     (∀ q ∈ p.2, refusedBy q = none) ∧ 6 ≤ r.scope ∧ uncovered p.1 r p.2 0 = true) ∧
    ((translated (solo reads) (here reads) storeAt storeX).2 = [((0, 0x2000), .miss)] ∧
      (translated (solo reads) (here reads) storeAt storeX).1.misses 0 0 = []) ∧
    (translated tableLost (here reads) storeAt storeX).2 = [((0, 0x2000), .fault .eccFatal)] ∧
    ((translated lineLost (here reads) storeAt storeX).2 = [((0, 0x2000), .ok 0x2000 false false)] ∧
      lostLanes (released lineLost (here reads) storeX storeAt) (here reads) storeAt (fun _ => .mem [(0x2000, 4, false)])
        (storeStep (here reads) storeX storeAt) = [0]) := by
  refine ⟨⟨by decide, by decide⟩, by decide, by decide, ⟨by decide, by decide⟩, by decide +kernel, by decide +kernel,
    ⟨by decide +kernel, by decide +kernel⟩, by decide +kernel, ⟨by decide +kernel, by decide +kernel⟩⟩

/-- Another entry waits in the same page; a store that releases at `.sys` finds the link down, its lines readable or not. -/
theorem witness_Parks : ∃ k ∈ (pair reads (.xlate 7 0x2FF0 1 0)).misses 0 0,
    k.2 / 65536 = (0x2000 : DWord).toNat / 65536 := ⟨(7, 0x2FF0), by decide, by decide⟩
def sysStore : XM := { storeX with s := 5, o := 2 }
theorem witness_LinkIsDown : (Instr.stG sysStore).wellFormed = true ∧
    (Instr.stu { xm .s32 (vd 0) (.g 6) (.g 9) with s := 5, o := 2 }).wellFormed = true ∧
    (let s := { mapped reads with link := { State.reset.link with up := false } }
     let r := accessOf 0 .write sysStore (here reads)
     ¬ linkAnswers s sysStore r ∧ Allowed s (here reads) r sysStore address (fun _ => false) ∧ Formed (here reads) r sysStore ∧
     ∀ q ∈ (translated s (here reads) r sysStore).2, q.2 = .ok 0x2000 false false) := by
  have a : Allowed { mapped reads with link := { State.reset.link with up := false } } (here reads)
      (accessOf 0 .write sysStore (here reads)) sysStore address (fun _ => false) := ⟨⟨Or.inl rfl, by decide, fun l h _ => by rw [lane_zero h]; decide, fun l _ hs => absurd hs (by decide),
      fun l h _ => by rw [lane_zero h]; decide⟩,
    fun l h p hp => by
      rw [lane_zero h] at hp
      obtain rfl : p = (0x2000, 4) := List.mem_singleton.mp hp
      exact ⟨by decide, _, _, rfl, rfl, fun hs => absurd hs (by decide)⟩,
    fun l h p hp hs => absurd hs (by decide)⟩
  exact ⟨by decide, by decide, fun h => absurd (h rfl rfl) (by decide), a, a.toFormed, by decide +kernel⟩

/-- R119, R345 by hand: the release comes first, so that the trap names the instruction's address and not the lost line's. -/
theorem test_release_without_link :
    after (exec (.stG sysStore) { mapped reads with link := { State.reset.link with up := false }, flaws := [.l1 0 0x40] })
      (fun g => (g.tmask, g.tcause.toNat % 256, g.taddr)) = some (1, 15, 0x1000) := by decide +kernel

theorem witness_GlobalLoadsComplete : (Instr.ldG loadX).wellFormed = true ∧ (Instr.ldP loadX).wellFormed = true ∧
    Allowed (mapped reads) (here reads) (accessOf 0 .read loadX (here reads)) loadX address (fun _ => false) ∧
    Allowed (mapped privately) (here privately) (accessOf 3 .read loadX (here privately)) loadX address (fun _ => false) ∧
    (let r := accessOf 0 .read loadX (here reads)
     Readable (mapped reads) (here reads) r (spotOf (here reads) r loadX address fun _ => false) (loadStep (here reads) r)) :=
  ⟨by decide, by decide, allowed _ _ (by simp) (by simp), allowed_private _ _ (by simp) (by simp), by unfold Readable; decide⟩

theorem witness_GlobalStoresComplete : (Instr.stG storeX).wellFormed = true ∧ (Instr.stP storeX).wellFormed = true ∧
    Allowed (mapped reads) (here reads) (accessOf 0 .write storeX (here reads)) storeX address (fun _ => false) ∧
    Allowed (mapped privately) (here privately) (accessOf 3 .write storeX (here privately)) storeX address (fun _ => false) ∧
    linkAnswers (mapped reads) storeX (accessOf 0 .write storeX (here reads)) ∧
    (let r := accessOf 0 .write storeX (here reads)
     Readable (released (mapped reads) (here reads) storeX r) (here reads) r
       (spotOf (here reads) r storeX address fun _ => false) (storeStep (here reads) storeX r)) :=
  ⟨by decide, by decide, allowed _ _ (by simp) (by simp), allowed_private _ _ (by simp) (by simp),
    fun h => absurd h (by decide), by unfold Readable; decide⟩

/-- The lines of those accesses lie in L1 (the loads and stores that hit). -/
theorem witness_Hits : storeX.s.toNat < 3 ∧ storeX.o = 0 ∧ loadX.s.toNat < 3 ∧ loadX.o = 0 ∧
    (∀ l, (here reads).active.getLsbD l = true → Hits (mapped reads) 0
      (spotOf (here reads) (accessOf 0 .read loadX (here reads)) loadX address (fun _ => false) l)) ∧
    ∀ l, (here reads).active.getLsbD l = true → Hits (mapped reads) 0
      (spotOf (here reads) (accessOf 0 .write storeX (here reads)) storeX address (fun _ => false) l) := by
  refine ⟨by decide, rfl, by decide, rfl, fun l h => ?_, fun l h => ?_⟩ <;> rw [lane_zero h] <;> intro p hp <;>
    (obtain rfl : p = (0x2000, 4, false) := List.mem_singleton.mp hp) <;>
    exact ⟨by decide, by decide, line1, rfl, rfl, List.length_replicate⟩

/-- R88, R264 by hand: the load reads the line's bytes, the store changes the four it names. -/
theorem test_hits : after (exec (.ldG loadX) (mapped reads)) (fun g => g.vreg 0 0 4) = some 0x05050505 ∧
    (match exec (.stG storeX) (mapped reads) with
     | .next t => (List.range 5).map fun k => cachedByte t 0 (0x2000 + k)
     | _ => []) = [some 0xAB, some 0, some 0, some 0, some 5] := by decide +kernel

/-- Offset 60 of the scratchpad of 64 bytes is its last word; 64 lies beyond. -/
def offsets (n : Word) : Group → Group := withV [(6, n), (9, 0xAB)]
def ownX : XM := xm .s32 (vd 4) (.v 6) (.v 0)
theorem own_allowed (space : Nat) (acc : Access) (x : XM) (hx : x = ownX ∨ x = storeX) (hs : space = 1 ∨ space = 2 ∨ space = 4) :
    OwnAllowed (mapped (offsets 60)) (here (offsets 60)) (accessOf space acc x (here (offsets 60))) x fun _ =>
      if space = 4 then .floor 60 else .team 1 60 64 := by
  rcases hx with rfl | rfl <;> rcases hs with rfl | rfl | rfl <;> cases acc <;>
  exact ⟨by decide, fun _ => by decide, fun l h => by rw [lane_zero h]; rfl, fun l h _ => by rw [lane_zero h]; decide⟩

theorem witness_OwnLoadsComplete (c : Instr) (hc : c ∈ [.ldS ownX, .ldC ownX, .ldF ownX]) :
    c.wellFormed = true ∧ (∃ space, ownLoads c = some (space, ownX) ∧ (space = 1 ∨ space = 2 ∨ space = 4)) ∧
    (lanes (here (offsets 61)).active).filter (fun l =>
      (placeOf (mapped (offsets 61)) (here (offsets 61)) 1 ((here (offsets 61)).offset ownX l) 4).isNone) = [0] ∧
    (lanes (here (offsets 0x7FFFFD)).active).filter (fun l =>
      (placeOf (mapped (offsets 0x7FFFFD)) (here (offsets 0x7FFFFD)) 4 ((here (offsets 0x7FFFFD)).offset ownX l) 4).isNone) =
        [0] ∧
    (solo id).waysFor 0 1 = 16 ∧
    OwnReadable (mapped (offsets 60)) (here (offsets 60)) (accessOf 1 .read ownX (here (offsets 60))) (fun _ => .team 1 60 64) := by
  simp only [List.mem_cons, List.not_mem_nil, or_false] at hc
  rcases hc with rfl | rfl | rfl <;>
  exact ⟨by decide, ⟨_, rfl, by decide⟩, by decide, by decide, by decide, fun l h => by rw [lane_zero h]; decide⟩

/-- The checks of these spaces that are left: a misaligned scoped access in bounds, a unit that is too large, and a memory
scope; the link is down under a release at `.sys`, and a word of the scratchpad holds an uncorrectable error. -/
theorem witness_OwnTraps :
    (let i := here (offsets 58)
     let x : XM := { ownX with s := 3 }
     (Instr.ldS x).wellFormed = true ∧ (Instr.stS { storeX with s := 3 }).wellFormed = true ∧
      (accessOf 1 .read x i).aligned = true ∧
      (∀ l, i.active.getLsbD l = true → (placeOf (mapped (offsets 58)) i 1 (i.offset x l) 4).isSome = true) ∧
      (lanes i.active).filter (fun l => decide ((i.offset x l) % (4 : Int) ≠ 0)) = [0]) ∧
    (let x : XM := { atomX with sl := 1, s := 6, c := .g 2 }
     let i := here (withU [(2, 0x4000)])
     (Instr.atom x).wellFormed = true ∧ i.active ≠ 0 ∧ badUnit (atomicAccess x i).scope (atomicAccess x i).unit = true) ∧
    (let x : XM := { atomX with sl := 1, s := 9 }
     let i := here (offsets 60)
     (Instr.atom x).wellFormed = true ∧ badUnit (atomicAccess x i).scope (atomicAccess x i).unit = false ∧
      6 ≤ (atomicAccess x i).scope ∧ (atomicAccess x i).space = 1 ∧
      (∀ l, i.active.getLsbD l = true → (placeOf (mapped (offsets 60)) i 1 (i.offset x l) 4).isSome = true) ∧
      (∀ l, i.active.getLsbD l = true → (i.offset x l) % (4 : Int) = 0) ∧
      (lanes i.active).filter (fun _ => true) = [0]) ∧
    (let x : XM := { atomX with sl := 1, s := 5, o := 2 }
     (Instr.atom x).wellFormed = true ∧
      ¬ linkAnswers { mapped (offsets 60) with link := { State.reset.link with up := false } } x (atomicAccess x (here id))) ∧
    (lanes (here (offsets 60)).active).filter (fun _ => { mapped (offsets 60) with flaws := [.scratch 1 15] }.spotBad 0 0 4
      (.scratch 1 60)) = [0] :=
  ⟨⟨by decide, by decide, by decide, fun l h => by rw [lane_zero h]; decide, by decide⟩, ⟨by decide, by decide, by decide⟩,
   ⟨by decide, by decide, by decide, by decide, fun l h => by rw [lane_zero h]; decide, fun l h => by rw [lane_zero h]; decide,
    by decide⟩, ⟨by decide, fun h => absurd (h rfl rfl) (by decide)⟩, by decide⟩

theorem witness_OwnStoresComplete (c : Instr) (hc : c ∈ [.stS storeX, .stC storeX, .stF storeX]) :
    c.wellFormed = true ∧ (∃ space, ownStores c = some (space, storeX) ∧ (space = 1 ∨ space = 2 ∨ space = 4)) ∧
    (mapped (offsets 60)).Canonical ∧ linkAnswers (mapped (offsets 60)) storeX (accessOf 1 .write storeX (here (offsets 60))) := by
  simp only [List.mem_cons, List.not_mem_nil, or_false] at hc
  rcases hc with rfl | rfl | rfl <;>
  exact ⟨by decide, ⟨_, rfl, by decide⟩, mapped_canonical _, fun h => absurd h (by decide)⟩

/-- R92: the last word of the scratchpad holds what was stored there. -/
theorem test_scratch_store : (match exec (.stS storeX) (mapped (offsets 60)) with
    | .next t => (scratchByte t 1 60, scratchByte t 1 59)
    | _ => (0, 0)) = (0xAB, 0) := by decide

/-- R93: offset 61 is out of bounds for four bytes, with `PROTECTION`. -/
theorem test_scratch_bounds : after (exec (.ldS ownX) (mapped (offsets 61))) (fun g => (g.tmask, g.tcause.toNat % 256)) =
    some (1, 4) := by decide

def uniX : XM := xm .s32 (ud 4) (.g 6) (.v 0)
def uniStore : XM := xm .s32 (vd 0) (.g 6) (.g 9)
def uniReads : Group → Group := withU [(6, 0x2000), (9, 0xAB)]
theorem uni_allowed (acc : Access) (x : XM) (hx : x = uniX ∨ x = uniStore) (ha : acc = .read ∨ acc = .write) :
    Allowed (mapped uniReads) (here uniReads).lead (accessOf 0 acc x (here uniReads)) x address fun _ => false := by
  rcases ha with rfl | rfl <;> rcases hx with rfl | rfl <;>
  exact ⟨⟨Or.inl rfl, by decide, fun l h _ => by rw [lane_zero h]; decide, fun l _ hs => absurd hs (by decide),
      fun l h _ => by rw [lane_zero h]; decide⟩,
    fun l h p hp => by
      rw [lane_zero h] at hp
      obtain rfl : p = (0x2000, 4) := List.mem_singleton.mp hp
      exact ⟨by decide, _, _, rfl, rfl, fun hs => absurd hs (by decide)⟩,
    fun l h p hp hs => absurd hs (by decide)⟩

theorem witness_UniformAccessesComplete : (Instr.ldu uniX).wellFormed = true ∧ (Instr.stu uniStore).wellFormed = true ∧
    (here uniReads).active ≠ 0 ∧ linkAnswers (mapped uniReads) uniStore (accessOf 0 .write uniStore (here uniReads)) ∧
    (Instr.ldu { uniX with g := never }).wellFormed = true ∧ idle.active = 0 ∧
    (let r := accessOf 0 .write uniStore (here uniReads)
     Readable (mapped uniReads) (here uniReads).lead r (spotOf (here uniReads) r uniStore address fun _ => false)
       (storeStep (here uniReads) uniStore r)) :=
  ⟨by decide, by decide, by decide, fun h => absurd h (by decide), by decide, rfl, by unfold Readable; decide⟩

theorem witness_PrefetchesComplete : (Instr.prf (xm .s8 (vd 0) (.v 6) (.v 0))).wellFormed = true ∧
    (solo id).issuing .always = some (here id) := ⟨by decide, rfl⟩

theorem witness_AtomicsComplete : (Instr.atom atomX).wellFormed = true ∧
    (Instr.cas { atomX with b := .v 9, c := .v 9 }).wellFormed = true ∧ (Instr.ared { atomX with d := vd 0 }).wellFormed = true ∧
    (Instr.uatom { uniX with b := .g 9, s := 4 }).wellFormed = true ∧
    (Instr.ucas { uniX with b := .g 9, c := .g 9, s := 4 }).wellFormed = true ∧
    Reaches (mapped reads) (here reads) (atomicAccess atomX (here reads)) atomX
      (spotOf (here reads) (atomicAccess atomX (here reads)) atomX address fun _ => false) ∧
    linkAnswers (mapped reads) atomX (atomicAccess atomX (here reads)) ∧
    (let r := atomicAccess atomX (here reads)
     Readable (mapped reads) (here reads) r (spotOf (here reads) r atomX address fun _ => false)
       (atomicStep (.atom atomX) (here reads) atomX r)) :=
  ⟨by decide, by decide, by decide, by decide, by decide, Or.inl ⟨_, _, allowed _ _ (by simp) (by simp), rfl⟩,
    fun h => absurd h (by decide), by unfold Readable; decide⟩

/-- An atomic of the scratchpad reaches it. -/
theorem witness_AtomicsOwn : Reaches (mapped (offsets 60)) (here (offsets 60)) (atomicAccess { atomX with sl := 1, s := 0 } (here (offsets 60)))
    { atomX with sl := 1, s := 0 } fun _ => .scratch 1 60 :=
  Or.inr ⟨fun _ => .team 1 60 64, by decide, by decide,
    ⟨by decide, fun h => absurd h (by decide), fun l h => by rw [lane_zero h]; rfl,
      fun l h _ => by rw [lane_zero h]; decide⟩, rfl⟩

/-- R268 by hand: the old value goes to D, the sum to memory. -/
theorem test_atomic_add : (match exec (.atom { atomX with sl := 1, s := 0 }) (mapped (offsets 60)) with
    | .next t => ((t.groups.lookup 0).map fun g => g.vreg 0 0 4, scratchByte t 1 60)
    | _ => (none, 0)) = (some 0, 0xAB) := by decide

def orderX (s : BitVec 4) (ranged : Bool) : XM := xm .s8 (vd 0) (if ranged then .g 4 else .v 0) (if ranged then .g 5 else .v 0)
  (if s = 6 then .g 2 else .v 0) (s := s) (ranged := ranged)
def ranges (base len unit : DWord) : Group → Group := withU [(2, unit), (4, base), (5, len)]
theorem witness_OrderingCompletes : (Instr.rel (orderX 6 true)).wellFormed = true ∧ (Instr.acq (orderX 5 false)).wellFormed = true ∧
    (Instr.fence (orderX 4 false)).wellFormed = true ∧ (here (ranges 0 0 0x4000)).active ≠ 0 ∧
    badUnit 6 ((here (ranges 0 0 0x4000)).scalar (.g 2)) = true ∧ badUnit 6 ((here (ranges 0 0 0x3FFF)).scalar (.g 2)) = false ∧
    badRange ((here (ranges 0x7FFFFFFFFFFF 2 0)).uni (.g 4)) ((here (ranges 0x7FFFFFFFFFFF 2 0)).uni (.g 5)) = true ∧
    badRange ((here (ranges 0x7FFFFFFFFFFF 1 0)).uni (.g 4)) ((here (ranges 0x7FFFFFFFFFFF 1 0)).uni (.g 5)) = false ∧
    (mapped id).link.up = true ∧ (orderX 5 true).ranged = true ∧ (here (ranges 0x2000 0 0)).uni (.g 5) = 0 :=
  ⟨by decide, by decide, by decide, by decide, by decide, by decide, by decide, by decide, by decide, rfl, by decide⟩

theorem witness_MaintenanceCompletes : (Instr.clean (xm .s8 (vd 0) (.v 6) (.v 0) (sl := 4))).wellFormed = true ∧
    (here reads).active ≠ 0 ∧ (mapped reads).link.up = true ∧
    (∀ l, (here reads).active.getLsbD l = true →
      canonical ((here reads).address (xm .s8 (vd 0) (.v 6) (.v 0) (sl := 4)) l) = true) ∧
    badRange ((here (ranges 0x7FFFFFFFFFFF 2 0)).uni (.g 4)) ((here (ranges 0x7FFFFFFFFFFF 2 0)).uni (.g 5)) = true :=
  ⟨by decide, by decide, by decide, fun l h => by rw [lane_zero h]; decide, by decide⟩

def high : Group → Group := withV [(6, 0), (7, 0x8000)]
theorem witness_TranslationsAreDropped :
    (Instr.xlinv (xm .s8 (vd 0) (.v 6) (.v 0) (s := 0))).wellFormed = true ∧
    (∀ l, (here reads).active.getLsbD l = true → canonical ((here reads).address (xm .s8 (vd 0) (.v 6) (.v 0) (s := 0)) l) = true) ∧
    (lanes (here high).active).filter (fun l => !canonical ((here high).address (xm .s8 (vd 0) (.v 6) (.v 0) (s := 0)) l)) = [0] ∧
    namesPage (here reads) (xm .s8 (vd 0) (.v 6) (.v 0) (s := 0)) { space := 0, base := 0, size := 30, entry := 7 } :=
  ⟨by decide, fun l h => by rw [lane_zero h]; decide, by decide, Or.inr (Or.inr ⟨by decide, rfl, 0, by decide, by decide, by decide⟩)⟩

theorem witness_InstructionLinesAreDropped : (Instr.icinv (xs (vd 0) (.g 4) (.g 5) (.v 0))).wellFormed = true ∧
    badRange ((here (ranges 0x1000 4 0)).uni (.g 4)) ((here (ranges 0x1000 4 0)).uni (.g 5)) = false ∧
    badRange ((here (ranges 0x7FFFFFFFFFFF 2 0)).uni (.g 4)) ((here (ranges 0x7FFFFFFFFFFF 2 0)).uni (.g 5)) = true ∧
    namesLine (here (ranges 0x1000 4 0)) (xs (vd 0) (.g 4) (.g 5) (.v 0)) { space := 0, line := 0x20, data := [] } ∧
    meetsRange (here (ranges 0xFFFFFFFFFFFFFF80 0x100 0)) (.g 4) (.g 5) 0 128 :=
  ⟨by decide, by decide, by decide, Or.inr ⟨rfl, by decide, Or.inl ⟨by decide, by decide⟩⟩, by decide, Or.inr (by decide)⟩

/-! ### Witnesses: memory-side calls and return-free adds -/

/-- The first regions are bank-contiguous, and their page may be used by a call; v8 to v13 hold the operands. -/
def calling (g : Group → Group) : State :=
  { solo g with
    modes := true :: List.replicate 11 false,
    cores := [(0, { Core.initial with tlb := [{ space := 0, base := 0, size := 30, entry := 0x27 }] })] }
def callX : XS := xs (vd 16) (.v 8) (.g 4) (.g 5) (i32 := 0x8C000003)
/-- Command `w`, mask `m`, X at 0x2000. -/
def asks (w m : DWord) : Group → Group := fun g => { g with
  vregs := [(8, 0x2000), (9, 0), (10, 0), (11, 0), (12, 0), (13, 0), (14, 3)], uregs := [(4, w), (5, m)] }

/-- `fill` of one element, and `walk` of one record. -/
theorem witness_CallsAreSent (w : DWord) (hw : w = 4 ∨ w = 8) : (Instr.mcall callX).wellFormed = true ∧
    (calling (asks w 1)).issuing .always = some (here (asks w 1)) ∧ (here (asks w 1)).stands entry1 ∧
    cmdBad ((here (asks w 1)).uni callX.b) = false ∧
    (∀ l, (here (asks w 1)).active.getLsbD l = true →
      CallAllowed (calling (asks w 1)) (here (asks w 1)) callX ((here (asks w 1)).uni callX.b) (fun _ _ => 0x2000) l) ∧
    (8 ≤ w.toNat % 16 ∨ commandRows w ≤ 16) ∧ ((calling (asks w 1)).core 0).queue5 = [] := by
  rcases hw with rfl | rfl <;>
  refine ⟨by decide, rfl, rfl, by decide, fun l h => ?_, by decide, rfl⟩ <;> rw [lane_zero h] <;>
  exact ⟨by decide, by decide, fun o ho => by
    obtain rfl := List.mem_singleton.mp ho
    exact ⟨by decide, by decide, by decide, _, _, _, rfl, rfl, fun _ => ⟨rfl, rfl⟩, fun _ => rfl,
      fun _ _ => ⟨by decide, by decide⟩⟩⟩

theorem witness_CallsRefused : cmdBad ((here (asks 10 1)).uni callX.b) = true ∧
    (lanes (here (asks 4 2)).active).filter (fun l => !((here (asks 4 2)).uni callX.c).getLsbD l) = [0] := by decide

/-- A call in an executor's queue. -/
def call1 (w : DWord) : Call :=
  { ticket := 5, core := 0, issuer := (here id).issuer, lane := 0, command := w, x := 0x2000, y := 0x4000, z := some 0x100,
    vx := 0x2000, a := 3, d := 4, permit := none, start := 0, tally := 0,
    kept := [] }
def busy (w : DWord) : Engine := { Engine.initial with queue := [call1 w] }
def executing (w : DWord) : State := { solo id with executors := [(7, busy w)] }

/-- Commands of two rows and of one, of each code. -/
theorem witness_RowStepsCompute (code : Nat) (hc : code < 8) (rows : Nat) (hr : rows = 0 ∨ rows = 1) :
    let w : DWord := BitVec.ofNat 64 (code + rows * 2 ^ 13)
    ∃ ev, rowStepOf code 7 = some ev ∧ (executing w).executors.lookup 7 = some (busy w) ∧
      (busy w).queue = call1 w :: [] ∧ (call1 w).command.toNat % 16 = code ∧ (busy w).refreshUntil ≤ (executing w).cycles ∧
      (busy w).running = false ∧ rowReadable (executing w) (call1 w) (stepOf (busy w) (call1 w)) ∧
      (rows = 1 → stepOf (busy w) (call1 w) + 1 < commandRows (call1 w).command) ∧
      (rows = 0 → commandRows (call1 w).command ≤ stepOf (busy w) (call1 w) + 1) := by
  rcases hr with rfl | rfl <;> interval_cases code <;>
  exact ⟨_, rfl, rfl, rfl, by decide, by decide, rfl, ⟨by decide, by decide⟩, by decide, by decide⟩

theorem witness_RowStepsStop : (let s := { executing 4 with badLines := [0x40] }
    rowStepOf 0 7 = some (.dot 7) ∧ ¬ rowReadable s (call1 0) (stepOf (busy 0) (call1 0))) ∧
    (call1 4).command.toNat % 16 ≠ 0 := ⟨⟨rfl, fun h => absurd (h.1 (by decide)) (by decide)⟩, by decide⟩

theorem witness_RefreshHoldsABank : ((executing 4).executors.at 7 Engine.initial).refreshUntil ≤ (executing 4).cycles := by
  decide

/-- R141, R142 by hand: `fill` writes its scalar to X, and replies 0. -/
theorem test_fill : (match exec (.fill 7) (executing 4) with
    | .next t => (wordAt t.mem 0x2000, wordAt t.mem 0x2004, t.replies.map fun r => r.value)
    | _ => (0, 0, [])) = (3, 0, [0]) := by decide

/-- A walker with one record of two at hand, and one with its last. -/
def walking (n : Word) (bad : List Nat) : State :=
  { solo id with walkers := [(2, { Engine.initial with queue := [{ call1 8 with a := n }] })], badLines := bad }
theorem witness_WalksTakeRecords : ((walking 2 []).walkers.lookup 2).isSome = true ∧
    (walking 2 [0x40]).badRead 0x2000 64 = true ∧ (walking 2 []).badRead 0x2000 64 = false ∧
    lookupBad (State.reset.mem.readBytes 0x2000 64) (lookupOf (State.reset.mem.readBytes 0x2000 64)) = true := by decide

/-- R149 by hand: a record of zeros has length 0, so status 3 and one failure. -/
theorem test_walk : (match exec (.walk 2) (walking 1 []) with
    | .next t => (wordAt t.mem (0x2000 + 44), t.replies.map fun r => r.value)
    | _ => (0, [])) = (3, [1]) := by decide

/-- Tables at 0x10000: the first GiB maps to itself, the second to the host; descriptors of passes of two blocks. -/
def tables : Memory :=
  (Memory.writeBytes [] 0x10000 (leBytes 8 0x11001)).writeBytes 0x11000 (leBytes 8 7 ++ leBytes 8 0x800000000007)
def passDescriptor (all : Nat) : List Byte :=
  leBytes 8 0x100000 ++ leBytes 4 2 ++ [1, BitVec.ofNat 8 all, 0, 0] ++ leBytes 8 0x200000 ++ leBytes 8 0x40000000
def passing (all : Nat) (bad : List Nat) : State :=
  { solo id with
    mem := tables.writeBytes 0x2000 (passDescriptor all), badLines := bad,
    foreman := { Foreman.initial with spaces := [(0, 0x10000)] },
    assays := [(2, { Engine.initial with queue := [call1 9] })] }
def passIn (all : Nat) : Pass := passOf (((List.range 16).map fun j => wordAt (passing all []).mem (0x2000 + 4 * j)).flatMap
  fun w => leBytes 4 w.toNat)

theorem status_known {α γ δ : Type} {n : Nat} (x : α × Nat × γ × δ) (h : x.2.1 = n) : x = (x.1, n, x.2.2.1, x.2.2.2) := by
  obtain ⟨a, b, c, d⟩ := x
  cases h
  rfl
theorem answer_known {α β : Type} {b : β} (x : α × β) (h : x.2 = b) : x = (x.1, b) := by
  obtain ⟨a, c⟩ := x
  cases h
  rfl

theorem witness_PassesTakeBlocks (all : Nat) (ha : all = 0 ∨ all = 1) :
    ((passing all []).assays.lookup 2).isSome = true ∧ (passing all []).badRead 0x2000 64 = false ∧
    (passing all [0x40]).badRead 0x2000 64 = true ∧ passBad (List.replicate 64 0) (passOf (List.replicate 64 0)) = true ∧
    (passIn all).host = true ∧ (passIn all).all = decide (all = 1) ∧ 0 + 1 < (passIn all).count ∧
    ∃ block entry dest s1 s2, (passing all []).passBlock 0 (passIn all) 0 = (s1, 0, block, entry) ∧
      s1.translateBare 0 ((passIn all).target + BitVec.ofNat 64 (65536 * 0)) .write = (s2, .ok dest false false) ∧
      inHost dest = true ∧ s2.link.up = true := by
  rcases ha with rfl | rfl <;>
  exact ⟨by decide, by decide, by decide, by decide, by decide, by decide, by decide, _, _, 0x800000000000, _, _,
    status_known _ (by decide +kernel),
    answer_known _ (by decide +kernel), by decide, by decide +kernel⟩

/-- The table entry of a block can hold its digest, or another. -/
theorem witness_PassDigests (bs : List Byte) : ∃ m n : Memory, (sha384 bs).take 16 = m.readBytes 0 ((sha384 bs).take 16).length ∧
    (sha384 bs).take 16 ≠ n.readBytes 0 17 := by
  refine ⟨Memory.writeBytes [] 0 ((sha384 bs).take 16), [], ?_, fun h => ?_⟩
  · have key : ∀ (n a : Nat) (m : Memory), m.readBytes a n = (List.range n).map fun k => m.read (a + k) := by
      intro n
      induction n with
      | zero => intro a m; rfl
      | succ n ih =>
        intro a m
        rw [Memory.readBytes, ih, List.range_succ_eq_map]
        simp [Function.comp_def, Nat.add_assoc, Nat.add_comm 1]
    rw [key]
    refine List.ext_getElem (by simp) fun k h₁ _ => ?_
    rw [List.getElem_map, List.getElem_range]
    exact (Memory.read_writeBytes _ _ 0 k (by decide) h₁).symm
  · have : ((sha384 bs).take 16).length ≤ 16 := by simp
    rw [h] at this
    exact absurd this (by decide)

/-- A group whose lane 1 waits for a reply, while lane 0 is elsewhere; the reply carries a value or an error. -/
def pooled (g : Group) : Group :=
  { g with
    live := 3,
    front := { g.front with pool := [{ lane := 1, ticket := 5, rejoin := 0x1010, prio := 7, mask := 3, origin := 0x1000 }] } }
def answering (ecc : Option Nat) : State :=
  { solo pooled with replies := [{ call := { call1 4 with lane := 1 }, value := 9, ecc := ecc }] }

theorem witness_RepliesResumeLanes (ecc : Option Nat) :
    (∃ r, ((answering ecc).replies.find? fun r => r.call.ticket = 5) = some r ∧ r.ecc = ecc ∧ r.call.d < 256) ∧
    (answering ecc).groups.lookup 0 = some (pooled group1) ∧ quiet (pooled group1) ∧
    (∃ p, ((pooled group1).front.pool.find? fun p => p.ticket = 5) = some p ∧
      ∃ l < (pooled group1).width, p.mask.getLsbD l = true ∧ (pooled group1).live.getLsbD l = true ∧ l ≠ p.lane) ∧
    (pooled group1).live.getLsbD 1 = true :=
  ⟨⟨_, rfl, rfl, (by decide : 4 < 256)⟩, rfl, ⟨rfl, rfl⟩, ⟨_, rfl, 0, by decide, by decide, by decide, by decide⟩, by decide⟩

/-- The other lane is parked where the reply's goes. -/
def pooledBeside (g : Group) : Group :=
  { pooled g with front := { (pooled g).front with entries := [], parked := [{ waiting1 with lane := 0 }] } }
theorem witness_LastRepliesRelease : (∃ r, (({ answering none with groups := [(0, pooledBeside group1)] } : State).replies.find?
      fun r => r.call.ticket = 5) = some r ∧ r.ecc = none ∧ r.call.d < 256) ∧ (pooledBeside group1).front.waits = [] ∧
    (∀ q ∈ (pooledBeside group1).front.parked, q.lane < 64) ∧
    ∃ p, ((pooledBeside group1).front.pool.find? fun p => p.ticket = 5) = some p ∧ p.lane < 64 :=
  ⟨⟨_, rfl, rfl, (by decide : 4 < 256)⟩, rfl, by decide, _, rfl, by decide⟩

/-- With a mask that names only its lane the same lane goes on. -/
def own1 : Pooled := { lane := 1, ticket := 5, rejoin := 0x1010, prio := 7, mask := 2, origin := 0x1000 }
theorem witness_RepliesGoOn : ([own1].find? fun p => p.ticket = 5) = some own1 ∧ own1.lane < 64 ∧
    ∀ l < (pooled group1).width, own1.mask.getLsbD l = true → (pooled group1).live.getLsbD l = true → l = own1.lane :=
  ⟨rfl, by decide, by decide⟩

/-- R137, R279 by hand: the value goes to v4 of lane 1, which parks. -/
theorem test_reply : after (exec (.mcallReply 5) (answering none)) (fun g => (g.vreg 0 1 4, g.front.pool.length,
    g.front.parked.map fun p => (p.lane, p.rejoin))) = some (9, 0, [(1, 0x1010)]) := by decide

def addX : XM := xm .f32 (vd 0) (.v 6) (.v 9)
/-- The core has handed over `n` adds, of lane `l`. -/
def adder (l : Nat) : Issuer := { group := 0, team := 1, pc := 0x0FF4, port := 0, mask := laneBit l, space := 0, grid := 3 }
def adds (n l : Nat) : List Add :=
  (List.range n).map fun k => { ticket := k, core := 0, issuer := adder l, va := 0x2000, pa := 0x2000, value := 0x3F800000 }

theorem witness_AddsAreHandedOver : (Instr.nadd addX).wellFormed = true ∧
    (lanes (here high).active).filter (fun l => !canonical ((here high).address addX l)) = [0] ∧
    (lanes (here (withV [(6, 2), (7, 0)])).active).filter (fun l => ((here (withV [(6, 2), (7, 0)])).address addX l).toNat % 4 != 0) =
      [0] ∧
    (∀ l, (here reads).active.getLsbD l = true → canonical ((here reads).address addX l) = true ∧
      ((here reads).address addX l).toNat % 4 = 0 ∧ inHost 0x2000 = false ∧
      ∃ t st bc, ((mapped reads).core 0).leafOf 0 ((here reads).address addX l).toNat = some t ∧
        (mapped reads).classify t.size t.entry ((here reads).address addX l).toNat .write = .ok 0x2000 st bc) ∧
    ((adds 255 0).filter fun a => a.core = 0).length + (lanes (here reads).active).length ≤ 256 ∧
    256 < ((adds 256 0).filter fun a => a.core = 0).length + (lanes (here reads).active).length :=
  ⟨by decide, by decide, by decide,
    fun l h => by rw [lane_zero h]; exact ⟨by decide, by decide, by decide, _, _, _, rfl, rfl⟩,
    by decide +kernel, by decide +kernel⟩

theorem witness_AddsAreExact : ((solo id).adds.find? fun a => (solo id).stackOf a.pa = 3) = none ∧
    (∃ a, ((adds 1 0).find? fun a => (solo id).stackOf a.pa = (solo id).stackOf 0x2000) = some a) ∧
    (solo id).badRead 0x2000 4 = false ∧ State.badRead { solo id with badLines := [0x40] } 0x2000 4 = true ∧
    (solo id).groups.lookup (adder 0).group = some group1 ∧ group1.live ≠ 0 ∧
    (∀ g, State.reset.groups.lookup (adder 0).group = some g → g.live = 0) ∧
    ((solo id).executors.at ((solo id).bankOf 0x2000) Engine.initial).running = false :=
  ⟨rfl, ⟨_, rfl⟩, by decide, by decide, rfl, by decide, fun _ h => absurd h.symm (Option.some_ne_none _), by decide⟩

/-- R150 by hand: 1.0 is added to the 0 that the word holds. -/
theorem test_nadd_perform : (match exec (.naddPerform ((solo id).stackOf 0x2000)) { solo id with adds := adds 1 0 } with
    | .next t => (wordAt t.mem 0x2000, t.adds.length)
    | _ => (0, 9)) = (0x3F800000, 0) := by decide

theorem witness_NfenceWaitsForAdds : (here id).stands entry1 ∧
    (∀ a ∈ adds 1 5, ¬ (a.issuer.group = (here id).gid ∧ (here id).active &&& a.issuer.mask ≠ 0)) ∧
    ∃ a ∈ adds 1 0, a.issuer.group = (here id).gid ∧ (here id).active &&& a.issuer.mask ≠ 0 := ⟨rfl, by decide, by decide⟩

/-! ### Witnesses: windows -/

/-- The object's address 0x2000 is in g4, a second operand in g5. -/
def object (v : DWord) : Group → Group := fun g => { g with vregs := [(6, 7)], uregs := [(4, 0x2000), (5, v)] }
def winX (d : Dst) (b : Src) (i32 : BitVec 32) : XS := xs d (.g 4) b (.v 0) i32
/-- A sum of integers over four of at most four (R185). -/
def config4 : DWord := 0x10 + 3 * 2 ^ 6 + 3 * 2 ^ 18

theorem window_allowed (v : DWord) : WindowAllowed (mapped (object v)) (here (object v)) ((here (object v)).uni (.g 4)) 0x2000 :=
  ⟨rfl, (by decide : (0x2000 : DWord).toNat % 128 = 0), by decide, { space := 0, base := 0, size := 30, entry := 7 }, false, false, rfl, by
    show State.reset.classify 30 7 0x2000 .read = _
    decide +kernel, rfl⟩

theorem witness_WindowInstructionsSend :
    (Instr.winit (winX (vd 0) (.g 5) 0)).wellFormed = true ∧ (Instr.wpush (winX (vd 0) (.v 6) 1)).wellFormed = true ∧
    (Instr.wpush (winX (vd 8) (.v 6) 5)).wellFormed = true ∧ (Instr.wread (winX (ud 8) (.v 0) 1)).wellFormed = true ∧
    (Instr.wlen (winX (vd 0) (.g 5) 0)).wellFormed = true ∧ (Instr.wfree (winX (vd 0) (.v 0) 0)).wellFormed = true ∧
    (∃ r, windowSends (.winit (winX (vd 0) (.g 5) 0)) = some r ∧ r.bad (here (object config4)) = false ∧
      r.bad (here (object (2 ^ 30))) = true) ∧
    (∃ r, windowSends (.wlen (winX (vd 0) (.g 5) 0)) = some r ∧ r.bad (here (object 4096)) = false ∧
      r.bad (here (object 4097)) = true ∧ r.bad (here (object 0)) = true ∧ r.returns = none) ∧
    (∃ r ws, windowSends (.wpush (winX (vd 8) (.v 6) 5)) = some r ∧ r.bad (here (object 0)) = false ∧ r.returns = some ws) ∧
    canonical ((here (withU [(4, 0x800000000000)])).uni (.g 4)) = false ∧
    ((here (withU [(4, 0x2040)])).uni (.g 4)).toNat % 128 ≠ 0 ∧ (here (object 0)).stands entry1 :=
  ⟨by decide, by decide, by decide, by decide, by decide, by decide, ⟨_, rfl, by decide +kernel, by decide +kernel⟩,
    ⟨_, rfl, by decide +kernel, by decide +kernel, by decide +kernel, rfl⟩, ⟨_, _, rfl, rfl, rfl⟩, by decide, by decide, rfl⟩

theorem witness_WindowsHoldTheLastValues : (1 : Nat) < 6 ∧ 1 ≤ 4 ∧ ∀ v ∈ ([3, 1, 4, 1, 5, 9] : List DWord), v.toNat < 2 ^ 32 := by
  simp

/-- A window of pairs, of BF16 and of FP32, empty; and one of FP32 with two contributions in the back stack, one in front. -/
theorem witness_WindowsCombine : windowPair 7 3 ∧ windowPair 0 2 ∧ windowPair 6 0 ∧ ¬ windowPair 6 2 ∧
    ({ emptyWindow 7 4 with ty := 3 }).back = [] := by unfold windowPair; decide
theorem witness_WindowsKeepTwoStacks :
    TwoStacks { emptyWindow 0 4 with ty := 0, back := [0x40400000, 0x40000000], front := [0x3F800000], fold := some 0x3F800000 }
      [0x3F800000, 0x40000000] [0x3F800000] := ⟨rfl, rfl, by decide +kernel⟩

/-- Chapter 26: the maximum over the last four; after 9, 4, 1, 3 it is 9, which no longer counts once 5 has come. -/
theorem test_window_maximum :
    let w := emptyWindow 1 4
    ((([9, 4, 1, 3] : List DWord).foldl Window.push w).value, (([9, 4, 1, 3, 5] : List DWord).foldl Window.push w).value,
     (([9, 4, 1, 3, 5, 6] : List DWord).foldl Window.push w).value) = (9, 5, 6) := by decide

/-- A message at the head of queue 6, and an object at its address. -/
def winMsg (w : WinWork) : WinMsg := { ticket := 5, issuer := (here id).issuer, va := 0x2000, pa := 0x2000, work := w }
def homing (w : WinWork) (o : Option Window) : State :=
  { solo id with
    cores := [(0, { Core.initial with queue6 := [winMsg w] })], windows := o.toList.map fun w => (0x2000, w) }
def foremans : Window := { emptyWindow 0 4 with foreman := true }

theorem witness_HomeUnitsPerform (w : WinWork) (o : Option Window) : ((homing w o).core 0).queue6 = [winMsg w] ∧
    (homing w o).groups.lookup (winMsg w).issuer.group = some group1 ∧
    (o = some (emptyWindow 0 4) → (homing w o).windows.lookup (winMsg w).pa = o) ∧
    (emptyWindow 0 4).foreman = false ∧ (emptyWindow 0 4).ty = 1 ∧ (([(0, 3), (1, 4)] : List (Nat × DWord)).map (·.1)).Nodup ∧
    (∀ d, some 254 = some d → d + 1 < 256) ∧ 4 ≤ (emptyWindow 0 4).capacity ∧
    (homing (.init config4) none).windows.lookup (winMsg (.init config4)).pa = none ∧
    (((homing (.init config4) none).onCore 0 fun c => { c with queue6 := c.queue6.tail }).makeWindow 0x2000 config4 0 false).isSome
      = true :=
by
  refine ⟨?_, ?_, ?_, ?_, ?_, ?_, ?_, ?_, ?_, ?_⟩
  · rfl
  · rfl
  · intro h; subst h; rfl
  · rfl
  · rfl
  · decide
  · intro d h; obtain rfl := Option.some.inj h; decide
  · exact Nat.le_refl 4
  · rfl
  · decide +kernel

theorem witness_HomeUnitsRefuse :
    ((homing (.init config4) (some foremans)).windows.lookup 0x2000).isSome = true ∧
    (homing (.push 1 none []) none).windows.lookup 0x2000 = none ∧ foremans.foreman = true ∧
    (emptyWindow 0 4).foreman = false ∧ (emptyWindow 0 4).ty ≠ 0 ∧ (emptyWindow 0 4).capacity < 5 := by decide

/-- Outside trap mode nothing is dropped; in it, a message of the entry that trapped is a follower's. A returning form that
nothing has followed stands again. -/
def following (g : Group) : TrapState :=
  { front := { g.front with entries := [{ entry1 with hold := .window 5 }] }, rep := 0, followers := 1,
    resume := .entry 1 0x0F00 0x0F0C }
theorem witness_FollowersAreDropped : group1.trap = none ∧
    (∃ g : Group, ∃ t, g.trap = some t ∧ t.resume = .entry 1 0x0F00 0x0F0C ∧
      g.sentBy t.front.entries (winMsg (.read 1 false 8)) &&& 1 ≠ 0) ∧
    ∃ f : Flight, ([{ ticket := 5, pc := 0x0FF4, next := 0x1000, mask := 1, left := 2, issued := 0, writes := [] }] :
      List Flight).find? (fun f => f.ticket = 5) = some f ∧ f.issued = 0 :=
  ⟨rfl, ⟨{ group1 with trap := some (following group1) }, following group1, rfl, rfl, by decide⟩, _, rfl, rfl⟩

/-- R293 by hand: two contributions to an empty sum, whose value goes to v8 of their lanes. -/
theorem test_wpush : (match exec (.wpushAtHome 0) (homing (.push 1 (some 8) [(0, 3), (1, 4)]) (some (emptyWindow 0 4))) with
    | .next t => ((t.groups.lookup 0).map fun g => (g.vreg 0 0 8, g.vreg 0 1 8), (t.core 0).queue6.length)
    | _ => (none, 9)) = (some (3, 7), 0) := by decide

/-- R292: `winit` where an object stands traps with `WINDOW_OBJ`, code 14. -/
theorem test_winit_refused : after (exec (.winitAtHome 0) (homing (.init config4) (some (emptyWindow 0 4))))
    (fun g => (g.tcause.toNat % 256, g.taddr)) = some (14, 0x2000) := by decide

/-! ### Witnesses: flash -/

def waitingInstall : Install :=
  { ticket := 5, column := 0, group := none, extent := 3, source := [], inline := none, completion := 0, busy := false,
    assay := none, deadline := none, permit := none, tries := 0 }

/-- Destination in flash at 1 GiB, source at 2 MiB, completion word at 0x2000. -/
def installing (n : Nat) (g : Group → Group) : State :=
  { solo g with
    cores := [(0, { Core.initial with
      tlb := [{ space := 0, base := 0, size := 30, entry := 7 },
              { space := 0, base := 0x40000000, size := 30, entry := 0x400000000043 }] })],
    flash := [(0, { Flash.initial with installs := List.replicate n waitingInstall })] }
def installs (d : DWord) : Group → Group := withU [(4, d), (5, 0x200000), (6, 0x2000)]
def installX : XS := xs (vd 0) (.g 4) (.g 5) (.g 6)
def flashPa (va : DWord) : Nat := if va.toNat < 0x40000000 then va.toNat else va.toNat - 0x40000000 + 0x400000000000

theorem witness_InstallsAreEntered :
    let i := here (installs 0x40000000)
    let s := installing 7 (installs 0x40000000)
    (Instr.finstall installX).wellFormed = true ∧ s.issuing .always = some i ∧ i.stands entry1 ∧ i.active ≠ 0 ∧
    (i.uni installX.a).toNat % 2 ^ 21 = 0 ∧ (i.uni installX.b).toNat % 2 ^ 16 = 0 ∧ (i.uni installX.c).toNat % 8 = 0 ∧
    (∀ va ∈ [i.uni installX.a] ++ ((List.range 32).map fun k => i.uni installX.b + BitVec.ofNat 64 (65536 * k)) ++
        [i.uni installX.c], canonical va = true ∧ ∃ t st bc, (s.core i.grp.core).leafOf i.grp.space va.toNat = some t ∧
        s.classify t.size t.entry va.toNat .read = .ok (flashPa va) st bc ∧ (va = i.uni installX.c → bits 2 2 t.entry = 1)) ∧
    inFlash (flashPa (i.uni installX.a)) = true ∧
    (∀ k < 32, inDram (flashPa (i.uni installX.b + BitVec.ofNat 64 (65536 * k))) = true) ∧
    inDram (flashPa (i.uni installX.c)) = true ∧ (s.flash.at 0 Flash.initial).installs.length < 8 ∧
    8 ≤ ((installing 8 (installs 0x40000000)).flash.at 0 Flash.initial).installs.length ∧
    canonical ((here (installs 0x800000000000)).uni installX.a) = false := by
  refine ⟨by decide, rfl, rfl, by decide, by decide, by decide, by decide, fun va h => ?_, by decide, by decide, by decide,
    by decide, by decide, by decide⟩
  have h' : va = 0x40000000 ∨ (∃ k < 32, va = 0x200000 + BitVec.ofNat 64 (65536 * k)) ∨ va = 0x2000 := by
    simp only [List.mem_append, List.mem_singleton, List.mem_map, List.mem_range] at h
    rcases h with (h | ⟨k, hk, h⟩) | h
    exacts [.inl h, .inr (.inl ⟨k, hk, h.symm⟩), .inr (.inr h)]
  rcases h' with rfl | ⟨k, hk, rfl⟩ | rfl
  · exact ⟨by decide, _, _, _, rfl, rfl, by decide⟩
  · interval_cases k <;> exact ⟨by decide, _, _, _, rfl, rfl, by decide⟩
  · exact ⟨by decide, _, _, _, rfl, rfl, by decide⟩

/-- What the foldl of R178's choice answers lies in its list, once the list is not empty. -/
theorem fold_answers (f : Option Nat → Nat → Option Nat) (hf : ∀ b p, f b p = some p ∨ (f b p = b ∧ b ≠ none)) (l : List Nat) :
    ∀ b, (b ≠ none ∨ l ≠ []) → ∃ p, l.foldl f b = some p ∧ (p ∈ l ∨ b = some p) := by
  induction l with
  | nil =>
    intro b hb
    obtain ⟨p, rfl⟩ := Option.ne_none_iff_exists'.mp (hb.resolve_right (by simp))
    exact ⟨p, rfl, .inr rfl⟩
  | cons a r ih =>
    intro b _
    have hn : f b a ≠ none := by
      rcases hf b a with h | ⟨h, h2⟩
      · simp [h]
      · rwa [h]
    obtain ⟨p, hp, hm⟩ := ih (f b a) (.inl hn)
    refine ⟨p, hp, ?_⟩
    rcases hm with hm | hm
    · exact .inl (List.mem_cons_of_mem a hm)
    · rcases hf b a with h | ⟨h, -⟩
      · rw [h] at hm
        cases hm
        exact .inl List.mem_cons_self
      · exact .inr (h ▸ hm)

def lighter (f : Flash) (best : Option Nat) (p : Nat) : Option Nat :=
  match best with
  | none => some p
  | some q => if f.worst p * 2 ^ 16 + (f.cycles p).foldl (· + ·) 0 < f.worst q * 2 ^ 16 + (f.cycles q).foldl (· + ·) 0 then
      some p else some q

theorem chooses (f : Flash) (h : f.free ≠ []) : ∃ p, f.choose = some p ∧ p ∈ f.free := by
  have hf : ∀ b p, lighter f b p = some p ∨ (lighter f b p = b ∧ b ≠ none) := by
    intro b p
    cases b with
    | none => exact .inl rfl
    | some q =>
      unfold lighter
      dsimp only
      split
      · exact .inl rfl
      · exact .inr ⟨rfl, by simp⟩
  obtain ⟨p, hp, hm⟩ := fold_answers (lighter f) hf f.free none (.inr h)
  exact ⟨p, hp, hm.resolve_right (by simp)⟩

/-- The unmapped extents of a fresh stack are free. -/
theorem fresh_free (p : Nat) (h : 524288 ≤ p ∧ p < 540672) : p ∈ Flash.initial.free := by
  simp only [Flash.free, List.mem_filter, List.mem_range]
  refine ⟨h.2, ?_⟩
  simp only [Flash.mapped, Flash.initial]
  simp
  omega

theorem witness_LeastWornExtents : ∃ p, Flash.initial.choose = some p ∧ ∀ b, Flash.initial.wear.at b 0 ≤ 3000 := by
  obtain ⟨p, hp, -⟩ := chooses Flash.initial fun h => absurd (fresh_free 524288 (by decide)) (h ▸ List.not_mem_nil)
  exact ⟨p, hp, fun b => by simp [Flash.initial, Store.at]⟩

/-- Only extent 524288 is left, worn out; and none is left. -/
def lastExtent : Flash :=
  { Flash.initial with gone := (List.range 540672).filter (· != 524288), wear := [(4 * 524288, 3000)] }
def noExtent : Flash := { Flash.initial with gone := List.range 540672 }
theorem last_free (p : Nat) (h : p ∈ lastExtent.free) : p = 524288 := by
  simp only [Flash.free, List.mem_filter, List.mem_range, lastExtent] at h
  by_contra hn
  have : ((List.range 540672).filter (· != 524288)).contains p = true := by
    rw [List.contains_iff_mem, List.mem_filter, List.mem_range]
    exact ⟨h.1, by simpa using hn⟩
  simp [this, -List.contains_eq_mem, -List.elem_eq_contains] at h
theorem last_is_free : 524288 ∈ lastExtent.free := by
  simp only [Flash.free, List.mem_filter, List.mem_range]
  refine ⟨by decide, ?_⟩
  have : ((List.range 540672).filter (· != 524288)).contains 524288 = false := by
    rw [Bool.eq_false_iff, ne_eq, List.contains_iff_mem, List.mem_filter]
    simp
  simp only [lastExtent, Flash.mapped, Flash.initial, this]
  rfl
theorem last_chosen : lastExtent.choose = some 524288 := by
  obtain ⟨p, hp, hm⟩ := chooses lastExtent fun h => absurd last_is_free (h ▸ List.not_mem_nil)
  rw [hp, last_free p hm]
theorem none_chosen : noExtent.choose = none := by
  have : noExtent.free = [] := by
    rw [Flash.free, List.filter_eq_nil_iff]
    intro p hp
    simp [noExtent, List.mem_range.mp hp]
  rw [Flash.choose, this]
  rfl

def install1 (busy : Bool) (t : Option Nat) (tries : Nat) : Install :=
  { ticket := 5, column := 0, group := some 0, extent := 3, source := [0x200000], inline := none, completion := 0x2000,
    busy := busy, assay := none, deadline := some 100000, permit := t, tries := tries }
/-- The install heads its stack; its permit, if any, is granted or not. -/
def flashing (fl : Flash) (n : Install) (granted : Bool) (bad : List Nat) : State :=
  { solo id with
    flash := [(0, { fl with installs := [n] })], badLines := bad,
    cores := [(0, { Core.initial with
      permits := [{ ticket := 9, group := none, explicit := false, granted := granted, held := true, users := [5] }] })] }

/-- Without errors and with the link up, everything can be read. -/
theorem all_readable (s : State) (h1 : s.badLines = []) (h2 : s.link.up = true) (h3 : s.flaws = []) (a : Nat) :
    s.unreadable a = false := by
  have hb : s.lineBad a = false := by simp [State.lineBad, State.cutOff, h1, h2]
  unfold State.unreadable
  cases findLine (s.slice (s.home a)).supers a <;> simp [h3, hb]

theorem witness_InstallsProceed (fl : Flash) (n : Install) (g : Bool) (bad : List Nat) :
    ((flashing fl n g bad).flash.at 0 Flash.initial).installs = [n] ∧
    (install1 true none 0).permit = none ∧ (install1 true none 0).busy = true ∧
    (install1 false none 0).busy = false ∧
    (∃ r ∈ ({ Flash.initial with locked := [(3, 1)] } : Flash).locked, r.1 ≤ (install1 false none 0).extent ∧
      (install1 false none 0).extent < r.1 + r.2) ∧
    (∀ r ∈ ([(2, 1), (4, 1)] : List (Nat × Nat)), ¬ (r.1 ≤ (install1 false none 0).extent ∧
      (install1 false none 0).extent < r.1 + r.2)) ∧ (install1 false (some 9) 0).permit = some 9 ∧
    (g = false → ∀ p ∈ ((flashing fl n g bad).core 0).permits, p.ticket = 9 → p.granted = false) ∧
    (g = true → ∃ p ∈ ((flashing fl n g bad).core 0).permits, p.ticket = 9 ∧ p.granted = true) ∧
    noExtent.choose = none ∧ lastExtent.choose = some 524288 ∧ 3000 ≤ lastExtent.worst 524288 ∧
    (∃ p, Flash.initial.choose = some p ∧ Flash.initial.worst p < 3000) ∧
    (∃ a ∈ (install1 false (some 9) 0).source, ∃ b, a ≤ b ∧ b < a + 65536 ∧ (flashing fl n g [0x4000]).unreadable b = true) ∧
    (∀ b, (flashing fl n g []).unreadable b = false) ∧
    (∀ b ∈ [4, 5], 4 ≤ b) ∧ (∃ b ∈ [0, 3], b < 4) ∧ (install1 false (some 9) 0).tries = 0 ∧
    (install1 false (some 9) 1).tries ≠ 0 := by
  obtain ⟨p, hp, -⟩ := witness_LeastWornExtents
  refine ⟨rfl, rfl, rfl, rfl, by decide, by decide, rfl, ?_, ?_, none_chosen, last_chosen, ?_,
    ⟨p, hp, by simp [Flash.worst, Flash.cycles, Flash.initial, Store.at]⟩, ⟨0x200000, by decide, 0x200000, by decide, by decide, rfl⟩,
    all_readable _ rfl rfl rfl, by decide, by decide, rfl, by decide⟩
  · rintro rfl q hq -
    obtain rfl := List.mem_singleton.mp hq
    rfl
  · rintro rfl
    exact ⟨_, List.mem_singleton.mpr rfl, rfl, rfl⟩
  · decide +kernel

theorem witness_InstallsEnd : (install1 false (some 9) 0).assay = none := rfl

theorem witness_InstallPermitTimesOut (fl : Flash) :
    ((flashing fl (install1 false (some 9) 0) false []).flash.at 0 Flash.initial).installs = [install1 false (some 9) 0] ∧
    (install1 false (some 9) 0).deadline = some 100000 ∧ State.time { solo id with cycles := 850000 } = 100000 ∧
    State.time { solo id with cycles := 849999 } < 100000 := ⟨rfl, rfl, by decide, by decide⟩

def statX (b : BitVec 8) : XS := xs (ud 4) (.imm b) (.v 0) (.v 0)
theorem witness_FlashStatus : (Instr.fstat (statX 3)).wellFormed = true ∧ (solo id).issuing (statX 3).g = some (here id) ∧
    (here id).scalar (statX 3).a ≤ 3 ∧ 3 < (here id).scalar (statX 4).a ∧ 0 ∉ (solo id).flashOut ∧
    0 ∈ ({ solo id with flashOut := [0] } : State).flashOut ∧ (solo id).link.up = true ∧
    ({ State.reset.link with up := false } : Link).up = false := by
  exact ⟨by decide, rfl, by decide, by decide, by decide, by decide, rfl, rfl⟩

/-! ### Witnesses: the matrix engine, copies, handles -/

/-- The team's scratchpad holds what `m` says; its size is 4,096, and it has half of the slice. -/
def padded (m : Memory) (g : Group → Group) : State :=
  { mapped g with teams := [(1, { team1 with scratch := m, size := 4096 })] }
/-- Operands in g4 and g5. -/
def gives (a b : DWord) : Group → Group := withU [(4, a), (5, b)]
def engX (d : Dst) (a b : Src) (i32 : BitVec 32 := 0) : XS := xs d a b (.v 0) i32

/-- Each instruction with operands that pass its checks, at the edges of their ranges, and operands that do not. -/
theorem witness_EngineWorkIsPlaced :
    (let x := engX (vd 0) (.g 4) (.v 0)
     (Instr.gang x).wellFormed = true ∧ ∃ r, engineRule (.gang x) = some r ∧
       (∀ b ∈ r.checks (padded [] (gives 0 0)) (here (gives 0 0)), b.1 = false) ∧
       ((r.checks (padded [] (gives 1 0)) (here (gives 1 0))).find? fun b => b.1).isSome = true) ∧
    (let x := engX (vd 0) (.g 4) (.g 5)
     (Instr.segtab x).wellFormed = true ∧ ∃ r, engineRule (.segtab x) = some r ∧
       (∀ b ∈ r.checks (padded [(4088, 1)] (gives 4088 1)) (here (gives 4088 1)), b.1 = false) ∧
       ((r.checks (padded [] (gives 4088 1)) (here (gives 4088 1))).find? fun b => b.1).isSome = true) ∧
    (let x := engX (vd 0) (.g 4) (.v 0) 0x32
     (Instr.wload x).wellFormed = true ∧ ∃ r, engineRule (.wload x) = some r ∧
       (∀ b ∈ r.checks (padded [] (gives 510 0)) (here (gives 510 0)), b.1 = false) ∧
       ((r.checks (padded [] (gives 511 0)) (here (gives 511 0))).find? fun b => b.1).isSome = true) ∧
    (let x := engX (vd 8) (.g 4) (.v 0) 0
     (Instr.accrd x).wellFormed = true ∧ ∃ r, engineRule (.accrd x) = some r ∧
       (∀ b ∈ r.checks (padded [] (gives 511 0)) (here (gives 511 0)), b.1 = false) ∧
       ((r.checks (padded [] (gives 0x200 0)) (here (gives 0x200 0))).find? fun b => b.1).isSome = true) ∧
    (let x := engX (vd 0) (.g 4) (.v 6) 1
     (Instr.accwr x).wellFormed = true ∧ ∃ r, engineRule (.accwr x) = some r ∧
       (∀ b ∈ r.checks (padded [] (gives 510 0)) (here (gives 510 0)), b.1 = false) ∧
       ((r.checks (padded [] (gives 511 0)) (here (gives 511 0))).find? fun b => b.1).isSome = true) ∧
    (let x := engX (vd 0) (.g 4) (.g 5)
     (Instr.accz x).wellFormed = true ∧ ∃ r, engineRule (.accz x) = some r ∧
       (∀ b ∈ r.checks (padded [] (gives 0 512)) (here (gives 0 512)), b.1 = false) ∧
       ((r.checks (padded [] (gives 1 512)) (here (gives 1 512))).find? fun b => b.1).isSome = true) ∧
    (let x := engX (vd 0) (.g 4) (.v 0)
     (Instr.epld x).wellFormed = true ∧ ∃ r, engineRule (.epld x) = some r ∧
       (∀ b ∈ r.checks (padded [] (gives 3840 0)) (here (gives 3840 0)), b.1 = false) ∧
       ((r.checks (padded [] (gives 3904 0)) (here (gives 3904 0))).find? fun b => b.1).isSome = true) := by
  refine ⟨⟨by decide, _, rfl, ?_, ?_⟩, ⟨by decide, _, rfl, ?_, ?_⟩, ⟨by decide, _, rfl, ?_, ?_⟩, ⟨by decide, _, rfl, ?_, ?_⟩,
    ⟨by decide, _, rfl, ?_, ?_⟩, ⟨by decide, _, rfl, ?_, ?_⟩, ⟨by decide, _, rfl, ?_, ?_⟩⟩ <;> decide +kernel

/-- `mma` of one row of one element, its parameters in g8 to g11; tile `t`. -/
def product (t : DWord) (gang : BitVec 32) (g : Group) : Group :=
  { g with uregs := [(8, 64 * 2 ^ 32), (9, 0x10001), (10, t), (11, 0)], gang := gang }
def mmaX : XS := engX (vd 0) (.g 8) (.v 0) 0x10
/-- An arrival of group 9 of the team, which has index 1, under gang 3. -/
def other : Issuer := { (here id).issuer with group := 9 }
def latch1 (a : Issuer) : Latch :=
  { gang := 3, instr := .mma mmaX, params := (productOf mmaX (here (product 510 3))).params, arrived := [a] }
def ganged (a : Option Issuer) : State :=
  { padded [] (product 510 3) with
    groups := [(0, product 510 3 group1), (9, { group1 with index := 1 })],
    cores := [(0, { core1 with matrix := { Matrix.initial with latch := a.map latch1 } })] }

theorem witness_ProductsAreQueued : (Instr.mma mmaX).wellFormed = true ∧ (here (product 510 0)).stands entry1 ∧
    (∀ b ∈ productChecks mmaX (padded [] (product 510 0)) (here (product 510 0)), b.1 = false) ∧
    ((productChecks mmaX (padded [] (product 511 0)) (here (product 511 0))).find? fun b => b.1).isSome = true ∧
    (here (product 510 0)).grp.gang = 0 ∧ (here (product 510 3)).grp.gang ≠ 0 ∧
    (∀ b ∈ productChecks mmaX (ganged none) (here (product 510 3)), b.1 = false) ∧
    ((ganged none).core 0).matrix.latch = none ∧
    ((ganged (some other)).core 0).matrix.latch = some (latch1 other) ∧
    (∃ a ∈ (latch1 (here id).issuer).arrived, a.group = (here id).gid) ∧
    (∀ a ∈ (latch1 other).arrived, a.group ≠ (here (product 510 3)).gid ∧ a.team = (here (product 510 3)).grp.team) ∧
    ∀ k < 32, (latch1 other).gang.getLsbD k = true → ∃ a ∈ (latch1 other).arrived ++ [(here (product 510 3)).issuer],
      (((ganged (some other)).groups.lookup a.group).map fun g => g.index) = some k := by
  refine ⟨by decide, rfl, ?_, ?_, rfl, by decide, ?_, rfl, rfl, ?_, ?_, ?_⟩ <;> decide +kernel

/-- Under gang 7 the arrival of group 9 is not the last; under gang 3 an arrival with another tile differs. -/
def waitingOther : Group :=
  { group1 with index := 1, front := { group1.front with entries := [{ entry1 with hold := .latch }] } }
theorem witness_GangsWaitOrDiffer :
    (let l : Latch := { latch1 other with gang := 7 }
     ∃ k < 32, l.gang.getLsbD k = true ∧ ∀ a ∈ l.arrived ++ [(here (product 510 7)).issuer],
      (((ganged (some other)).groups.lookup a.group).map fun g => g.index) ≠ some k) ∧
    (let i := here (product 509 3)
     let s : State := { ganged (some other) with groups := [(0, product 509 3 group1), (9, waitingOther)], serial := 100 }
     ¬ ((latch1 other).params = (productOf mmaX i).params) ∧ (((latch1 other).arrived ++ [i.issuer]).map fun a => a.group).Nodup ∧
      ∀ a ∈ (latch1 other).arrived ++ [i.issuer], ∃ g, s.groups.lookup a.group = some g ∧ a.group ≠ s.serial ∧ g.trap = none ∧
        g.trapEntry.isSome = true ∧ (a.group ≠ i.gid → ∃ q ∈ g.front.entries, q.hold = .latch)) := by
  refine ⟨⟨2, by decide, by decide, by decide⟩, by decide, by decide, fun a h => ?_⟩
  rcases List.mem_cons.1 h with rfl | h
  · exact ⟨waitingOther, rfl, by decide, rfl, rfl, fun _ => ⟨_, List.mem_singleton.2 rfl, rfl⟩⟩
  · obtain rfl := List.mem_singleton.1 h
    exact ⟨product 509 3 group1, rfl, by decide, rfl, rfl, fun h => absurd rfl h⟩

/-- An operation at the head of queue 4, with its permit or without. -/
def op1 (w : Work4) : Op4 := { ticket := 5, team := 1, issuers := [(here id).issuer], work := w, parked := none }
def granted1 : Permit := { ticket := 9, group := none, explicit := false, granted := true, held := true, users := [5] }
def engine (w : Work4) (ps : List Permit) : State :=
  { padded [] id with cores := [(0, { core1 with queue4 := [op1 w], permits := ps })] }

theorem witness_EngineWorkIsPerformed (w : Work4) : ((engine w [granted1]).core 0).queue4 = [op1 w] ∧
    permitted (engine w [granted1]) 0 (op1 w) = true ∧
    (∀ p ∈ ((engine w []).core 0).permits, (op1 w).ticket ∉ p.users ∧ p.explicit = false) ∧
    (op1 w).issuers = [(here id).issuer] ∧ (engine w []).groups.lookup (here id).issuer.group = some group1 ∧ 248 + 8 ≤ 256 :=
  ⟨rfl, rfl, fun p h => absurd h (by simp [engine, State.core, Store.at]), rfl, rfl, by decide⟩

/-- The same operation in its phases: not started, at its only block, draining. -/
def phase (claimed started drain : Bool) (flags : BitVec 32) : MmaOp :=
  { flags := flags, params := [64 * 2 ^ 32, 0x10001, 510, 0], claimed := claimed, started := started, segment := 0, block := 0,
    drain := drain, row := 0, held := none }
def program1 (w : Word) : Epilogue :=
  { words := [w], consts := [], slots := [{ base := 0x800000000000, stride := 0, scale := 0 }] }

theorem witness_ProductsAreComputed :
    (engine (.mma (phase false false false 0x110)) [granted1]).handle 1 0 = 0 ∧ mmaHdl (phase false false false 0x110).flags = true ∧
    State.handle { engine (.mma (phase false false false 0x110)) [granted1] with
      teams := [(1, { team1 with handles := [(0, 1)] })] } 1 0 ≠ 0 ∧
    ((engine (.mma (phase false false false 0x110)) [granted1]).teams.lookup 1).isSome = true ∧
    (mmaSegments (phase true true false 0x10).flags (mmaParams (phase true true false 0x10).params) [])[0]? = some (1, 510) ∧
    (op1 (.mma (phase true true true 0x90))).issuers.head? = some (here id).issuer ∧
    permitted (engine (.mma (phase true true true 0x90)) [granted1]) 0 (op1 (.mma (phase true true true 0x90))) = true ∧
    (∃ s1, State.epiRow 0 1 0 (program1 0) 0 (program1 0).body (solo id) { w := [], q := 0, y := [] } = .ok s1) ∧
    ∃ s1 c va, State.epiRow 0 1 0 (program1 0x38000004) 0 (program1 0x38000004).body (solo id) { w := [1], q := 0, y := [] } =
      .fault s1 c va :=
  ⟨rfl, rfl, by decide, rfl, rfl, rfl, rfl, ⟨_, rfl⟩, _, _, _, rfl⟩

/-- With no error nothing is lost; with one in tile 510, or in row 0 of A, the load or the block is. -/
theorem witness_WordsAreLost (s : State) (hs : s.flaws = []) (f : BitVec 32) (p : MmaParams) (latches : Bool)
    (tile first rows block : Nat) : ¬ tileLost s 0 2 0 510 ∧ ¬ blockLost s 0 1 f p latches tile first rows block ∧
    tileLost { solo id with flaws := [.floor 0 0x1FE000] } 0 2 0 510 ∧
    blockLost { solo id with flaws := [.scratch 1 0] } 0 1 0x10 (mmaParams (phase true true false 0x10).params) false 510 0 1 0 := by
  have hf : ∀ c o n, floorFlawed s c o n = false := by intro c o n; simp [floorFlawed, hs]
  have hp : ∀ c o n, padFlawed s c o n = false := by intro c o n; simp [padFlawed, hs]
  refine ⟨fun ⟨r, _, h⟩ => by simp [hf] at h, ?_, ⟨(0x7F8000, 16384), by decide, by decide⟩,
    Or.inr ⟨0, by decide, by decide, Or.inl (by decide)⟩⟩
  rintro (⟨_, ⟨r, _, h⟩ | ⟨_, r, _, h⟩⟩ | ⟨a, _, _, h | ⟨_, h⟩⟩) <;> simp [hf, hp] at h

/-- A column with permits: the group's explicit one among them, or none; a queue of requests. -/
def explicit1 (g : Bool) : Permit := { ticket := 9, group := some 0, explicit := true, granted := g, held := true, users := [] }
def permitting (ps : List Permit) (level : Nat) : State :=
  { solo id with cores := [(0, { Core.initial with permits := ps, swallow := level })] }
theorem witness_PermitsAreGranted : (permitting [] 0).issuing .always = some (here id) ∧ (here id).active ≠ 0 ∧
    (∃ p ∈ ((permitting [explicit1 true] 0).core 0).permits, p.explicit = true ∧ p.held = true ∧ p.group = some (here id).gid) ∧
    (∀ p ∈ ((permitting [granted1] 0).core 0).permits, ¬ (p.explicit = true ∧ p.held = true ∧ p.group = some (here id).gid)) ∧
    (((permitting [explicit1 true] 0).core 0).permits.map fun q => q.ticket).Nodup ∧
    (∀ q ∈ ((permitting [explicit1 true] 0).core 0).permits, q.explicit = true → q.held = true → q.group = some (here id).gid →
      q = explicit1 true) ∧
    (let c := (permitting [granted1, granted1, granted1, { granted1 with granted := false }] 7).core 0
     c.permits.countP (fun q => q.granted) < 4) ∧
    (let c := (permitting [granted1, { granted1 with granted := false }] 15).core 0
     1 ≤ c.permits.countP (fun q => q.granted)) ∧
    (let c := (permitting [granted1, granted1, { granted1 with granted := false }] 8).core 0
     2 ≤ c.permits.countP (fun q => q.granted)) ∧
    (∀ p ∈ ((permitting [granted1] 0).core 0).permits, p.granted = true) := by
  refine ⟨rfl, by decide, ?_, ?_, ?_, ?_, ?_, ?_, ?_, ?_⟩ <;> decide

/-- R167 by hand: below level 8 a fourth request is granted, at level 8 a third is not. -/
theorem test_permit_grant :
    let wants : Permit := { explicit1 false with ticket := 7 }
    let held := fun (n level : Nat) => (match exec (.permitGrant 0) (permitting (List.replicate n granted1 ++ [wants]) level) with
      | .next t => (t.core 0).permits.countP fun p => p.granted
      | _ => 0)
    (held 3 7, held 4 7, held 2 8, held 1 15) = (4, 4, 2, 1) := by decide

/-- A chain head at 0x2000, and a channel with four chains. -/
def cpX : XS := xs (vd 0) (.g 4) (.v 0) (.v 0) (i32 := 1)
def head1 : Head := { ticket := 5, issuer := (here id).issuer, record := 0x2000, shares := none }
def channels (n : Nat) (g : Group → Group) : State :=
  { solo g with cores := [(0, { Core.initial with
      channels := [(1, { Channel.initial with heads := List.replicate n head1 })] })] }

theorem witness_ChainsAreStarted : (Instr.cpgo cpX).wellFormed = true ∧
    (channels 3 (giving 0x2000)).issuing .always = some (here (giving 0x2000)) ∧
    (here (giving 0x2000)).uni cpX.a ≠ 0 ∧ canonical ((here (giving 0x2000)).uni cpX.a) = true ∧
    ((here (giving 0x2000)).uni cpX.a).toNat % 64 = 0 ∧
    (((channels 3 (giving 0x2000)).core 0).channels.at 1 Channel.initial).heads.length < 4 ∧
    4 ≤ (((channels 4 (giving 0x2000)).core 0).channels.at 1 Channel.initial).heads.length ∧
    (here (giving 0)).uni cpX.a = 0 ∧ canonical ((here (giving 0x800000000000)).uni cpX.a) = false ∧
    ((here (giving 0x2020)).uni cpX.a).toNat % 64 ≠ 0 := by
  refine ⟨by decide, rfl, ?_, ?_, ?_, ?_, ?_, ?_, ?_, ?_⟩ <;> decide

/-- A record of eight bytes from offset 0 to offset 8 of the scratchpad, owned; and a codebook record at 0x4000. -/
def plainRecord : List Byte :=
  leBytes 8 0 ++ leBytes 2 0xA9 ++ leBytes 6 0 ++ leBytes 8 0 ++ leBytes 8 8 ++ leBytes 4 8 ++ leBytes 28 0
def bookRecord : List Byte :=
  leBytes 8 0 ++ leBytes 2 0x0B ++ leBytes 6 0 ++ leBytes 8 0x4000 ++ leBytes 8 0 ++ leBytes 4 4096 ++ leBytes 28 0
def running1 (bs : List Byte) : Running := { record := 0x2000, pa := 0x2000, bytes := bs, shares := [], data := none }
def copying (x : Channel) : State :=
  { mapped id with
    teams := [(1, { team1 with scratch := [(0, 7)], size := 16 })],
    cores := [(0, { core1 with channels := [(0, x)] })] }
def lead1 (r : Option Running) (p : Option (Nat × DWord)) : Channel := { heads := [head1], running := r, parked := p }

theorem witness_PlainRecord : Plain (copying (lead1 (some (running1 plainRecord)) none)) head1 (running1 plainRecord) 16 ∧
    (copying (lead1 (some (running1 plainRecord)) none)).Canonical := by
  refine ⟨⟨by decide, by decide, by decide, by decide, rfl, by decide, by decide, by decide⟩, ?_, ?_, ?_, ?_, ?_⟩ <;>
    simp [copying, mapped, solo, State.aboutToIssue, State.reset, State.onCore, State.setCore, team1, Slice.initial, Memory.wf]

/-- What a page of the identity map answers for an address below 1 GiB. -/
theorem low_page (s : State) (hs : (s.core 0).tlb = [{ space := 0, base := 0, size := 30, entry := 7 }])
    (hg : s.stagingGib = 48) (a : Nat) (h : a < 2 ^ 30) : canonical (BitVec.ofNat 64 a) = true ∧
    ∃ t st bc, (s.core 0).leafOf 0 (BitVec.ofNat 64 a).toNat = some t ∧
      s.classify t.size t.entry (BitVec.ofNat 64 a).toNat .read = .ok a st bc := by
  have hn : (BitVec.ofNat 64 a).toNat = a := by simp; omega
  refine ⟨?_, { space := 0, base := 0, size := 30, entry := 7 }, false, false, ?_, ?_⟩
  · simp only [canonical, beq_iff_eq]
    apply BitVec.eq_of_toNat_eq
    have : (BitVec.setWidth 48 (BitVec.ofNat 64 a)).msb = false := by
      rw [BitVec.msb_eq_decide]; simp; omega
    rw [BitVec.toNat_signExtend, this]
    simp
    omega
  · rw [hn, Core.leafOf, hs]
    simpa using h
  · rw [hn]
    have e1 : entryAddr 7 = 0 := by decide
    simp only [State.classify, e1, Nat.zero_add, Nat.mod_eq_of_lt h]
    have d : inDram a = true := by simp [inDram]; omega
    have st : s.inStaging a = false := by simp [State.inStaging, hg]; intro _; omega
    have f : inFlash a = false := by simp [inFlash]; intro hh; omega
    simp [State.reserved, inHole, d, st, f, show bits 6 6 7 = 0 by decide, show bits 2 2 7 = 1 by decide, show bits 5 5 7 = 0 by decide,
      show bits 4 4 7 = 0 by decide]

/-- Its elements lie at bytes 0 to 7 and go to bytes 8 to 15. -/
theorem witness_ElementsLie (b : Bool) (k : Nat) (hk : k < elementCount (recordOf plainRecord)) :
    LiesAt (copying (lead1 (some (running1 plainRecord)) none)) 0 head1.issuer 1 (if b then .write else .read)
      (if b then (elementAt (recordOf plainRecord) k).2 else (elementAt (recordOf plainRecord) k).1)
      (.scratch 1 (if b then 8 + k else k)) ∧
    (recordOf plainRecord).source = 1 ∧ (recordOf plainRecord).dest = 1 ∧ elementWidth (recordOf plainRecord) = 1 ∧
    (recordOf plainRecord).multicast = false ∧ (recordOf plainRecord).transform = false := by
  have hn : elementCount (recordOf plainRecord) = 8 := by decide
  rw [hn] at hk
  refine ⟨?_, by decide, by decide, by decide, by decide, by decide⟩
  cases b <;> interval_cases k <;>
    exact ⟨{ team1 with scratch := [(0, 7)], size := 16 }, rfl, by decide, by decide, by decide, by decide⟩

theorem witness_BookAllowed (x : Channel) : BookAllowed (copying x) 0 head1 (running1 bookRecord) (fun k => 0x4000 + k) := by
  refine ⟨by decide, fun k hk => ?_⟩
  have hsrc : (recordOf (running1 bookRecord).bytes).src = 0x4000 := by decide
  rw [hsrc]
  obtain ⟨h1, h2⟩ := low_page (copying x) rfl rfl (0x4000 + k) (by omega)
  exact ⟨h1, h2⟩

/-- The tags of R172 are found, the channel has a record, waits, is idle, or reads a record that it does not own. -/
theorem witness_RecordsAreCopied : (copying Channel.initial).core 0 = { core1 with channels := [(0, Channel.initial)] } ∧
    Channel.initial.heads = [] ∧ (lead1 none (some (9, 0x2000))).parked.isSome = true ∧ (lead1 none none).running = none ∧
    (∃ t st bc, ((copying (lead1 none none)).core 0).leafOf 0 head1.record.toNat = some t ∧
      (copying (lead1 none none)).classify t.size t.entry head1.record.toNat .read = .ok 0x2000 st bc) ∧
    (copying (lead1 none none)).unreadable 0x2000 = false ∧
    (recordOf ((copying (lead1 none none)).l2Read 0x2000 64).2).owner = false ∧
    (copying (lead1 none none)).tagOf 1 ≠ none :=
  ⟨rfl, rfl, rfl, rfl, (low_page _ rfl rfl 0x2000 (by decide)).2, by decide, by decide +kernel, by decide⟩

def handleX (d : Dst) (i32 : BitVec 32) : XS := xs d (.g 4) (.v 0) (.v 0) i32
/-- Handle 63 is in state `st`. -/
def handled (st : Nat) (g : Group → Group) : State := { solo g with teams := [(1, { team1 with handles := [(63, st)] })] }
theorem witness_HandlesAreUsed (st : Nat) (h : st < 4) :
    (handled st (giving 63)).issuing .always = some (here (giving 63)) ∧ (here (giving 63)).stands entry1 ∧
    (here (giving 63)).scalar (handleX (vd 4) 0).a ≤ 63 ∧ 63 < (here (giving 64)).scalar (handleX (vd 4) 0).a ∧
    (handled st (giving 63)).handle 1 ((here (giving 63)).scalar (handleX (vd 4) 0).a) = st ∧
    (handleX (vd 0) (1 <<< st)).i32.getLsbD st = true ∧ (handleX (vd 0) 0).i32.getLsbD st = false ∧
    (Instr.hstat (handleX (vd 4) 0)).wellFormed = true ∧ (Instr.hstat (handleX (ud 4) 0)).wellFormed = true ∧
    (Instr.hwait (handleX (vd 0) 4)).wellFormed = true ∧ (Instr.hrel (handleX (vd 0) 0)).wellFormed = true := by
  interval_cases st <;> exact ⟨rfl, rfl, by decide, by decide, rfl, by decide, by decide, by decide, by decide, by decide,
    by decide⟩

/-- R319 by hand: a full handle drains, a draining one is free. -/
theorem test_hrel : (match exec (.hrel (handleX (vd 0) 0)) (handled 2 (giving 63)) with
      | .next t => t.handle 1 63
      | _ => 9) = 3 ∧
    (match exec (.hrel (handleX (vd 0) 0)) (handled 3 (giving 63)) with
      | .next t => t.handle 1 63
      | _ => 9) = 0 := by decide

/-! ### Witnesses: system instructions, cores, scheduling -/

/-- The grid has a producer that has placed a cluster of two, and whose group has not triggered; or none. -/
def producing (done : Bool) : State :=
  { solo id with
    grids := ((solo id).grids.map fun p => (p.1, { p.2 with producers := if done then [] else [8] })) ++
      [(8, { ((solo id).grids.head (by decide)).2 with next := 1, clusters := 2, producers := [] })] }
theorem witness_DependencesAreKept : (producing true).issuing .always = some (here id) ∧ (here id).active ≠ 0 ∧
    producersReady (producing true) (here id) ∧ ¬ producersReady (producing false) (here id) ∧
    (∃ c, (solo id).clusters.lookup (here id).grp.cluster = some c ∧ (solo id).mustLeave (here id).grp.cluster = false ∧
      (solo id).remapDue = false ∧ (solo id).crowded ((solo id).prioOf c) = false) := by
  refine ⟨rfl, by decide, ?_, ?_, _, rfl, by decide, by decide, by decide +kernel⟩
  · intro g hg p hp
    have : g.producers = [] := by
      have : (producing true).grids.lookup (here id).grp.grid = some g := hg
      rw [show (producing true).grids.lookup (here id).grp.grid = some { ((solo id).grids.head (by decide)).2 with
        producers := [] } from rfl] at this
      rw [← Option.some.inj this]
    rw [this] at hp
    exact absurd hp List.not_mem_nil
  · intro h
    have h8 := h _ rfl 8 (by decide) _ rfl
    exact absurd h8.1 (by decide)

/-- A launch message of one cluster of one team of one group of eight lanes; `k` is its kind. -/
def message (k : Byte) (id : Nat) : List Byte :=
  [k, 0, 0, 0] ++ leBytes 4 id ++ leBytes 4 0 ++ leBytes 2 0 ++ [1, 2] ++ leBytes 4 1 ++ [0x11, 1, 0, 32, 0, 0] ++
    List.replicate 102 0
def object1 : CodeObject :=
  { space := 0, entries := [(0x1000, [0, 0, 0, 0, 8, 32, 0, 0, 0, 0, 0, 0])], trapEntry := none, digest := 0, key := 0, time := 0 }
def ready1 : Foreman := { Foreman.initial with stage := 5, spaces := [(0, 0x10000)], objects := [(0, object1)] }
def taking (n : Nat) : State :=
  { solo id with
    foreman := ready1, queues := [(2, { Queue.initial with items := List.replicate n (.launch 3) })] }
/-- The message in the sixteen uniform registers from g0. -/
def holds (bs : List Byte) : Group → Group :=
  withU ((List.range 16).map fun k => (k, BitVec.ofNat 64 (leNat ((bs.drop (8 * k)).take 8))))
def launchX : XS := xs (ud 20) (.g 0) (.v 0) (.v 0)

theorem witness_KernelsLaunchGrids : (Instr.launch launchX).wellFormed = true ∧
    (let i := here (holds (message 1 0))
     let bs := (List.range 16).flatMap fun k => leBytes 8 (i.grp.ureg i.gid (Src.index launchX.a + k)).toNat
     messageKind bs = 1 ∧ (taking 255).refusal bs true = 0 ∧ (taking 255).waiting (messageQueue bs) < 256 ∧
      256 ≤ (taking 256).waiting (messageQueue bs) ∧ (taking 255).pairOut = false ∧
      (taking 255).shapeExists (field bs 20 1 % 16) (field bs 20 1 / 16) = true ∧ (solo id).refusal bs true ≠ 0) ∧
    (let i := here (holds (message 2 0))
     messageKind ((List.range 16).flatMap fun k => leBytes 8 (i.grp.ureg i.gid (Src.index launchX.a + k)).toNat) ≠ 1) := by
  refine ⟨by decide, ?_, ?_⟩ <;> decide +kernel

theorem witness_MessagesAreTaken : (taking 0).ready = true ∧ (taking 0).link.up = true ∧ (solo id).ready = false ∧
    messageKind (message 3 5) ≠ 1 ∧ messageKind (message 3 5) ≠ 2 ∧ messageKind (message 1 5) = 1 ∧
    field (message 1 5) 56 8 = 0 ∧ (taking 0).refusal (message 1 5) false = 0 ∧
    State.refusal { taking 0 with foreman := { ready1 with objects := [] } } (message 1 5) false ≠ 0 ∧
    (taking 0).pairOut = false ∧ messageId (message 1 5) < 2 ^ 31 ∧ 2 ^ 31 ≤ messageId (message 1 (2 ^ 31)) ∧
    (∀ p ∈ (taking 0).grids, p.2.id.toNat ≠ messageId (message 1 5)) ∧
    (∃ p ∈ (taking 0).grids, p.2.id.toNat = messageId (message 1 0)) ∧
    (taking 0).shapeExists (field (message 1 5) 20 1 % 16) (field (message 1 5) 20 1 / 16) = true ∧
    (taking 255).waiting (messageQueue (message 1 5)) < 256 ∧ 256 ≤ (taking 256).waiting (messageQueue (message 1 5)) ∧
    (let bs : List Byte := [2, 0, 0, 0] ++ List.replicate 124 0
     messageKind bs = 2 ∧ nonZero bs 1 3 = false ∧ nonZero bs 8 120 = false ∧ (taking 0).gridOf (messageId bs) = some 3) := by
  decide +kernel

/-- Operations in channel 2 of the core, or none, and a team with floor need. -/
def queueing (n : Nat) (g : Group → Group) : State :=
  { mapped g with
    cores := [(0, { core1 with channels := [(2, { Channel.initial with heads := List.replicate n head1 })] })] }
def waysX : XS := xs (vd 0) (.g 4) (.v 0) (.v 0)
def fenceX : XS := xs (vd 0) (.v 0) (.v 0) (.v 0) (i32 := 4)
theorem witness_QueuesAreAwaited : (Instr.setways waysX).wellFormed = true ∧ (Instr.qfence fenceX).wellFormed = true ∧
    (queueing 0 (giving 8)).issuing .always = some (here (giving 8)) ∧ (here (giving 8)).stands entry1 ∧
    (here (giving 8)).scalar waysX.a = 8 ∧ (here (giving 16)).scalar waysX.a = 16 ∧ (here (giving 9)).scalar waysX.a ≠ 8 ∧
    hasFloor (queueing 0 (giving 8)) (here (giving 8)) = true ∧ hasFloor (solo (giving 8)) (here (giving 8)) = false ∧
    engineTickets (queueing 0 (giving 8)) 0 ++ (queueing 0 (giving 8)).waysPending 1 = [] ∧
    engineTickets (queueing 1 (giving 8)) 0 ++ (queueing 1 (giving 8)).waysPending 1 ≠ [] ∧
    ((queueing 0 id).slice 0).ways = 8 ∧
    (((List.range 7).filter fun q => fenceX.i32.getLsbD q).flatMap ((queueing 0 id).queued 0)) = [] ∧
    (((List.range 7).filter fun q => fenceX.i32.getLsbD q).flatMap ((queueing 1 id).queued 0)) ≠ [] := by
  refine ⟨by decide, by decide, rfl, rfl, ?_, ?_, ?_, ?_, ?_, ?_, ?_, ?_, ?_, ?_⟩ <;> decide

/-- A counter at `a`, a bound, a limit. -/
def counts (a b c : DWord) : Group → Group := withU [(4, a), (5, b), (6, c)]
def readX (d : Dst) : XS := xs d (.g 4) (.v 0) (.v 0) (i32 := 1)
def waitX (i32 : BitVec 32) : XS := xs (ud 8) (.g 4) (.g 5) (if i32.getLsbD 1 then .g 6 else .v 0) i32
theorem counter_allowed (b c : DWord) : CounterAllowed (mapped (counts 0x2000 b c)) (here (counts 0x2000 b c)) 0x2000 0x2000 := by
  refine ⟨by decide, by decide, by decide, ?_, ?_⟩
  · exact all_readable _ rfl rfl rfl _
  · obtain ⟨-, h⟩ := low_page (mapped (counts 0x2000 b c)) rfl rfl 0x2000 (by decide)
    exact h

theorem witness_CountersAreRead : (Instr.ccread (readX (ud 8))).wellFormed = true ∧ (Instr.ccread (readX (vd 8))).wellFormed = true ∧
    (Instr.ccwait (waitX 2)).wellFormed = true ∧ (here (counts 0x2000 0 0)).uni (waitX 2).a = 0x2000 ∧
    (here (counts 0x2004 0 0)).uni (waitX 2).a ≠ 0x2000 ∧ ((here (counts 0x2004 0 0)).uni (waitX 2).a).toNat % 8 ≠ 0 ∧
    canonical ((here (counts 0x800000000000 0 0)).uni (waitX 2).a) = false ∧
    leNat ((mapped (counts 0x2000 1 1)).readAt 0 4 0x2000 8 false).2 < ((here (counts 0x2000 1 1)).uni (waitX 2).b).toNat ∧
    ((here (counts 0x2000 0 1)).uni (waitX 2).b).toNat ≤ leNat ((mapped (counts 0x2000 0 1)).readAt 0 4 0x2000 8 false).2 ∧
    ((waitX 2).i32.getLsbD 1 = true ∧ (here (counts 0x2000 1 0)).scalar (waitX 2).c = 0) := by
  refine ⟨by decide, by decide, by decide, by decide, by decide, by decide, by decide, ?_, ?_, by decide⟩ <;> decide +kernel

/-- An entry that waits for a counter, for five ticks from tick 0. -/
def awaiting (w : Hold) (g : Group) : Group := { g with front := { g.front with entries := [{ entry1 with hold := w }] } }
def counter1 : CounterWait :=
  { ticket := 4, limit := some (5, 0), d := 8, sys := false, mask := 1, expired := false }
theorem witness_CounterTimeout : (∃ e, ((awaiting (.counter counter1) group1).front.entries.find? fun q => q.mask.getLsbD 0) = some e ∧
    e.hold = .counter counter1) ∧ counter1.limit = some (5, 0) ∧ State.time { solo id with cycles := 43 } = 5 ∧
    State.time { solo id with cycles := 42 } = 4 := ⟨⟨_, rfl, rfl⟩, rfl, by decide, by decide⟩

/-- Lane 0 is parked for good: its mask names lane 1, which is parked for it. -/
def parked1 (l : Nat) : Parked := { lane := l, rejoin := 0x1010 + BitVec.ofNat 64 l, prio := 0, mask := 3, origin := 0x1000 }
def stuck1 : Group := { group1 with live := 3, front := { entries := [], parked := [parked1 0, parked1 1], pool := [], waits := [] } }
def fetchMiss : State := { mapped id with cores := [(0, { core1 with
  tlb := [{ space := 0, base := 0, size := 30, entry := 0xF }], fetching := [(0, 0x20)] })] }
theorem witness_CoresStepByThemselves :
    (∃ e, (({ group1 with front := { group1.front with entries := [{ entry1 with passes := 32 }] } } : Group).front.entries.find?
      fun q => q.mask.getLsbD 0) = some e ∧ 32 ≤ e.passes ∧ e.raised = none) ∧
    ((fetchMiss.core 0).fetching.find? fun p => p.2 = 0x20) = some (0, 0x20) ∧
    canonical (BitVec.ofNat 64 (0x20 * 128)) = true ∧
    (∃ t, (fetchMiss.core 0).leafOf 0 (BitVec.ofNat 64 (0x20 * 128)).toNat = some t ∧
      fetchMiss.classify t.size t.entry (BitVec.ofNat 64 (0x20 * 128)).toNat .fetch = .ok 0x1000 false false) ∧
    stuck1.stuck = true ∧ stuck1.resident = true ∧ group1.stuck = false ∧
    (∃ root s1 size entry, (passing 0 []).foreman.spaces.lookup 0 = some root ∧ ((passing 0 []).core 0).leafOf 0 (1 * 65536) = none ∧
      walkFrom (1 * 65536) levels (passing 0 []) root = (s1, .leaf size entry)) ∧ (solo id).foreman.spaces.lookup 0 = none := by
  refine ⟨⟨_, rfl, by decide, rfl⟩, rfl, by decide, ⟨_, rfl, by decide⟩, ?_, rfl, by decide, ⟨65536, (walkFrom (1 * 65536) levels (passing 0 []) 65536).1, 30, 7, rfl, rfl, ?_⟩, rfl⟩
  · decide
  · exact answer_known _ (by decide +kernel)

theorem witness_MissesAreAnswered : let g := awaiting (.xlate 9 0x5000 1 0) group1
    g.front.entries = [{ entry1 with hold := .xlate 9 0x5000 1 0 }] ∧ entry1.mask ≠ 0 ∧ g.trap = none ∧
    g.trapEntry = some 0x2000 ∧ g.flights = [] ∧ (solo (awaiting (.xlate 9 0x5000 1 0))).groups = [(0, g)] ∧
    ∀ p ∈ (solo (awaiting (.xlate 9 0x5000 1 0))).cores, p.2.matrix.latch = none ∧ (∀ o ∈ p.2.queue4, o.parked = none) ∧
      ∀ c ∈ p.2.channels, c.2.parked = none := by
  refine ⟨rfl, by decide, rfl, rfl, rfl, rfl, fun p hp => ?_⟩
  obtain rfl := List.mem_singleton.mp hp
  exact ⟨rfl, by decide, by decide⟩

/-- R108 by hand: after `xlateFail` the handler knows the address and `XLATE_FAULT`, code 3. -/
theorem test_xlate_fail : after (exec (.xlateFail 9) (solo (awaiting (.xlate 9 0x5000 1 0))))
    (fun g => (g.taddr, g.tcause.toNat % 256, g.tmask)) = some (0x5000, 3, 1) := by decide

/-- A launch that waits at the head of queue 0 since tick 0, beside the grid of the group. -/
def grid1 : Grid :=
  { id := 7, kernel := false, object := 0, entryPc := 0x1000, trapEntry := none, prio := 1, queue := 0, clusters := 2, rows := 1,
    cols := 2, groups := 1, width := 8, count := 256, scratch := 0, floor := false, plimit := 0, space := 0, pbase := 0,
    args := 0, completion := 0, producers := [], next := 0, failed := false, reason := 0 }
def serving (i : Item) : State :=
  { State.reset with
    serial := 100, grids := [(9, grid1)], queues := [(0, { Queue.initial with items := [i] })],
    clusters := [(5, { grid := 9, index := 0, corner := 0, teams := [6, 7], resident := false, since := 0, arrived := 0,
                       frozen := none })],
    teams := [(6, saved1), (7, saved1)] }
where saved1 : Team := { team1 with
  cluster := 5, grid := 9, floorNeed := false,
  saved := some { floor := none, matrix := none, queue4 := [], channels := [], codebook := none, adds := [], walks := [],
                  ranges := [], area := 0, image := [] } }

theorem witness_HeadsAreRaised : 9 ∉ ((serving (.launch 9)).queue 0).raised ∧ 9 ∈ ({ Queue.initial with raised := [9] } : Queue).raised ∧
    ((serving (.launch 9)).queue 0).items = [.launch 9] := by decide

theorem witness_ClustersArePlaced : (serving (.launch 9)).serve = some (0, 1, .launch 9) ∧ (solo id).serve = none ∧
    (serving (.launch 9)).grids.lookup 9 = some grid1 ∧ FreshSerials (serving (.launch 9)) ∧
    (serving (.saved 5)).serve = some (0, 1, .saved 5) ∧
    (∃ c, (serving (.saved 5)).clusters.lookup 5 = some c ∧ (serving (.saved 5)).grids.lookup c.grid = some grid1 ∧
      c.teams.length = grid1.rows * grid1.cols ∧
      ∀ t ∈ c.teams, ∃ m v, (serving (.saved 5)).teams.lookup t = some m ∧ m.saved = some v ∧ (serving (.saved 5)).areaIntact v = true) ∧
    State.time { solo id with cycles := 54400000 } = 6400000 := by
  refine ⟨by decide +kernel, by decide +kernel, rfl, ⟨by decide, by decide, by decide⟩, by decide +kernel,
    ⟨_, rfl, rfl, rfl, fun t ht => ?_⟩, by decide⟩
  have : t = 6 ∨ t = 7 := by simpa using ht
  rcases this with rfl | rfl <;> exact ⟨_, _, rfl, rfl, by decide⟩

/-- The cluster of the group after 2 ms; one that shares its column; a pool for the save. -/
def late (pool : Option (Nat × Nat)) (out : List Nat) : State :=
  { solo id with cycles := 1700000, foreman := { Foreman.initial with savePool := pool }, slicesOut := out }
def cluster1 : Cluster :=
  { grid := 3, index := 0, corner := 0, teams := [1], resident := true, since := 0, arrived := 0, frozen := none }
theorem witness_QuantaEnd : (late none []).clusters.lookup 2 = some cluster1 ∧ cluster1.frozen = none ∧
    (late none []).expired cluster1 = true ∧ (solo id).expired cluster1 = false ∧
    (∀ p ∈ (late none []).clusters, (late none []).expired p.2 = true → (late none []).prioOf cluster1 < (late none []).prioOf p.2 ∨
      ((late none []).prioOf cluster1 = (late none []).prioOf p.2 ∧ cluster1.arrived ≤ p.2.arrived)) ∧
    (late none []).mustLeave 2 = false ∧ (late none []).remapDue = false ∧
    (late none []).crowded ((late none []).prioOf cluster1) = false ∧ (late none [4]).remapDue = true ∧
    (late none []).mayEvict 2 cluster1 = false ∧
    ((late none []).grids.lookup cluster1.grid).isSome = true ∧
    (∀ t ∈ cluster1.teams, ∃ m, (late none []).teams.lookup t = some m ∧ (late none []).mustWait t m = false) ∧
    (late none []).foreman.savePool = none ∧ cluster1.teams ≠ [] ∧ cluster1.teams.Nodup ∧
    (let s := late (some (0, areaSize 1 true)) []
     s.foreman.savePool = some (0, areaSize 1 true) ∧ s.areas = [] ∧
     (cluster1.teams.map fun t => areaSize t true).sum ≤ areaSize 1 true ∧ (∀ a, s.unreadable a = false) ∧ s.flaws = [] ∧
     ∃ t ∈ cluster1.teams, ∃ m, s.teams.lookup t = some m ∧ State.teamBad { s with flaws := [.scratch 1 5] } t m = true) := by
  refine ⟨rfl, rfl, by decide, by decide, by decide, by decide, by decide, by decide +kernel, by decide, by decide +kernel,
    by decide, fun t ht => ?_, rfl, by decide, by decide, rfl, rfl, ?_, fun a => ?_, rfl,
    ⟨1, List.mem_singleton.2 rfl, _, rfl, by decide⟩⟩
  · obtain rfl := List.mem_singleton.mp ht
    exact ⟨_, rfl, by decide⟩
  · show (areaSize 1 true + 0) ≤ areaSize 1 true
    omega
  · exact all_readable _ rfl rfl rfl a

/-- Every group of the cluster waits in `waitdep`, and a launch of the same shape waits for its column; a second cluster of
lower priority has run out too. -/
def crowding : State :=
  { late none [] with
    columnsOut := (List.range 384).filter (· != 0),
    groups := [(0, awaiting .waitdep group1)],
    grids := (late none []).grids ++ [(9, { grid1 with cols := 1, count := 256, groups := 64 })],
    queues := [(0, { Queue.initial with items := [.launch 9] })] }
theorem witness_WaitdepEviction : crowding.mayEvict 2 cluster1 = true ∧ crowding.crowded (crowding.prioOf cluster1) = true := by
  decide +kernel

theorem witness_LowerFirst : let s : State := { late none [] with
      grids := [(3, { grid1 with prio := 1 }), (9, { grid1 with prio := 0 })],
      clusters := [(2, cluster1), (4, { cluster1 with grid := 9 })] }
    ∃ p ∈ s.clusters, p.1 ≠ 2 ∧ s.expired p.2 = true ∧ s.prioOf p.2 < s.prioOf cluster1 :=
  ⟨(4, { cluster1 with grid := 9 }), by decide, by decide, by decide, by decide⟩

/-! ### Witnesses: the foreman, the link, the transport, reliability -/

theorem all_false (n k : Nat) : (List.replicate n false).getD k false = false := by
  by_cases h : k < n <;> simp [List.getD, h]
theorem witness_RequestsAreServed : (taking 0).ready = true ∧ State.reset.ready = false ∧
    ((7 : Nat) ≠ 0 ∧ (taking 0).foreman.spaces.lookup 7 = none ∧ (taking 0).reserved 0x20000 = false ∧
      inFlash 0x20000 = false ∧ (taking 0).foreman.spaces.lookup 0 ≠ none) ∧
    (State.reset.foreman.spaces.lookup 0 = none ∧ State.reset.reserved 0x20000 = false) ∧
    (State.reset.foreman.savePool = none ∧ inDram 0 = true ∧ inDram 0x400000000000 = false ∧
      (∀ size, 384 * Config.maximalSave ≤ size → size ≤ 2 ^ 38 → 0 + size ≤ (384 - State.reset.stagingGib) * 2 ^ 30)) ∧
    (let modes := List.replicate 384 false
     modes.length = 384 ∧ (∀ r < 384, modes.getD r false = modes.getD (32 * (r / 32)) false) ∧
       ∀ r < 384, 384 - State.reset.stagingGib ≤ r → modes.getD r false = false) ∧
    (∀ r < 384, 384 - 16 ≤ r → State.reset.modes.getD (r / 32) false = false) := by
  refine ⟨by decide, by decide, by decide, by decide, ⟨by decide, by decide, by decide +kernel, ?_⟩, ⟨List.length_replicate, ?_, ?_⟩, ?_⟩
  · intro size _ h
    show 0 + size ≤ (384 - 48) * 2 ^ 30
    omega
  · exact fun r _ => (all_false 384 r).trans (all_false 384 _).symm
  · exact fun r _ _ => all_false 384 r
  · exact fun r _ _ => all_false 12 _

/-- Space 7 has a root; the grid of the group runs in space 0. -/
def spaced : State := { taking 0 with foreman := { ready1 with spaces := [(0, 0x10000), (7, 0x20000)] } }
theorem witness_SpacesAreReleased : State.reset.ready = false ∧ spaced.ready = true ∧
    spaced.foreman.spaces.lookup 9 = none ∧ (∃ p ∈ spaced.grids, p.2.space = 0) ∧
    spaced.foreman.spaces.lookup 7 ≠ none ∧ ∀ p ∈ spaced.grids, p.2.space ≠ 7 := by decide

theorem witness_RecordsAreKept : State.reset.foreman.drift.length < 24 ∧
    (let s : State := { taking 0 with foreman := { ready1 with records := [(0, object1)] } }
      ∃ o, s.foreman.records.lookup 0 = some o) ∧
    (taking 0).foreman.records.lookup 0 = none ∧ (taking 0).ready = true ∧ (taking 0).foreman.objects.lookup 0 ≠ none ∧
    (∀ p ∈ (State.reset).grids, p.2.object ≠ 0) := ⟨by decide, ⟨_, rfl⟩, rfl, by decide, by decide, by decide⟩

/-- An object without code: header, table of six sections, a signature (R209, R210). It is signed so that two keys verify it. -/
def bare : List Byte :=
  let row (ty flags align size : Nat) : List Byte :=
    leBytes 2 ty ++ leBytes 2 flags ++ leBytes 4 align ++ leBytes 8 256 ++ leBytes 8 size ++ leBytes 8 size
  [0x4C, 0x58, 0x4F, 0] ++ leBytes 2 1 ++ leBytes 2 64 ++ leBytes 4 400 ++ leBytes 4 6 ++ leBytes 8 64 ++
    leBytes 4 0xFFFFFFFF ++ List.replicate 36 0 ++ row 1 1 3 0 ++ row 4 0 2 0 ++ row 5 0 2 0 ++ row 7 0 2 0 ++ row 8 0 2 0 ++
    row 9 0 2 144
def bareSign : Nat :=
  0x4d793ee19dd60f4be776189a5a954d320e6b2431e92e9d2153348ce786637e30eb05c58a6d1a24c6105bf494985c18ec
def bareKeys : List (Nat × Nat) :=
  [(0x54c646109353f0bcfcd82924649267dc2fc0b9a85f8cd1702be6bdeba049e4f5aedd0f369915f9c9b0a4ee593d889af3,
    0x1accbc2e9c3d5f68584bbf623a8ebb0017f2a06863b7b13f361d92a2ce743e82fd574fe69bfc01e290448b52a7326527),
   (0x765e9d47b145a4f4a008c364aa50ee7471a656ef657dba954209f1e150d998b8ca17ce0ab21064f109144429e52090b,
    0xc68e17ad25413c0831f20a0d141cad8dc3eba20d05c0d28bb4fc14e4ac656dbbb84c8f585e859975fde7f6cfcba5df3)]
def ownKey (k : Nat × Nat) : BitVec 384 × BitVec 384 := (BitVec.ofNat 384 k.1, BitVec.ofNat 384 k.2)
def owning (k : Nat × Nat) : State := { taking 0 with foreman := { ready1 with ownerKeys := [ownKey k] } }

/-- Its owner key is found by its identifier, unless the vendor root key has the same one. -/
theorem key_found (k : Nat × Nat) (id : List Byte) (hk : pointOf (ownKey k) = k) (hid : keyId k = id)
    (hv : keyId (pointOf Config.vendorKey) ≠ id) : (owning k).keyOf id = some k := by
  have h1 : (owning k).keys = [pointOf Config.vendorKey, pointOf (ownKey k)] := rfl
  simp [State.keyOf, h1, List.find?, hv, hk, hid]

/-- Of two keys with different identifiers, one is no namesake of the vendor root key. -/
theorem one_of_two (a b : Nat × Nat) (h : keyId a ≠ keyId b) :
    keyId (pointOf Config.vendorKey) ≠ keyId a ∨ keyId (pointOf Config.vendorKey) ≠ keyId b := by
  by_cases hv : keyId (pointOf Config.vendorKey) = keyId a
  · exact .inr fun e => h (hv.symm.trans e)
  · exact .inl hv

def bareKey (k : Nat) : Nat × Nat := bareKeys.getD k (0, 0)
def signedBare (k : Nat) : List Byte := bare ++ keyId (bareKey k) ++ beBytes 48 bareSign ++ beBytes 48 bareSign

theorem bare_verifies (k : Nat) (hk : k = 0 ∨ k = 1) :
    signatureValid (bareKey k) ((signedBare k).take 256) (beNat (((signedBare k).drop 304).take 48))
      (beNat (((signedBare k).drop 352).take 48)) = true ∧
    (signedBare k).length = 400 ∧ ((signedBare k).drop 256).take 48 = keyId (bareKey k) ∧
    pointOf (ownKey (bareKey k)) = bareKey k := by
  rcases hk with rfl | rfl <;> decide +kernel

theorem bare_keys_differ : keyId (bareKey 0) ≠ keyId (bareKey 1) := by decide +kernel

/-- An enrol request for a key, signed so that two keys verify it. -/
def enrolled : List Byte :=
  4 :: (beBytes 48 0x2282bc382a2f4dfcb95c3495d7b4fd590ad520b3eb6be4d6ec2f80c4e0f70df87c4ba74a09b553ebb427b58df9d59fca ++
    beBytes 48 0xedda83773ac68735768d14a24f37a57ce9bedbc170921ce4d89dd051728fc3eb4b4ea69ab64fc288f1b29502b6e1d30)
def enrolSign : Nat :=
  0x2a63697620cbdc1ebc41cb3c41d17eb3fa5fcf5e0c5daf041a840b11cdf5a46a8f07afa32c9ef48de9affebba45c63a4
def signers : List (Nat × Nat) :=
  [(0x89ecde19faf92f94fbb54f1323fdf0fa04b68e17c96fb18290a4f280c5920e1cfc04f15368aac038920ee50d41e3b9a2,
    0x383ebe8e70958635639b20e93217a1b0faf6ee12c5755c5b27731fb7ebef011cf08f614526958635819f0da8d4b7ea3f),
   (0x1ad59d577c70efe370cd83af1877c65f4b7e3a97c988f027a0487f8693301f6e5331078237c14c62f2f5fd861646f1df,
    0x69953abacf4ae561093f45f46a181bbdfee9d046118524bc1e08dd5078806f93d01bf03dd86dd730b0dcb99148dbe37b)]
def signer (k : Nat) : Nat × Nat := signers.getD k (0, 0)
theorem enrol_verifies (k : Nat) (hk : k = 0 ∨ k = 1) : signatureValid (signer k) enrolled enrolSign enrolSign = true ∧
    pointOf (ownKey (signer k)) = signer k := by
  rcases hk with rfl | rfl <;> decide +kernel
theorem signers_differ : keyId (signer 0) ≠ keyId (signer 1) := by decide +kernel
theorem witness_KeysAreEnrolled :
    onCurve 0x2282bc382a2f4dfcb95c3495d7b4fd590ad520b3eb6be4d6ec2f80c4e0f70df87c4ba74a09b553ebb427b58df9d59fca
      0xedda83773ac68735768d14a24f37a57ce9bedbc170921ce4d89dd051728fc3eb4b4ea69ab64fc288f1b29502b6e1d30 = true ∧
    ∃ j, (owning (signer j)).ready = true ∧ (owning (signer j)).foreman.ownerKeys.length < 16 ∧
      ∃ k, (owning (signer j)).keyOf (keyId (signer j)) = some k ∧ signatureValid k enrolled enrolSign enrolSign = true := by
  refine ⟨by decide +kernel, ?_⟩
  rcases one_of_two _ _ signers_differ with h | h
  · obtain ⟨h1, h2⟩ := enrol_verifies 0 (.inl rfl)
    exact ⟨0, by decide, by decide, _, key_found _ _ h2 rfl h, h1⟩
  · obtain ⟨h1, h2⟩ := enrol_verifies 1 (.inr rfl)
    exact ⟨1, by decide, by decide, _, key_found _ _ h2 rfl h, h1⟩

theorem witness_HostAccesses :
    (let s : State := { State.reset with link := { State.reset.link with up := false } }
     s.link.up = false) ∧
    State.reset.link.up = true ∧ (∃ p ∈ pieces (2 ^ 40) 4, State.reset.reserved p.1 = true) ∧
    (∃ p ∈ pieces 0x400000000000 4, inFlash p.1 = true) ∧
    (∃ p ∈ pieces 0x2000 4, State.unreadable { State.reset with badLines := [0x40] } p.1 = true) ∧
    (∃ p ∈ pieces (2 ^ 40) 4, inHole p.1 = true) ∧
    (∀ p ∈ pieces 0x5400000000 4, inHole p.1 = false ∧ State.reset.unreadable p.1 = false) ∧
    State.reset.inStaging 0x5400000000 = true ∧
    ∀ p ∈ pieces 0x2000 4, State.reset.reserved p.1 = false ∧ inFlash p.1 = false ∧ State.reset.unreadable p.1 = false := by
  decide +kernel

/-- The check value of CRC-32C, of the nine digits' bytes, as it is published. -/
theorem test_crc : crc32c [0x31, 0x32, 0x33, 0x34, 0x35, 0x36, 0x37, 0x38, 0x39] = 0xE3069283 := by decide +kernel

/-- Flits of the sequence numbers 0 and 4000, with their checks. -/
def checked (bs : List Byte) : List Byte := bs ++ leBytes 4 (crc32c bs).toNat
def flitOf (n : Nat) : List Byte := checked (leBytes 2 n ++ List.replicate 250 0)
theorem leNat_four (v : Nat) (h : v < 2 ^ 32) : leNat (leBytes 4 v) = v := by
  simp [leBytes, leNat, BitVec.toNat_ofNat]
  omega
theorem checked_good (a : Nat) (h : a < 4096) (r : List Byte) (hr : r.length = 250) :
    flitGood (checked (leBytes 2 a ++ r)) = true ∧ field (checked (leBytes 2 a ++ r)) 0 2 = a := by
  have hb : (leBytes 2 a ++ r).length = 252 := by simp [leBytes, hr]
  have h4 : field (checked (leBytes 2 a ++ r)) 0 2 = a := by
    simp [checked, field, leBytes, leNat, BitVec.toNat_ofNat]
    omega
  refine ⟨?_, h4⟩
  generalize leBytes 2 a ++ r = bs at *
  have h1 : (checked bs).take 252 = bs := by simp [checked, hb]
  have h2 : field (checked bs) 252 4 = (crc32c bs).toNat := by
    rw [field, show (checked bs).drop 252 = leBytes 4 (crc32c bs).toNat by simp [checked, hb]]
    exact leNat_four _ (crc32c bs).isLt
  have h3 : (checked bs).length = 256 := by simp [checked, hb, leBytes]
  simp [flitGood, h1, h2, h3, h4, h]
theorem flitOf_good (n : Nat) (h : n < 4096) : flitGood (flitOf n) = true ∧ field (flitOf n) 0 2 = n :=
  checked_good n h _ List.length_replicate
theorem witness_FlitsAreReplayed : State.reset.link.up = true ∧ (flitGood (flitOf 0) = true ∧ field (flitOf 0) 0 2 = State.reset.link.expected) ∧
    (field (flitOf 0) 0 2 ≠ 5 ∧ (5 + 4096 - field (flitOf 0) 0 2) % 4096 ≤ 2048) ∧
    (flitGood (flitOf 4000) = true ∧ field (flitOf 4000) 0 2 ≠ 3000 ∧ 2048 < (3000 + 4096 - field (flitOf 4000) 0 2) % 4096) ∧
    flitGood [] = false ∧ State.reset.link.asked < 8 ∧ (∀ r ∈ State.reset.link.replays, r.2 < 8) ∧
    (∃ r ∈ ([(0, 9)] : Store Nat), 9 ≤ r.2) ∧ (∀ r ∈ ([(1, 8)] : Store Nat), r.2 ≤ 8) ∧
    Store.at ([(1, 8)] : Store Nat) 1 0 = 8 ∧ ({ State.reset.link with asked := 9 } : Link).asked = 9 ∧
    (let s : State := { State.reset with outbox := List.replicate 3 .linkDown }
     s.flitsSent ≤ 1 + 512 ∧ 1 < s.flitsSent) := by
  rw [(flitOf_good 0 (by decide)).2, (flitOf_good 4000 (by decide)).2, (flitOf_good 0 (by decide)).1,
    (flitOf_good 4000 (by decide)).1]
  decide +kernel

/-- A bytes request of a send queue or a window: number, address space 0, three words. -/
def registers (n a b c : Nat) : List Byte := leBytes 2 n ++ leBytes 2 0 ++ leBytes 4 0 ++ leBytes 8 a ++ leBytes 8 b ++ leBytes 8 c
/-- The tables of `passing`, and a foreman that is ready. -/
def enlisting : State := { passing 0 [] with foreman := { ready1 with spaces := [(0, 0x10000)] } }
theorem witness_EndpointsAreRegistered : enlisting.ready = true ∧
    (let bs := registers 1 0x100000 0x200000 0x200008
     field bs 0 1 < 64 ∧ enlisting.transport.queues.lookup (field bs 0 1) = none ∧
       enlisting.foreman.spaces.lookup (field bs 2 2) ≠ none ∧
       (enlisting.pagesOf 0 (BitVec.ofNat 64 (field bs 8 8)) 16384 .write).isSome = true ∧
       (enlisting.wordAt 0 (BitVec.ofNat 64 (field bs 16 8))).isSome = true ∧
       (enlisting.wordAt 0 (BitVec.ofNat 64 (field bs 24 8))).isSome = true) ∧
    (let bs := registers 1 0x100000 4096 0x200008
     enlisting.transport.windows.lookup (field bs 0 1) = none ∧ field bs 16 8 ≠ 0 ∧
       (enlisting.pagesOf 0 (BitVec.ofNat 64 (field bs 8 8)) (field bs 16 8) .write).isSome = true ∧
       (enlisting.wordAt 0 (BitVec.ofNat 64 (field bs 24 8))).isSome = true) ∧
    (enlisting.peerObjects 0x300000 0x300080).isSome = true ∧ enlisting.peerObjects 0x300000 0x300000 = none ∧
    enlisting.transport.peers.lookup 3 = none := by
  refine ⟨by decide, ?_, ?_, by decide +kernel, by decide +kernel, by decide⟩ <;> decide +kernel

/-- Peer 3, a send queue with one descriptor posted, a packet on its way, and a receive window. -/
def peer3 : Peer := { key := [], port := 0, credit := false, roundTrip := 0x300000, marks := 0x300080 }
def sending1 : Sending :=
  { index := 0, va := 0x100000, source := [0x200000], start := 0, length := 8, peer := 3, window := 1, mode := 0, offset := 0,
    counter := 0, status := none }
def descriptor (va n mode : Nat) : List Byte := leBytes 8 va ++ leBytes 4 n ++ leBytes 2 3 ++ leBytes 1 1 ++ leBytes 1 mode ++ leBytes 8 0
def connected (d : List Byte) (posted : Nat) : State :=
  { enlisting with
    mem := ((enlisting.mem.writeBytes 0x100000 d).writeBytes 0x110000 (leBytes 8 posted)),
    transport := {
      peers := [(3, peer3)],
      queues := [(1, { slots := 0x100000, post := 0x110000, done := 0x110008, space := 0, taken := 0, sending := [sending1] })],
      windows := [(1, { base := 0x120000, length := 4096, space := 0, counter := 0x110010 })],
      packets := [(9, { queue := 1, index := 0, first := 0, size := 8, again := false })],
      messages := [], flows := [], discarded := 0 } }

theorem witness_PacketsAreSent :
    (enlisting.transport.queues.lookup 1 = none) ∧
    ((connected [] 0).transport.queues.lookup 1).isSome = true ∧
    (∃ x, (connected [] 0).transport.queues.lookup 1 = some x ∧ (connected [] 0).wordAt x.space x.post = some 0x110000 ∧
      ((connected [] 0).l2Read 0x110000 8).1.pagesOf x.space (x.slots + BitVec.ofNat 64 (64 * (x.taken % 256))) 64 .read =
        some [0x100000]) ∧
    leNat ((connected [] 0).l2Read 0x110000 8).2 ≤ 0 ∧ 0 < leNat ((connected [] 1).l2Read 0x110000 8).2 ∧
    (let d (va n mode : Nat) := connected (descriptor va n mode) 1
     let two (s : State) : State := ((s.l2Read 0x110000 8).1.readPages [0x100000] 0 64).1
     let bytes (s : State) : List Byte := ((s.l2Read 0x110000 8).1.readPages [0x100000] 0 64).2
     descriptorBad (two (d 0x200000 8 3)) 0 (bytes (d 0x200000 8 3)) = true ∧
     descriptorBad (two (d 0x200000 8 0)) 0 (bytes (d 0x200000 8 0)) = false ∧
     ((two (d 0x200000 8 0)).pagesOf 0 (BitVec.ofNat 64 (field (bytes (d 0x200000 8 0)) 0 8)) 8 .read).isSome = true ∧
     descriptorBad (two (d 0x80000000 8 0)) 0 (bytes (d 0x80000000 8 0)) = false ∧
     (two (d 0x80000000 8 0)).pagesOf 0 (BitVec.ofNat 64 (field (bytes (d 0x80000000 8 0)) 0 8)) 8 .read = none) ∧
    (connected [] 0).onItsWay 7 = none ∧
    (∃ p, (connected [] 0).onItsWay 9 = some (p, sending1) ∧ (connected [] 0).transport.peers.lookup sending1.peer = some peer3 ∧
      (connected [] 0).transport.queues.lookup p.queue ≠ none) ∧
    descriptorAt (connected [] 0) 1 0 ≠ none ∧
    (∃ p ∈ (connected [] 0).transport.packets, p.2.queue = 1 ∧ p.2.index = 0) ∧
    (∃ x, (connected [] 0).transport.queues = [(1, x)] ∧ x.sending = [sending1] ∧ sending1.status = none) := by
  refine ⟨by decide, by decide, ⟨_, rfl, ?_, ?_⟩, ?_, ?_, ⟨?_, ?_, ?_, ?_, ?_⟩, by decide,
    ⟨_, rfl, rfl, by decide⟩, by decide, by decide, ⟨_, rfl, rfl, rfl⟩⟩ <;> decide +kernel

def arrival (b : Bool) (first : Nat) (flow : Option (Nat × Nat)) : Arrival :=
  { peer := 3, message := 0, window := 1, offset := 0, length := 8, mode := 0, flow := flow, first := first, bytes := [1, 2, 3, 4],
    authentic := b, trimmed := false }
theorem witness_PacketsAreReceived : ¬ ((arrival false 0 none).authentic = true) ∧ (arrival true 0 none).authentic = true ∧
    (connected [] 0).transport.peers.lookup 3 ≠ none ∧
    (∃ f n, (arrival true 0 (some (5, 1))).flow = some (f, n) ∧
      (connected [] 0).transport.flows.at (3 * 2 ^ 32 + f % 2 ^ 32) 0 ≠ n) ∧
    (∃ f n, (arrival true 0 (some (5, 0))).flow = some (f, n) ∧
      (connected [] 0).transport.flows.at (3 * 2 ^ 32 + f % 2 ^ 32) 0 = n) ∧
    (∃ w, (connected [] 0).transport.windows.lookup 1 = some w ∧ 0 + 4 + (arrival true 4 none).bytes.length ≤ w.length ∧
      w.length < 4096 + (arrival true 0 none).first + (arrival true 0 none).bytes.length) ∧
    (arrival true 4 none).first + (arrival true 4 none).bytes.length ≤ (arrival true 4 none).length ∧
    (arrival true 5 none).length < (arrival true 5 none).first + (arrival true 5 none).bytes.length ∧
    (connected [] 0).transport.messages.lookup (3 * 2 ^ 32) = none :=
  ⟨by decide, by decide, by decide, ⟨_, _, rfl, by decide⟩, ⟨_, _, rfl, by decide⟩, ⟨_, rfl, by decide, by decide⟩, by decide,
    by decide, by decide⟩

/-- A packet behind its flow, and a window none of whose pages translates. -/
def unplaced : State := { connected [] 0 with
  transport := { (connected [] 0).transport with
    windows := [(1, { base := 0x80000000, length := 4096, space := 0, counter := 0x110010 })]
    flows := [(3 * 2 ^ 32 + 5, 2)] } }
theorem witness_PacketsGoUnplaced : 1 < unplaced.transport.flows.at (3 * 2 ^ 32 + 5 % 2 ^ 32) 0 ∧
    unplaced.transport.flows.at (3 * 2 ^ 32 + 5 % 2 ^ 32) 0 < 3 ∧
    (unplaced.writeEngine 0 0x80000000 (arrival true 0 none).bytes).2 = [] ∧
    ∃ b, (0 ≤ b ∧ b < 0 + (arrival true 0 none).bytes.length) ∧
      ¬ ∃ r ∈ ([] : List (Nat × Nat)), r.1 ≤ b ∧ b < r.1 + r.2 :=
  ⟨by decide, by decide, by decide +kernel, 0, by decide, by simp⟩

theorem witness_ResetBringsUp : usableAfter [] 4 ∧
    (∀ n < 384, (1, Part.column n) ∈ (List.range 384).map fun n => (1, Part.column n)) ∧
    (taking 0).foreman.stage ≠ 0 ∧ State.reset.foreman.stage = 0 ∧ inHost 0 = false :=
  ⟨⟨⟨0, by decide, by simp⟩, 0, by decide, by simp⟩,
    fun n h => List.mem_map.mpr ⟨n, List.mem_range.mpr h, rfl⟩, by decide, by decide, by decide⟩

/-- A column, a slice and a bank with the events of their thresholds; slice 4 is out of service. -/
def faulting (u : Part) (n : Nat) : State := { State.reset with foreman := { Foreman.initial with events := List.replicate n (u, 0) } }
theorem witness_UnitsLeaveService : faultThreshold (.memoryStack 0) = none ∧
    (∃ n, faultThreshold (.column 0) = some n ∧ 0 < n) ∧
    (let recent (s : State) := s.foreman.events.filter fun e => decide (s.time < e.2 + 104857600)
     64 ≤ (recent (faulting (.column 0) 64)).countP (fun e => e.1 = .column 0) ∧
     256 ≤ (recent (faulting (.slice 4) 256)).countP (fun e => e.1 = .slice 4) ∧
     32 ≤ (recent (faulting (.bank 7) 32)).countP (fun e => e.1 = .bank 7) ∧
     16 ≤ (recent (faulting (.eraseBlock 1 9) 16)).countP (fun e => e.1 = .eraseBlock 1 9)) ∧
    (0 ∉ State.reset.columnsOut ∧ 4 ∉ State.reset.slicesOut ∧ 4 ^^^ 1 ∉ State.reset.slicesOut ∧ 7 ∉ State.reset.banksOut ∧
      9 ∉ (State.reset.flash.at 1 Flash.initial).retired ∧ ∀ t ∈ State.reset.teams, t.2.core ≠ 0) ∧
    (let s : State := { State.reset with slicesOut := [4] }
     4 ∈ s.slicesOut ∧ 4 ∉ s.remapped ∧ 4 ^^^ 1 ∉ s.slicesOut ∧ (∀ c ∈ s.clusters, c.2.resident = false) ∧
       (s.windows.filter fun w => decide (s.home w.1 = 4)) = []) := by
  refine ⟨by decide, ⟨64, by decide, by decide⟩, ⟨?_, ?_, ?_, ?_⟩, by decide, by decide⟩ <;> decide +kernel

/-- The sensors of columns 0, 1 and 12. -/
def sensor (r : Int) (strikes hot : Nat) : Sensor := { reading := r, strikes := strikes, failed := false, hot := hot }
def sensing (strikes hot : Nat) : State := { State.reset with
  foreman := { Foreman.initial with sensors := [(0, sensor 80 strikes hot), (1, sensor 80 0 0), (12, sensor 81 0 0)] } }
theorem witness_LevelsFollowSensors : (∃ x, (sensing 2 10).foreman.sensors.lookup 0 = some x ∧ x.failed = false ∧ x.strikes < 3 ∧
      10 ≤ x.hot) ∧ (sensing 2 10).foreman.raiseEnd = none ∧
    (∃ m, median2 ((sensing 2 10).neighbourReadings 0) = some m ∧ 24 < 2 * (93 : Int) - m) ∧
    (∃ m, median2 ((sensing 2 10).neighbourReadings 0) = some m ∧ ¬ (24 < 2 * (92 : Int) - m ∨ 2 * (92 : Int) - m < -24)) ∧
    (∃ x, (sensing 3 9).foreman.sensors.lookup 0 = some x ∧ 3 ≤ x.strikes ∧ x.hot < 10) ∧
    (let s : State := { State.reset with cores := [(0, { Core.initial with swallowNext := some 3 })] }
     s.cycles % 16 = 0 ∧ (s.core 0).swallowNext = some 3) ∧ (State.reset.core 0).swallowNext = none ∧
    (0 ∉ (sensing 2 10).columnsOut ∧ ∀ t ∈ (sensing 2 10).teams, t.2.core ≠ 0) ∧
    (let s (c : Nat) : State := { State.reset with cycles := c, foreman := { Foreman.initial with raiseEnd := some 2 } }
     (s 0).time < 2 ∧ 2 ≤ (s 17).time) := by
  refine ⟨⟨_, rfl, by decide, by decide, by decide⟩, rfl, ⟨161, by decide, by decide⟩, ⟨161, by decide, by decide⟩,
    ⟨_, rfl, by decide, by decide⟩, ⟨by decide, by decide⟩, by decide, by decide, by decide, by decide⟩

/-! ### Witnesses: wrapping, repeats, return stacks, ranges -/

/-- The other instructions that wrap (R70). -/
theorem witness_OthersWrap : (Instr.mad (xa .s32 (vd 4) (.v 5) (.v 6) (.v 7))).wellFormed = true ∧
    (Instr.sad (xa .s32 (vd 4) (.v 5) (.v 6) (.v 7))).wellFormed = true ∧
    (Instr.abs (xa .s32 (vd 4) (.v 5) (.v 0))).wellFormed = true ∧
    (Instr.neg (xa .s32 (vd 4) (.v 5) (.v 0))).wellFormed = true ∧
    (Instr.umad (xa .n64 (ud 4) (.g 5) (.g 6) (.g 7))).wellFormed = true ∧
    (Instr.madw (xa .s32 (vd 4) (.v 5) (.v 6) (.v 8))).wellFormed = true ∧
    (Instr.lea (xa .n64 (vd 4) (.v 6) (.v 8) (q := 3))).wellFormed = true ∧
    (xa .s32 (vd 4) (.v 5) (.v 6) (.v 7)).q.getLsbD 0 = false ∧ (solo id).issuing .always = some (here id) := by
  refine ⟨?_, ?_, ?_, ?_, ?_, ?_, ?_, ?_, rfl⟩ <;> decide

theorem witness_RepWaits : (∃ va, ({ solo id with cores := [] } : State).follower (here id) = .missing va) ∧
    ∀ va, (behind [0x04, 0x3C, 0, 0, 0, 0, 0, 0, 0, 0, 0, 0]).follower (here id) ≠ .missing va := by
  refine ⟨⟨_, rfl⟩, fun va => ?_⟩
  have h : (behind [0x04, 0x3C, 0, 0, 0, 0, 0, 0, 0, 0, 0, 0]).follower (here id) = .instr (.nop .always) 1 := by rfl
  rw [h]
  exact fun e => Here.noConfusion e

/-- A lane whose private words begin at 0x2000: its hardware stack is full, or empty with one entry spilled. -/
def spilling (g : Group) : Group := { full 2 g with pbase := 0x2000 }
def refilling (g : Group) : Group := { g with spilled := [(0, 1)], pbase := 0x2000, plimit := 2 }

theorem stack_allowed (g : Group → Group) (acc : Access) (ls : List Nat) (depth : Nat → Nat)
    (h : (g = spilling ∧ acc = .write ∧ ls = spillLanes (here spilling) ∧ depth = (here spilling).grp.spilledOf) ∨
      (g = refilling ∧ acc = .readOwn ∧ ls = refillLanes (here refilling) ∧
        depth = fun l => (here refilling).grp.spilledOf l - 1)) :
    StackAllowed (mapped g) (here g) acc ls depth address fun _ => false := by
  rcases h with ⟨rfl, rfl, rfl, rfl⟩ | ⟨rfl, rfl, rfl, rfl⟩ <;> intro l hl va hva
  · have : spillLanes (here spilling) = [0] := by decide
    rw [this] at hl
    obtain rfl := List.mem_singleton.mp hl
    have : spillWords (here spilling) 0 ((here spilling).grp.spilledOf 0) = [0x2000, 0x2020] := by decide
    rw [this] at hva
    simp only [List.mem_cons, List.not_mem_nil, or_false] at hva
    rcases hva with rfl | rfl <;> exact ⟨by decide, _, _, rfl, rfl⟩
  · have : refillLanes (here refilling) = [0] := by decide
    rw [this] at hl
    obtain rfl := List.mem_singleton.mp hl
    have : spillWords (here refilling) 0 ((here refilling).grp.spilledOf 0 - 1) = [0x2000, 0x2020] := by decide
    rw [this] at hva
    simp only [List.mem_cons, List.not_mem_nil, or_false] at hva
    rcases hva with rfl | rfl <;> exact ⟨by decide, _, _, rfl, rfl⟩

theorem witness_FullCallsStore : ∃ r, calls (.call jump) = some r ∧
    (mapped spilling).issuing r.ext.g = some (here spilling) ∧ (here spilling).stands entry1 ∧
    takesIndirect (.call jump) = false ∧ spillLanes (here spilling) = [0] ∧
    (∀ l ∈ spillLanes (here spilling), 2 * (here spilling).grp.spilledOf l + 2 ≤ (here spilling).grp.plimit.toNat) ∧
    StackAllowed (mapped spilling) (here spilling) .write (spillLanes (here spilling)) (here spilling).grp.spilledOf address
      (fun _ => false) ∧ SpillReadable (mapped spilling) (here spilling) address fun _ => false :=
  ⟨_, rfl, rfl, rfl, rfl, by decide, by decide, stack_allowed _ _ _ _ (.inl ⟨rfl, rfl, rfl, rfl⟩),
    by unfold SpillReadable; decide +kernel⟩

theorem witness_ReturnsRefill : (mapped refilling).issuing .always = some (here refilling) ∧
    (here refilling).stands entry1 ∧ quiet (here refilling).grp ∧ refillLanes (here refilling) = [0] ∧
    StackAllowed (mapped refilling) (here refilling) .readOwn (refillLanes (here refilling))
      (fun l => (here refilling).grp.spilledOf l - 1) address (fun _ => false) ∧
    RefillReadable (mapped refilling) (here refilling) address fun _ => false :=
  ⟨rfl, rfl, ⟨rfl, rfl⟩, by decide, stack_allowed _ _ _ _ (.inr ⟨rfl, rfl, rfl, rfl⟩), by unfold RefillReadable; decide +kernel⟩

/-- R42 by hand: the ninth call stores the oldest return address to private words 0 and 1 of its lane, at 0x2000 and 0x2020. -/
theorem test_call_spills : (match exec (.call jump) (mapped spilling) with
    | .next t => ((t.coreRead 0 0x2000 4 false).2, (t.groups.lookup 0).map fun g => (g.spilledOf 0, (g.stackOf 0).length))
    | _ => ([], none)) = ([0x40, 0, 0, 0], some (1, 8)) := by decide +kernel

/-- What trap return finds: an instruction that was repeating, a follower's trap, a handler's other kinds. -/
def wait1 : MemberWait :=
  { pc := 0x0F00, next := 0x0F0C, instr := .nop .always, repeating := true, mask := 3, arrived := 1, active := 1, prio := 100,
    seen := [] }
def returning (r : Resume) (f : Nat) (g : Group) : Group :=
  { g with trap := some { front := { entries := [], parked := [parked2], pool := [], waits := [wait1] }, rep := 0x0041,
                          followers := f, resume := r } }
where parked2 : Parked := { lane := 1, rejoin := 0x1010, prio := 0, mask := 3, origin := 0x1000 }
theorem witness_TrapReturnsOtherwise (r : Resume) (f : Nat) : ∃ t, (here (returning r f)).grp.trap = some t ∧
    (here (returning r f)).grp.front.pool = [] ∧ (here (returning r f)).active ≠ 0 ∧ t.resume = r ∧ t.followers = f ∧
    (r = .stuck → letsGo t wait1 = true ∧ wasRepeated t) ∧ (r = .member 2 0x0F00 0x0F0C → letsGo t wait1 = true) ∧
    (r = .unchanged → ¬ wasRepeated t) := by
  refine ⟨_, rfl, rfl, (by decide : (1 : LaneMask) ≠ 0), rfl, rfl, ?_, ?_, ?_⟩
  · rintro rfl; exact ⟨rfl, wait1, List.mem_singleton.mpr rfl, rfl⟩
  · rintro rfl; rfl
  · rintro rfl; exact id

theorem witness_RangesNameLines : rangePieces 0x2000 4 = [(0x2000, 128)] ∧
    (∀ p ∈ rangePieces 0x2000 4, canonical (BitVec.ofNat 64 p.1) = true ∧
      ∃ t, ((mapped id).core 0).leafOf 0 (BitVec.ofNat 64 p.1).toNat = some t ∧
        ∃ st bc, (mapped id).classify t.size t.entry (BitVec.ofNat 64 p.1).toNat .read = .ok 0x2000 st bc) ∧
    foundLost ((mapped id).rangeFound 0 0 0x2000 4).2 = none := by
  have h : rangePieces 0x2000 4 = [(0x2000, 128)] := by decide
  refine ⟨h, fun p hp => ?_, by decide +kernel⟩
  rw [h] at hp
  obtain rfl := List.mem_singleton.mp hp
  exact ⟨by decide, _, rfl, _, _, rfl⟩

/-- The first byte of the line at 0x2000 is written in L1; the column cache and the home hold the line. -/
def super1 (d : BitVec 128) : Super := { tag := 16, way := 0, lines := [(0, { line1 with dirty := d })] }
def written (host : Bool) : State :=
  { mapped reads with
    cores := [(0, { core1 with l1 := [super1 1], column := [super1 0] })]
    slices := [(State.reset.home 0x2000, { Slice.initial with supers := [super1 (if host then 2 else 0)] })] }
theorem written_slice (b : Bool) (n : Nat) : ((written b).slice n).supers =
    if n = State.reset.home 0x2000 then [super1 (if b then 2 else 0)] else [] := by
  unfold State.slice Store.at written
  by_cases h : n = State.reset.home 0x2000
  · simp [List.lookup, h]
  · simp [List.lookup, h, beq_false_of_ne h, Slice.initial]
theorem super1_tidy (d : BitVec 128) : Tidy [super1 d] := by
  simp [Tidy, super1, line1]
theorem witness_WrittenBytes (b : Bool) : TidyCaches (written b) 0 ∧ HomesHold (written b) 0 ∧
    writtenBy (written b) 0 0x2000 = some 5 ∧ writtenIn ((written true).slice (State.reset.home 0x2000)).supers 0x2001 = some 5 ∧
    (written b).covers 9 0 0x2000 = true ∧
    ∀ q ∈ dirtyLines ((written b).core 0).l1, inHost q.1 = false ∧
      ∃ l, findLine ((written b).core 0).column q.1 = some l ∧ l.full = true ∧ (l.stable = true ∨ l.stamp = ((written b).core 0).stamp) := by
  have hd : dirtyLines ((written b).core 0).l1 ++ dirtyLines ((written b).core 0).column = [(0x2000, { line1 with dirty := 1 })] := by
    cases b <;> decide +kernel
  refine ⟨⟨super1_tidy 1, super1_tidy 0, fun n => ?_, fun n x hx => ?_, ?_⟩, fun p hp => ?_, by cases b <;> decide +kernel,
    by decide +kernel, by cases b <;> decide +kernel, fun q hq => ?_⟩
  · rw [written_slice]
    split
    · exact super1_tidy _
    · simp [Tidy]
  · rw [written_slice] at hx
    split at hx
    · obtain rfl := List.mem_singleton.mp hx
      subst n
      cases b <;> decide +kernel
    · exact absurd hx (List.not_mem_nil)
  · exact (mapped_canonical reads).mem
  · rw [hd] at hp
    obtain rfl := List.mem_singleton.mp hp
    exact ⟨{ line1 with dirty := if b then 2 else 0 }, by cases b <;> decide +kernel, rfl⟩
  · have : q ∈ dirtyLines ((written b).core 0).l1 ++ dirtyLines ((written b).core 0).column := List.mem_append_left _ hq
    rw [hd] at this
    obtain rfl := List.mem_singleton.mp this
    exact ⟨by decide, { line1 with dirty := 0 }, by cases b <;> decide +kernel, rfl, Or.inr (by cases b <;> decide +kernel)⟩

/-- R115 by hand: a release at `.dev` brings the byte to the home, one at `.mem` to the bank arrays. -/
theorem test_release_places : writtenIn (((written false).releaseAt 0 4 0 fun _ => true).slice (State.reset.home 0x2000)).supers 0x2000 =
      some 5 ∧ ((written false).releaseAt 0 9 0 fun _ => true).mem.read 0x2000 = 5 := by decide +kernel

/-- A dirty line of host memory in the core's L1, at the address in v6, while the link is down. -/
def hostDirty (up : Bool) : State :=
  { solo reads with
    link := { State.reset.link with up := up }
    cores := [(0, { Core.initial with
      tlb := [{ space := 0, base := 0, size := 30, entry := 0x800000000007 }]
      l1 := [{ tag := 0x800000002000 / 512, way := 0, lines := [(0, { line1 with dirty := 1 })] }] })] }
def cleanX : XM := xm .s8 (vd 0) (.v 6) (.v 0) (sl := 3)
theorem witness_HostMaintenance (up : Bool) : (hostDirty up).issuing .always = some (here reads) ∧
    maintains (.clean cleanX) = some (true, false, cleanX) ∧ cleanX.ranged = false ∧ (here reads).active ≠ 0 ∧
    (∀ l, (here reads).active.getLsbD l = true → canonical ((here reads).address cleanX l) = true) ∧
    (let f := maintained (hostDirty up) (here reads) cleanX
     (∀ p ∈ f.2, foundLost p.2 = none) ∧ f.1.link.up = up ∧ 3 ≤ cleanX.sl.toNat ∧
       ∃ xs va, f.2 = [(1, xs)] ∧ FirstSent (sendsHost f.1 0 true) xs va) := by
  have sent (u : Bool) : ∃ xs va, (maintained (hostDirty u) (here reads) cleanX).2 = [(1, xs)] ∧
      FirstSent (sendsHost (maintained (hostDirty u) (here reads) cleanX).1 0 true) xs va := by
    refine ⟨[((0x2000, 128), .ok 0x800000002000 false false)], 0x2000, by cases u <;> decide +kernel, [],
      ((0x2000, 128), .ok 0x800000002000 false false), [], 0x800000002000, 0x800000002000, false, false, rfl, by simp,
      ⟨_, _, _, rfl, le_rfl, by decide, by decide, .inr ⟨rfl, by cases u <;> decide +kernel⟩⟩, ?_, rfl, by decide⟩
    rintro b ⟨pa, st, bc, h, hb, -, -⟩
    cases h
    exact hb
  cases up <;> exact ⟨rfl, rfl, rfl, by decide, fun l h => by rw [lane_zero h]; decide, by decide +kernel, by decide +kernel,
    by decide, sent _⟩

/-! ### Witnesses: permits of calls, commands ahead, lookups -/

/-- A `fill` of seventeen rows, whose group holds an explicit permit, granted or not, or none. -/
def longFill : DWord := 4 + 16 * 2 ^ 13
def permit3 (g : Bool) : Permit := { ticket := 3, group := some 0, explicit := true, granted := g, held := true, users := [] }
def longCalling (ps : List Permit) : State :=
  { calling (asks longFill 1) with
    cores := [(0, { Core.initial with tlb := [{ space := 0, base := 0, size := 30, entry := 0x27 }], permits := ps })] }
theorem witness_LongCallsWaitForAPermit (ps : List Permit) : (longCalling ps).issuing .always = some (here (asks longFill 1)) ∧
    cmdBad ((here (asks longFill 1)).uni callX.b) = false ∧
    (∀ l, (here (asks longFill 1)).active.getLsbD l = true → CallAllowed (longCalling ps) (here (asks longFill 1)) callX
      ((here (asks longFill 1)).uni callX.b) (fun _ _ => 0x2000) l) ∧
    ((here (asks longFill 1)).uni callX.b).toNat % 16 < 8 ∧ 16 < commandRows ((here (asks longFill 1)).uni callX.b) ∧
    (ps = [] ∨ ps = [permit3 false] →
      ∀ p ∈ ((longCalling ps).core 0).permits, p.group = some 0 → p.held = true → p.granted = false) ∧
    (ps = [permit3 true] → CallPermit (longCalling ps) (here (asks longFill 1)) ((here (asks longFill 1)).uni callX.b) (some 3)) := by
  refine ⟨rfl, by decide, fun l h => ?_, by decide, by decide, ?_, ?_⟩
  · rw [lane_zero h]
    refine ⟨by decide, by decide, fun o ho => ?_⟩
    obtain rfl := List.mem_singleton.mp ho
    exact ⟨by decide +kernel, by decide, by decide, { space := 0, base := 0, size := 30, entry := 0x27 }, false, true, rfl, by
      show State.classify (longCalling []) 30 0x27 0x2000 .write = _
      decide +kernel, fun _ => ⟨rfl, rfl⟩, fun _ => rfl, fun _ _ => ⟨by decide +kernel, by decide +kernel⟩⟩
  · rintro (rfl | rfl) <;> decide
  · rintro rfl
    unfold CallPermit
    rw [if_neg (by decide)]
    exact ⟨permit3 true, rfl, rfl, .inl rfl⟩

/-- Nothing ahead of the command; and the same command sent earlier to another bank, over the same bytes. -/
theorem witness_MayBegin (w : DWord) : MayBegin (executing w) (busy w) (call1 w) ∧
    ¬ MayBegin { executing w with executors := [(7, busy w), (8, { Engine.initial with queue := [{ call1 w with ticket := 4 }] })] }
      (busy w) (call1 w) := by
  refine ⟨.inr fun d hd => ?_, ?_⟩
  · obtain ⟨-, ht, hd | ⟨p, hp, hd⟩⟩ := hd
    · exact absurd hd List.not_mem_nil
    · obtain rfl : p = (7, busy w) := List.mem_singleton.mp hp
      obtain rfl := List.mem_singleton.mp hd
      exact absurd ht (Nat.lt_irrefl _)
  · rintro (h | h)
    · cases h
    · refine h { call1 w with ticket := 4 } ⟨rfl, (by decide : 4 < 5), .inr ⟨_, List.mem_cons_of_mem _ List.mem_cons_self,
        List.mem_cons_self⟩⟩ (.inr (.inr ⟨0x100, ?_, ?_⟩)) <;> exact .inr (.inr ⟨0x100, rfl, by decide, by decide⟩)

/-- The lane whose reply comes is the last one named. -/
theorem witness_LastReply : let g : Group := { pooled group1 with live := 2 }
    (∃ p, (g.front.pool.find? fun p => p.ticket = 5) = some p ∧ p.lane < 64 ∧
      ∀ l < g.width, p.mask.getLsbD l = true → g.live.getLsbD l = true → l = p.lane) ∧ quiet g :=
  ⟨⟨_, rfl, by decide, by decide⟩, rfl, rfl⟩

/-- A bank whose executor has performed four adds since its last step. -/
theorem witness_AddsWaitForSteps : let e : Engine := { busy 4 with running := true, served := 4 }
    ({ executing 4 with executors := [(7, e)] } : State).executors.at 7 Engine.initial = e ∧ e.running = true ∧
      4 ≤ e.served ∧ (busy 4).running = false := ⟨rfl, rfl, by decide, rfl⟩

/-- A lookup of one element of one row: the index at 0x6000, the table at 0x7000, the output at 0x8000. -/
def lookupRecord (index : Nat) (output : Nat) : List Byte :=
  leBytes 8 index ++ leBytes 4 1 ++ leBytes 2 1 ++ [0, 0] ++ leBytes 8 0x7000 ++ leBytes 8 0 ++ leBytes 8 output ++
    leBytes 4 1 ++ leBytes 20 0
def looking (bad : List Nat) : State :=
  { solo id with mem := tables, foreman := { Foreman.initial with spaces := [(0, 0x10000)] }, badLines := bad }
theorem reads_word (s : State) (va : DWord) (pa : Nat) (w : Word) (hp : (s.translateBare 0 va .read).2 = .ok pa false false)
    (hd : inDram pa = true) (hb : (s.translateBare 0 va .read).1.badRead pa 4 = false)
    (hw : wordAt (s.translateBare 0 va .read).1.mem pa = w) : ReadsWord 0 s va (s.translateBare 0 va .read).1 w :=
  ⟨pa, false, false, answer_known _ hp, hd, hb, hw.symm⟩

/-- The machine after the index, and after the table's element, have been read. -/
def look1 : State := ((looking []).translateBare 0 0x6000 .read).1
def look2 : State := (look1.translateBare 0 0x7000 .read).1
theorem rows_pool : RowsPool 0 (lookupOf (lookupRecord 0x6000 0x8000)) 1 0 (looking []) [0] look2 [pooledElement 0 0 0 0] :=
  ⟨look1, 0, look1, 0, look2, [pooledElement 0 0 0 0],
    reads_word _ _ 0x6000 0 (by decide +kernel) (by decide) (by decide +kernel) (by decide +kernel), by decide, rfl,
    ⟨look2, 0, [], reads_word _ _ 0x7000 0 (by decide +kernel) (by decide) (by decide +kernel) (by decide +kernel),
      ⟨rfl, rfl⟩, rfl⟩, rfl, rfl⟩
theorem outputs_are : OutputsAre 0 1 look2 0x8000 (look2.translateBare 0 0x8000 .write).1 [0x8000] :=
  ⟨_, 0x8000, false, false, [], answer_known _ (by decide +kernel), by decide, ⟨rfl, rfl⟩, rfl⟩

theorem witness_LookupsPool : let bs := lookupRecord 0x6000 0x8000
    let r := lookupOf bs
    lookupBad bs r = false ∧ lookupBad (lookupRecord 0x6002 0x8000) (lookupOf (lookupRecord 0x6002 0x8000)) = true ∧
    ∃ s1 acc s2 out, RowsPool 0 r r.count 0 (looking []) (poolStart r) s1 acc ∧ OutputsAre 0 r.length s1 r.output s2 out :=
  ⟨by decide, by decide, look2, _, _, _, rows_pool, outputs_are⟩

/-- An index that names a word of the tables, which is no row; one that does not translate; one that cannot be read; an output
that does not translate. -/
theorem witness_LookupsFail :
    (let r := lookupOf (lookupRecord 0x10000 0x8000)
     (0 < r.count ∧ lookupBad (lookupRecord 0x10000 0x8000) r = false ∧
      ∃ s2 ix, ReadsWord 0 (looking []) (r.indices + BitVec.ofNat 64 (4 * 0)) s2 ix ∧ r.rows ≤ ix.toNat)) ∧
    (let r := lookupOf (lookupRecord 0x80000000 0x8000)
     ∃ s2 x, (looking []).translateBare 0 (r.indices + BitVec.ofNat 64 (4 * 0)) .read = (s2, x) ∧ Refused x) ∧
    (∃ s2, (looking [0xC0]).translateBare 0 0x6000 .read = (s2, .ok 0x6000 false false) ∧ s2.badRead 0x6000 4 = true) := by
  refine ⟨⟨by decide, by decide, _, 0x11001, reads_word _ _ 0x10000 _ (by decide +kernel) (by decide) (by decide +kernel)
    (by decide +kernel), by decide⟩, ⟨_, .miss, answer_known _ (by decide +kernel), fun _ _ _ h => Xl.noConfusion h⟩,
    _, answer_known _ (by decide +kernel), by decide +kernel⟩

/-! ### Witnesses: passes, permits of products, records -/

/-- A pass of two blocks to flash at 2 GiB, in which every block counts as changed; `n` installs stand before it. -/
def flashDescriptor : List Byte :=
  leBytes 8 0x100000 ++ leBytes 4 2 ++ [0, 1, 0, 0] ++ leBytes 8 0x200000 ++ leBytes 8 0x80000000 ++ List.replicate 32 0
def flashPass : Pass := passOf flashDescriptor
def toFlash (n : Nat) : State :=
  { solo id with
    mem := (tables.writeBytes 0x11010 (leBytes 8 0x400000000043)).writeBytes 0x2000 flashDescriptor
    foreman := { Foreman.initial with spaces := [(0, 0x10000)] }
    assays := [(2, { Engine.initial with queue := [call1 9] })]
    flash := [(0, { Flash.initial with installs := List.replicate n waitingInstall })] }
def flash1 : State := ((toFlash 7).translateBare 0 flashPass.target .read).1
theorem witness_PassesToFlash : flashPass.host = false ∧ ((toFlash 7).assays.lookup 2).isSome = true ∧
    (((List.range 16).map fun j => wordAt (toFlash 7).mem (0x2000 + 4 * j)).flatMap fun w => leBytes 4 w.toNat) =
      flashDescriptor ∧ passBad flashDescriptor flashPass = false ∧
    (toFlash 7).translateBare 0 (flashPass.target + BitVec.ofNat 64 (65536 * 0)) .read = (flash1, .ok 0x400000000000 false false) ∧
    inFlash 0x400000000000 = true ∧ (flash1.flash.at 0 Flash.initial).installs.length < 8 ∧
    ∀ old, ∃ s2 content mask, mask ≠ 0 ∧ flash1.passExtent 0 flashPass 0 old = (s2, 0, content, mask) :=
  ⟨by decide, by decide, by decide +kernel, by decide, answer_known _ (by decide +kernel), by decide, by decide +kernel,
    fun _ => ⟨_, _, _, fun h => (by cases h), status_known _ rfl⟩⟩

/-- Its first extent: the blocks as they are read, each at its turn. -/
theorem witness_ExtentsMixBlocks : (List.replicate 0x200000 (0 : Byte)).length = 0x200000 ∧
    ∃ (at' : Nat → State) (block : Nat → List Byte) (entry : Nat → Nat), at' 0 = flash1 ∧ min 32 (flashPass.count - 0) = 2 ∧
      ∀ j < 2, (at' j).passBlock 0 flashPass (0 + j) = (at' (j + 1), 0, block j, entry j) := by
  refine ⟨List.length_replicate, fun j => if j = 0 then flash1 else if j = 1 then (flash1.passBlock 0 flashPass 0).1 else
    ((flash1.passBlock 0 flashPass 0).1.passBlock 0 flashPass 1).1,
    fun j => if j = 0 then (flash1.passBlock 0 flashPass 0).2.2.1 else
      ((flash1.passBlock 0 flashPass 0).1.passBlock 0 flashPass 1).2.2.1,
    fun j => if j = 0 then (flash1.passBlock 0 flashPass 0).2.2.2 else
      ((flash1.passBlock 0 flashPass 0).1.passBlock 0 flashPass 1).2.2.2, rfl, by decide, fun j hj => ?_⟩
  have : j = 0 ∨ j = 1 := by omega
  rcases this with rfl | rfl
  · exact status_known _ (by decide +kernel)
  · exact status_known _ (by decide +kernel)

/-- A pass whose first extent is being installed. -/
def installs1 : Engine :=
  { Engine.initial with
    queue := [call1 9], running := true, first := some 1,
    partials := (List.range 16).map fun j => wordAt (Memory.writeBytes [] 0 flashDescriptor) (4 * j) }
def awaitingInstall : State := { toFlash 0 with assays := [(2, installs1)] }
theorem witness_PassesGoOn : awaitingInstall.waitingPass 5 = some (2, installs1, call1 9) ∧ installs1.first = some 1 ∧
    ((List.range 32).filter fun j => (1 : Nat).testBit j) = [0] ∧
    (passOf (installs1.partials.flatMap fun w => leBytes 4 w.toNat)).table = 0x200000 ∧
    ∃ s1, EntriesAre 0 0x200000 (List.replicate 65536 0) 0 awaitingInstall [0] s1 :=
  ⟨by decide +kernel, rfl, by decide, by decide +kernel, _, _, 0x200000, false, false, answer_known _ (by decide +kernel), by decide, rfl⟩

/-- The start of a multiply that must ask for its permit, that has asked, and one that was started without a permit. -/
def asked1 : Permit := { granted1 with granted := false }
theorem witness_ProductsWaitForPermits (st : Bool) : let w : Work4 := .mma (phase false st false 0x110)
    ((engine w []).core 0).queue4 = [op1 w] ∧ (op1 w).parked = none ∧ (engine w []).frozenTeam 1 = false ∧
    (∀ r ∈ ((engine w []).core 0).permits, (op1 w).ticket ∉ r.users ∧ r.explicit = false) ∧
    (∃ r, (((engine w [asked1]).core 0).permits.find? fun r => r.users.contains (op1 w).ticket) = some r ∧ r.granted = false) ∧
    (engine w []).handle (op1 w).team (mmaParams (phase false st false 0x110).params).handle = 0 := by
  refine ⟨rfl, rfl, rfl, fun r h => absurd h List.not_mem_nil, ⟨asked1, rfl, rfl⟩, rfl⟩

/-- The cluster of the group is frozen for a save. -/
def freezing (s : State) : State := { s with clusters := s.clusters.map fun p => (p.1, { p.2 with frozen := some (0, false) }) }
theorem witness_FrozenTeams : (freezing (engine (.mma (phase true true false 0x10)) [granted1])).frozenTeam 1 = true ∧
    (engine (.mma (phase true true false 0x10)) [granted1]).frozenTeam 1 = false ∧
    (phase true true false 0x10).drain = false ∧ (phase true true true 0x90).drain = true := by decide

/-- A store of the epilogue that misses, in a core that has no translation. -/
theorem witness_RowsAreHeld : ∃ s1 va h, State.epiRow 0 1 0 { program1 0x38000004 with slots := [{ base := 0x2000, stride := 0, scale := 0 }] }
    0 [0x38000004] ({ solo id with cores := [] } : State) { w := [1], q := 0, y := [] } = .held s1 va h := ⟨_, _, _, rfl⟩

/-- Records at 0x2000: eight bytes of the scratchpad, into two shares, with a transform, or one that a field forbids. -/
def withRecord (bs : List Byte) (book : Option Codebook) : State :=
  let s := copying (lead1 none none)
  { s with mem := Memory.writeBytes [] 0x2000 bs, cores := s.cores.map fun p => (p.1, { p.2 with l1 := [], codebook := book }) }
def transformRecord : List Byte :=
  leBytes 8 0 ++ leBytes 2 0x2A9 ++ leBytes 6 0 ++ leBytes 8 0 ++ leBytes 8 8 ++ leBytes 4 4 ++ leBytes 28 0
def brokenRecord : List Byte := leBytes 8 1 ++ plainRecord.drop 8
theorem witness_RecordsStart (bs : List Byte) (hb : bs = plainRecord ∨ bs = transformRecord ∨ bs = brokenRecord) :
    let s := withRecord bs none
    let x := (s.core 0).channels.at 0 Channel.initial
    x.heads = [head1] ∧ x.parked = none ∧ x.running = none ∧ s.frozenTeam 1 = false ∧ (freezing s).frozenTeam 1 = true ∧
    canonical head1.record = true ∧
    (∃ t, (s.core 0).leafOf 0 head1.record.toNat = some t ∧
      s.classify t.size t.entry head1.record.toNat .read = .ok 0x2000 false false ∧
      ∀ c, (s.l2Read 0x2000 64).1.classify t.size t.entry head1.record.toNat .write ≠ .fault c) ∧
    s.unreadable 0x2000 = false ∧ (s.l2Read 0x2000 64).2 = bs ∧ (recordOf bs).owner = true ∧
    recordBad bs (recordOf bs) = decide (bs = brokenRecord) ∧ (recordOf bs).transform = decide (bs = transformRecord) ∧
    (s.l2Read 0x2000 64).1.tagged 0 1 = false ∧ (s.l2Read 0x2000 64).1.badTeams head1 (recordOf bs) = false ∧
    (recordOf bs).handle = none ∧ (s.l2Read 0x2000 64).1.roomFor ((s.l2Read 0x2000 64).1.rangesOf head1 (recordOf bs)) = true := by
  rcases hb with rfl | rfl | rfl <;>
  exact ⟨by decide, by decide, by decide, by decide, by decide, by decide, ⟨_, rfl, by decide +kernel, fun c h => by
      rw [show State.classify _ _ _ _ _ = Xl.ok 0x2000 false false by decide +kernel] at h; cases h⟩,
    by decide +kernel, by decide +kernel, by decide, by decide, by decide, by decide +kernel, by decide +kernel, by decide,
    by decide +kernel⟩

/-! ### Witnesses: shares, held launches, counters, queues -/

/-- A multicast of eight bytes that has read its data and has two shares to write. -/
def multicastRecord : List Byte :=
  leBytes 8 0 ++ leBytes 2 0x4A9 ++ leBytes 2 0 ++ leBytes 2 3 ++ leBytes 2 0 ++ leBytes 8 0 ++ leBytes 8 8 ++ leBytes 4 8 ++
    leBytes 28 0
def shares1 : Running := { running1 multicastRecord with shares := [1, 4], data := some (List.replicate 8 7) }
theorem witness_SharesAreWritten : (copying (lead1 (some shares1) none)).frozenTeam 1 = false ∧
    (freezing (copying (lead1 (some shares1) none))).frozenTeam 1 = true ∧
    (recordOf shares1.bytes).kind ≠ 1 ∧ (recordOf shares1.bytes).multicast = true ∧ (recordOf shares1.bytes).dims = 1 ∧
    (((copying (lead1 (some shares1) none)).teams.lookup 1).map fun m => m.size) = some 16 ∧
    (List.replicate 8 (7 : Byte)).length = (recordOf shares1.bytes).length * (if (recordOf shares1.bytes).transform then 16 else 1) ∧
    (recordOf shares1.bytes).dst + 8 ≤ 16 ∧ shares1.shares = 1 :: [4] := by decide

/-- An entry that its launch holds: the message names queue 2. -/
def launching (n : Nat) : State :=
  { taking n with groups := [(0, awaiting (.launch (message 1 0) 20) group1)] }
theorem witness_HeldLaunchesAreQueued (n : Nat) : (launching n).groups.lookup 0 = some (awaiting (.launch (message 1 0) 20) group1) ∧
    { entry1 with hold := .launch (message 1 0) 20 } ∈ (awaiting (.launch (message 1 0) 20) group1).front.entries ∧
    (n = 256 → 256 ≤ (launching n).waiting (messageQueue (message 1 0))) ∧
    (n = 255 → (launching n).waiting (messageQueue (message 1 0)) < 256 ∧ (launching n).refusal (message 1 0) true = 0 ∧
      (launching n).pairOut = false ∧
      (launching n).shapeExists (field (message 1 0) 20 1 % 16) (field (message 1 0) 20 1 / 16) = true) := by
  refine ⟨rfl, List.mem_singleton.mpr rfl, ?_, ?_⟩
  · rintro rfl; decide +kernel
  · rintro rfl; decide +kernel

/-- Counters that a translation refuses, and one in host memory. -/
theorem witness_CountersAreRefused : let s (entry : Nat) : State := { mapped (counts 0x2000 1 1) with
      cores := [(0, { core1 with tlb := [{ space := 0, base := 0, size := 30, entry := entry }] })] }
    (((s 0x10000000007).core 0).leafOf 0 0x2000).map (fun t => (s 0x10000000007).classify t.size t.entry 0x2000 .read) =
      some (.fault .protection) ∧
    (((s 0x800000000007).core 0).leafOf 0 0x2000).map (fun t => (s 0x800000000007).classify t.size t.entry 0x2000 .read) =
      some (.ok 0x800000002000 false false) ∧ inDram 0x800000002000 = false := by decide +kernel

/-- The wait of an entry for a counter at its home: not yet met, met, or its limit has passed. -/
def watch1 (met : Bool) : Watch := { ticket := 4, pa := 0x2000, bound := 3, last := if met then 3 else 2, met := met }
def watched (met : Bool) (w : CounterWait) : State := { solo (awaiting (.counter w)) with watches := [watch1 met] }
theorem witness_CountersAreCompared (met ex : Bool) : let w := { counter1 with expired := ex }
    (watched met w).groups.lookup 0 = some (awaiting (.counter w) group1) ∧
    ((watched met w).watches.find? fun y => y.ticket = w.ticket) = some (watch1 met) ∧ (watch1 met).met = met ∧
    w.expired = ex ∧ leBytes 8 3 ≠ [] := ⟨rfl, rfl, rfl, rfl, by decide⟩

/-- R338 by hand: a write of 3 at the counter's home meets the bound 3, and one of 2 then changes nothing. -/
theorem test_counter_met : let s := (watched false counter1).l2Write 0x2000 (leBytes 8 3)
    (s.watches.map fun w => (w.met, w.last), (s.l2Write 0x2000 (leBytes 8 2)).watches.map fun w => (w.met, w.last)) =
      ([(true, 3)], [(true, 3)]) := by decide +kernel

/-- Only the head of queue 4, a multiply, and a channel with a chain wait for the answer. -/
theorem witness_ParksAtTheHead : let o (w : Work4) (t : Option (Nat × DWord)) : Op4 := { op1 w with parked := t }
    let c : Core := { core1 with
      queue4 := [o (.mma (phase true true true 0x90)) (some (9, 0x5000)), o (.accz 0 1) none]
      channels := [(0, lead1 none (some (9, 0x6000)))] }
    ParksAtTheHead c 9 ∧ ParksAtTheHead Core.initial 9 := by
  refine ⟨⟨fun q hq va => ?_, fun q hq va _ => ?_, fun p hp va _ => ?_⟩, ?_, ?_, ?_⟩
  · obtain rfl := List.mem_singleton.mp hq; exact fun h => by cases h
  · obtain rfl := Option.mem_some_iff.mp hq; exact ⟨_, rfl⟩
  · obtain rfl := List.mem_singleton.mp hp; exact List.cons_ne_nil _ _
  · exact fun _ h => absurd h List.not_mem_nil
  · exact fun _ h => absurd h (by simp [Core.initial])
  · exact fun _ h => absurd h List.not_mem_nil

theorem witness_LineUnreadable : ({ fetchMiss with badLines := [0x20] } : State).unreadable 0x1000 = true ∧
    fetchMiss.unreadable 0x1000 = false := by decide

/-- A saved cluster at the head, 64 ms after its launch began to wait. -/
theorem witness_SavedHeadsAreRaised : ((serving (.saved 5)).queue 0).items = [.saved 5] ∧
    (∃ c, (serving (.saved 5)).clusters.lookup 5 = some c ∧ c.grid = 9) ∧
    ((serving (.saved 5)).queue 0).since + 6400000 ≤ State.time { serving (.saved 5) with cycles := 54400000 } := by
  refine ⟨rfl, ⟨_, rfl, rfl⟩, by decide⟩

/-- A frozen cluster whose team has a call on its way. -/
def mustStay : State :=
  { freezing (late none []) with executors := [(7, busy 4)] }
theorem witness_FrozenClustersWait : (∃ c, mustStay.clusters.lookup 2 = some c ∧ c.frozen.isSome = true ∧ 1 ∈ c.teams) ∧
    ∃ m, mustStay.teams.lookup 1 = some m ∧ mustStay.mustWait 1 m = true := by
  refine ⟨⟨_, rfl, rfl, by decide⟩, _, rfl, by decide⟩

/-- Both slices of a pair are out; every column but one is. -/
theorem witness_LaunchesAreTurnedAway : ({ taking 0 with slicesOut := [4, 5] } : State).pairOut = true ∧
    State.refusal { taking 0 with slicesOut := [4, 5] } (message 1 5) false = 0 ∧
    (let s : State := { taking 0 with columnsOut := (List.range 384).filter (· != 7) }
     s.shapeExists 2 1 = false ∧ s.pairOut = false) := by decide +kernel

/-- What an endpoint's record reads while the link is down. -/
theorem witness_LinkDown : let s : State := { taking 0 with link := { State.reset.link with up := false } }
    s.link.up = false ∧ s.ready = true ∧ s.halted = false ∧ State.halted { taking 0 with foreman := { ready1 with stage := 2 } } = true := by
  decide

/-! ### Witnesses: banks, flits, homes, bring-up -/

/-- The worked decodes of chapter 2: a hashed page of set 0, and a bank-contiguous frame of set 1 (R22 to R24). -/
theorem test_banks : let s : State := { State.reset with modes := false :: true :: List.replicate 10 false }
    (s.bankOf 0x4A35C2C0, s.bankOffset 0x4A35C2C0, s.home 0x4A35C2C0) = (0x163F, 0x128C0, 76) ∧
    (s.bankOf 0x000A0D2B4000, s.bankOffset 0x000A0D2B4000) = (0x1069, 0x2B4000) := by decide +kernel

/-- The flits of a link that has asked for replay: one too early, one bad again. -/
theorem witness_ReplayIsAwaited : let l : Link := { State.reset.link with asked := 1, awaits := true }
    l.asked < 8 ∧ l.awaits = true ∧ field (flitOf 1) 0 2 ≠ l.expected ∧ 2048 < (l.expected + 4096 - field (flitOf 1) 0 2) % 4096 ∧
    ¬ (l.awaits = true ∧ field (flitOf 0) 0 2 ≠ l.expected) := by
  simp only [(flitOf_good 0 (by decide)).2, (flitOf_good 1 (by decide)).2]
  decide

/-- A launch message waits at the host before `READY`, and while its queue is full. -/
theorem witness_MessagesKeepOff : State.reset.ready = false ∧ field (flitOf 0) 2 1 = 0 ∧ (taking 255).keepsOff (message 1 5) = false ∧
    (taking 256).keepsOff (message 1 5) = true := by decide +kernel

/-- The line at 0x2000 lies whole in its home. -/
def homed : State :=
  { State.reset with slices := [(State.reset.home 0x2000, { Slice.initial with supers := [{ tag := 16, way := 0, lines := [(0, line1)] }] })] }
theorem witness_HomesAnswer : (∀ p ∈ [0], p % 65536 = 0) ∧ (List.replicate 8 (5 : Byte)).length = 8 ∧
    (∀ k, k < 8 → homeByte homed ([0].getD ((0x2000 + k) / 65536) 0 + (0x2000 + k) % 65536) = (List.replicate 8 (5 : Byte))[k]?) ∧
    0x2000 % 128 + 8 ≤ 128 ∧
    ∃ l, findLine (homed.slice (homed.home 0x2000)).supers 0x2000 = some l ∧ l.full = true ∧ l.data.length = 128 := by
  refine ⟨by decide, rfl, by decide +kernel, by decide, line1, by decide +kernel, rfl, List.length_replicate⟩

/-- Four bytes placed at the receive window's base; a place that no page holds. -/
theorem witness_Placed : pieces 0x120000 4 = [(0x120000, 4)] ∧
    Placed 0 0x120000 [1, 2, 3, 4] [(0x120000, 4)] (connected [] 0)
      (((connected [] 0).translateBare 0 0x120000 .write).1.l2Write 0x120000 [1, 2, 3, 4]) ∧
    ((connected [] 0).translateBare 0 0x80000000 .write).2 = .miss :=
  ⟨by decide, ⟨_, 0x120000, false, false, answer_known _ (by decide +kernel), by decide, rfl⟩, by decide +kernel⟩

/-- The last packet of a message, and a counter that cannot be reached. -/
def lastMessage : Message := { window := 1, offset := 0, length := 8, placed := [(0, 4)], refused := false, counted := false }
theorem witness_MessagesComplete : (∀ b < 8, (covered lastMessage b ∨ (4 ≤ b ∧ b < 4 + (arrival true 4 none).bytes.length))) ∧
    (connected [] 0).wordAt 0 0x110010 = some 0x110010 ∧ (connected [] 0).wordAt 0 0x80000000 = none := by
  refine ⟨fun b hb => ?_, by decide +kernel, by decide +kernel⟩
  by_cases h : b < 4
  · exact .inl ⟨(0, 4), by decide, Nat.zero_le _, by simpa using h⟩
  · exact .inr ⟨by omega, hb⟩

/-- Units that fail stages: every memory stack the second one; column 0 stage 1. -/
theorem witness_StagesFail : let f := (List.range 8).map fun n => (2, Part.memoryStack n)
    ¬ usableAfter f 2 ∧ usableAfter f 1 ∧ usableAfter [(1, Part.column 0)] 4 := by
  refine ⟨fun h => ?_, ⟨⟨0, by decide, ?_⟩, 0, by decide, ?_⟩, ⟨1, by decide, ?_⟩, 0, by decide, ?_⟩
  · obtain ⟨-, n, hn, h⟩ := h
    exact h 2 (by decide) (by decide) (List.mem_map.mpr ⟨n, List.mem_range.mpr hn, rfl⟩)
  all_goals intro j h1 h2 h; simp at h
  omega

/-- Tables whose root's entry at `a` leads to a page of 1 GiB at 0. -/
def mapping (a : Nat) : State :=
  { solo id with
    mem := (Memory.writeBytes [] a (leBytes 8 0x11001)).writeBytes 0x11000 (leBytes 8 7)
    foreman := { Foreman.initial with spaces := [(0, 0x10000)] } }

/-- The other slice of the pair is out already; a bank that a page of the upper half maps. -/
theorem witness_PairsAndPages : (let s : State := { faulting (.slice 4) 256 with slicesOut := [5] }
      4 ∉ s.slicesOut ∧ 4 ^^^ 1 ∈ s.slicesOut) ∧
    (let s : State := { State.reset with slicesOut := [4, 5] };
      (∀ n ∈ s.slicesOut, n ∈ s.remapped ∨ n ^^^ 1 ∈ s.slicesOut) ∧ s.link.up = true) ∧
    mapsBank (mapping 0x10800) ((mapping 0x10800).bankOf 0) 0 0xFFFF800000000000 := by
  refine ⟨by decide, by decide, 0x10000, 0x800000000000, 30, 7, List.mem_singleton.mpr rfl, by decide, by decide, by decide, ?_, 0, by decide, by decide, ?_⟩ <;>
    decide +kernel

/-- A column whose neighbours' sensors have all failed, and one whose own has. -/
def failedSensor : Sensor := { reading := 80, strikes := 3, failed := true, hot := 0 }
theorem witness_SensorsFail :
    (let s : State := { State.reset with foreman := { Foreman.initial with sensors := [(1, failedSensor), (12, failedSensor)] } }
     s.alone 0 = true) ∧
    (let s : State := { State.reset with foreman := { Foreman.initial with sensors := [(0, failedSensor), (1, sensor 80 0 0)] } }
     s.alone 0 = false ∧ ∃ a r, s.neighbourReadings 0 = a :: r) := by
  refine ⟨by decide, by decide, _, _, rfl⟩

/-! ### Witnesses: walks, messages, engines -/

/-- A walk at its root; one that has come to level 1, where the entry is a leaf of 1 GiB at 0, or of the host's first. -/
def downTables : Memory := [(0x3000, 1), (0x3001, 0x40), (0x4000, 7)]
def downHost : Memory := downTables ++ [(0x4005, 0x80)]
theorem descent_start (s : State) (va root : Nat) : Descent s va root 0 (fun _ => s) (fun _ => root) fun _ => 0 :=
  ⟨rfl, rfl, fun j h => absurd h (Nat.not_lt_zero j)⟩
theorem descent_one (m : Memory) (h : leNat ((rooted m).l2Read 0x3000 8).2 = 0x4001) (hb : (rooted m).unreadable 0x3000 = false) :
    Descent (rooted m) 0x2000 0x3000 1 (fun k => if k = 0 then rooted m else ((rooted m).l2Read 0x3000 8).1)
      (fun k => if k = 0 then 0x3000 else 0x4000) fun _ => 0x4001 := by
  refine ⟨rfl, rfl, fun j hj => ?_⟩
  obtain rfl : j = 0 := by omega
  refine ⟨hb, rfl, h.symm, ?_, by decide, ?_, by decide⟩ <;> simp only [MalformedAt, EndsWalk, shiftAt] <;> decide
theorem witness_WalksDescend : canonical 0x2000 = true ∧ ((rooted downTables).core 0).leafOf 0 0x2000 = none ∧
    Descent (rooted downTables) 0x2000 0x3000 1 (fun k => if k = 0 then rooted downTables else ((rooted downTables).l2Read 0x3000 8).1)
      (fun k => if k = 0 then 0x3000 else 0x4000) (fun _ => 0x4001) ∧
    (let s := ((rooted downTables).l2Read 0x3000 8).1
     placeInTable 0x2000 1 0x4000 = 0x4000 ∧ s.unreadable 0x4000 = false ∧ leNat (s.l2Read 0x4000 8).2 = 7 ∧
       (7).testBit 0 = true ∧ ((s.l2Read 0x4000 8).1.core 0).tlb.length < 4096) ∧
    ¬ MalformedAt 1 7 ∧ EndsWalk 1 7 ∧ MalformedAt 0 2 ∧ ¬ MalformedAt 0 0 ∧ (0).testBit 0 = false ∧
    tableLost.unreadable (placeInTable 0x2000 0 0x3000) = true ∧
    ∀ t : Tlb, t.space = 1 → ((List.replicate 4096 t).length = 4096 ∧
      Core.leafOf { Core.initial with tlb := List.replicate 4096 t } 0 0x2000 = none) := by
  refine ⟨by decide, by decide +kernel, descent_one downTables (by decide +kernel) (by decide +kernel), by decide +kernel, ?_, ?_, ?_, ?_,
    by decide, by decide +kernel, fun t h => ⟨List.length_replicate, ?_⟩⟩
  · simp only [MalformedAt, EndsWalk, shiftAt]; decide
  · exact .inr (by decide)
  · simp only [MalformedAt, EndsWalk, shiftAt]; decide
  · simp only [MalformedAt, EndsWalk, shiftAt]; decide
  · refine List.find?_eq_none.mpr fun x hx => ?_
    simp [List.eq_of_mem_replicate hx, h]

/-- Messages with a reserved byte, with no such object, with no cluster, and with nothing amiss. -/
theorem witness_ReasonsAreFound :
    (let n (bs : List Byte) (lo k : Nat) : Nat := leNat ((bs.drop lo).take k)
     n ((message 1 5).set 1 1) 1 3 ≠ 0 ∧ n (message 1 5) 1 3 = 0 ∧ n (message 1 5) 96 32 = 0 ∧
       n ((message 1 5).set 16 0) 16 4 = 0 ∧ n (message 1 5) 16 4 ≠ 0) ∧
    ((taking 0).foreman.objects.lookup (leNat (((message 1 5).drop 8).take 4))).bind (fun o =>
      o.entries[leNat (((message 1 5).drop 12).take 2)]?) = object1.entries.head? ∧
    (ready1.objects.lookup 1).isNone = true ∧ (taking 0).foreman.spaces.lookup 0 ≠ none ∧
    [(message 1 5).set 1 1, (message 1 5).set 8 1, (message 1 5).set 16 0, message 1 5].map (fun bs => (taking 0).refusal bs false) =
      [1, 2, 3, 0] ∧ (taking 0).shapeExists 8 12 = true ∧ (taking 0).shapeExists 1 13 = false ∧
    nonZero ((message 2 0).set 1 1) 1 3 = true := by decide +kernel

/-- No address, one that no table maps, one in DRAM, one of the host's with the link up or down; a grid that ends, and one that
does not. -/
theorem witness_CompletionRecords : (0x2000 : DWord) ≠ 0 ∧ (∀ pa st bc, Xl.miss ≠ .ok pa st bc) ∧
    ((solo id).translateBare 0 0x2000 .write).2 = .miss ∧
    ((rooted downTables).translateBare 0 0x2000 .write).2 = .ok 0x2000 false false ∧
    ((rooted downHost).translateBare 0 0x2000 .write).2 = .ok 0x800000002000 false false ∧
    (rooted downHost).link.up = true ∧
    (let s : State := { rooted downHost with link := { State.reset.link with up := false } }
     (s.translateBare 0 0x2000 .write).1.link.up = false) ∧ canonical 0x800000000000 = false ∧
    ∃ g, (solo id).grids.lookup 3 = some g ∧ (∃ k ∈ (solo id).clusters, k.2.grid = 3) ∧
      { g with next := g.clusters }.next = g.clusters ∧ ∀ k ∈ ({ solo id with clusters := [] } : State).clusters, k.2.grid ≠ 3 := by
  refine ⟨by decide, fun _ _ _ h => (by cases h), by decide +kernel, by decide +kernel, by decide +kernel, rfl, by decide +kernel,
    by decide, _, rfl, by decide, rfl, by decide⟩

/-- An integer type, and a word of a program that names a micro-op. -/
theorem witness_ConversionsRound : Ty.s32.floating = false ∧ Flt.e4m3 ∈ [Flt.f32, Flt.f16, Flt.bf16, Flt.e4m3, Flt.e5m2] ∧
    (0x1C000000 : Word).toNat / 2 ^ 26 ≠ 0 := by decide

/-- Lanes that are parked, and lanes in a member-mask wait. -/
theorem witness_StuckGroupsAreFound : (stuck1.front.parked.find? fun p => p.lane = 1) = some (parked1 1) ∧
    (let g : Group := { stuck1 with front := { entries := [], parked := [], pool := [], waits := [wait1] } }
     (∀ p ∈ g.front.parked, p.lane ≠ 0) ∧ ∃ l, (g.front.waits.find? fun w => w.arrived.getLsbD l) = some wait1) :=
  ⟨by decide, by decide, 0, by decide⟩

/-- A program word of code 2; a vector that can be read, and one that cannot; rows that store nothing, and one that misses. -/
theorem witness_RowsRunTheirProgram : (0x08000000 : Word).toNat / 2 ^ 26 = 2 ∧ (0x30000000 : Word).toNat / 2 ^ 26 = 12 ∧
    (0x34000000 : Word).toNat / 2 ^ 26 = 13 ∧ (0x38000000 : Word).toNat / 2 ^ 26 = 14 ∧ (0x38000004 : Word).toNat % 2 ^ 26 / 4 % 2 = 1 ∧
    ({ w := List.replicate 128 0, q := 0, y := [] } : EpiRow).w.length = 128 ∧ padFlawed (solo id) 1 0 512 = false ∧
    padFlawed { solo id with flaws := [.scratch 1 0] } 1 0 512 = true ∧
    GlobalStoreEnds 0 0 0 [] (pieces 0 0) (solo id) (.ok (solo id)) ∧
    GlobalStoreEnds 0 0 0 [1] (pieces 0 1) (solo id) (.miss (solo id) 0) ∧ ∀ t, EpiEnd.miss (solo id) 0 ≠ .ok t :=
  ⟨by decide, by decide, by decide, by decide, by decide, List.length_replicate, rfl, by decide, rfl,
    ⟨solo id, .miss, by rfl, fun _ => rfl, fun _ h => (by cases h), fun _ _ _ h => (by cases h)⟩, fun _ h => (by cases h)⟩

/-- A place of a record, and the record itself, in a line that cannot be read. -/
def lostCopy : State := { copying (lead1 (some (running1 plainRecord)) none) with badLines := [0x40] }
theorem witness_RecordsAreLost : homeLost lostCopy 0x2000 = true ∧
    homeLost (copying (lead1 (some (running1 plainRecord)) none)) 0x2000 = false ∧
    (moveElements 0 (recordOf plainRecord) (fun _ => .mem 0x2000) (fun k _ => .scratch 1 k) lostCopy).2 = true ∧
    (moveElements 0 (recordOf plainRecord) (fun k => .scratch 1 k) (fun k _ => .scratch 1 (8 + k))
      (copying (lead1 (some (running1 plainRecord)) none))).2 = false ∧
    (readElements 0 (recordOf plainRecord) (fun _ => .mem 0x2000) lostCopy).2.2 = true ∧
    (readInTurn lostCopy (fun k => 0x2000 + k) 2).2.2 = true := by decide +kernel

/-- A follower of a saved window instruction waits behind it. -/
theorem witness_FollowersAreKept : (here fun g => { g with trap := some (following g) }).grp.front.pool = [] ∧
    ∃ t, (here fun g => { g with trap := some (following g) }).grp.trap = some t ∧ t.resume = .entry 1 0x0F00 0x0F0C ∧
      t.followers ≠ 0 ∧ ∃ q ∈ t.front.entries, q.mask &&& 1 ≠ 0 := ⟨rfl, _, rfl, rfl, by decide, _, List.mem_singleton.mpr rfl, by decide⟩

/-! ### Witnesses: code objects -/

theorem good_append {a b : List (Nat × Prop)} (ha : AllGood a) (hb : AllGood b) : AllGood (a ++ b) := by
  intro q h
  rcases List.mem_append.mp h with h | h
  exacts [ha q h, hb q h]
theorem good_each {l : List Nat} {f : Nat → List (Nat × Prop)} (h : ∀ k ∈ l, AllGood (f k)) : AllGood (l.flatMap f) := by
  intro q hq
  obtain ⟨k, hk, hq⟩ := List.mem_flatMap.mp hq
  exact h k hk q hq

theorem bare_header (k : Nat) (hk : k = 0 ∨ k = 1) : AllGood (headerRules (signedBare k)) := by
  rcases hk with rfl | rfl <;>
    · simp only [AllGood, headerRules, List.forall_mem_cons]
      exact ⟨by decide +kernel, by decide +kernel, by decide +kernel, by decide +kernel, by decide +kernel, by decide +kernel,
        by decide +kernel, by decide +kernel, fun _ h => absurd h List.not_mem_nil⟩
theorem bare_table (k : Nat) (hk : k = 0 ∨ k = 1) : AllGood (tableRules (signedBare k)) := by
  refine good_append (good_each ?_) ?_ <;> rcases hk with rfl | rfl <;>
    simp only [AllGood, sectionRules, List.forall_mem_cons, List.not_mem_nil, false_imp_iff, implies_true, and_true, Apart] <;>
    decide +kernel
theorem bare_contents (k : Nat) (hk : k = 0 ∨ k = 1) : AllGood (contentRules (signedBare k)) := by
  have h : countOf (signedBare k) 4 24 = 0 ∧ countOf (signedBare k) 7 16 = 0 ∧ countOf (signedBare k) 6 24 = 0 := by
    rcases hk with rfl | rfl <;> decide +kernel
  simp only [contentRules, h.1, h.2.1, h.2.2, List.range_zero, List.flatMap_nil, List.append_nil, AllGood, List.cons_append,
    List.nil_append, List.forall_mem_cons, List.not_mem_nil, false_imp_iff, implies_true, and_true]
  rcases hk with rfl | rfl <;> exact ⟨by decide +kernel, by decide +kernel, by decide +kernel, .inl (by decide +kernel), by decide +kernel⟩

theorem bare_admissible (k : Nat) (hk : k = 0 ∨ k = 1) (hv : keyId (pointOf Config.vendorKey) ≠ keyId (bareKey k)) :
    Admissible (owning (bareKey k)) (signedBare k) 0 [0] := by
  obtain ⟨h1, h2, h3, h4⟩ := bare_verifies k hk
  have hs : SignedBy (owning (bareKey k)) (signedBare k) := by
    unfold SignedBy
    rw [h2]
    exact ⟨bareKey k, (show (owning (bareKey k)).keyOf (((signedBare k).drop 256).take 48) = some (bareKey k) from
      h3 ▸ key_found _ _ h4 rfl hv), h1⟩
  have hc : (theSection (signedBare k) 8).size = 0 ∧ countOf (signedBare k) 6 24 = 0 ∧ loadables (signedBare k) = [0] ∧
      (sectionAt (signedBare k) 0).load = 0 ∧ loadAddress (signedBare k) [0] 0 = 0 := by
    rcases hk with rfl | rfl <;> decide +kernel
  have hl : LoadsFit (owning (bareKey k)) (signedBare k) 0 [0] := by
    refine ⟨0x10000, rfl, by rw [hc.2.2.1], fun j hj => ?_⟩
    rw [hc.2.2.1] at hj
    obtain rfl := List.mem_singleton.mp hj
    simp [hc.2.2.2.1, hc.2.2.2.2]
  simp only [Admissible, checksOf, List.forall_mem_cons, List.not_mem_nil, false_imp_iff, implies_true, and_true]
  refine ⟨good_append (bare_header k hk) (bare_table k hk), hs, ?_, bare_contents k hk, hl, ?_, show 1 < 256 by decide⟩
  · rw [hc.1]; exact fun j h => absurd h (by omega)
  · rw [hc.2.1]; exact fun j h => absurd h (Nat.not_lt_zero j)

/-- A file that is refused, for its first field, and one that is admitted. -/
theorem witness_ObjectsAreAdmitted : State.reset.ready = false ∧ (taking 0).ready = true ∧ (taking 0).link.up = true ∧
    (∃ hold code detail, (checksOf (taking 0) [] 0 [])[0]? = some (hold, code, detail) ∧ ¬ hold ∧ detail (leBytes 4 0)) ∧
    ∃ k, (owning (bareKey k)).ready = true ∧ Admissible (owning (bareKey k)) (signedBare k) 0 [0] := by
  refine ⟨by decide, by decide, rfl, ⟨_, _, _, rfl, fun h => ?_, 0, ⟨0, _, rfl, by decide, fun j h => absurd h (Nat.not_lt_zero j)⟩, rfl⟩, ?_⟩
  · exact absurd (h _ (List.mem_append_left _ List.mem_cons_self)) (by decide)
  · rcases one_of_two _ _ bare_keys_differ with h | h
    · exact ⟨0, by decide, bare_admissible 0 (.inl rfl) h⟩
    · exact ⟨1, by decide, bare_admissible 1 (.inr rfl) h⟩

end Sys2Proof.Tests
end

section
/-! What the value of an encoding is, case by case (07 R71, R72), and the notable bytes of the 8-bit formats (R73). -/

namespace Sys2Proof.Machine

/-- Setting the sign bit negates the value and does nothing else (R72). -/
theorem Flt.value_add_signBit (f : Flt) {x : Nat} (hx : x < 2 ^ (f.e + f.m)) :
    f.value (x + 2 ^ (f.e + f.m)) = (f.value x).neg := by
  have hpos : 0 < 2 ^ (f.e + f.m) := Nat.two_pow_pos _
  unfold Flt.value
  simp only [Nat.add_mod_right, Nat.add_div_right _ hpos, Nat.div_eq_of_lt hx]
  split
  next => split <;> rfl
  next => split <;> rfl

/-- The encodings that are NaN: the magnitudes from the limit on, without the one that is an infinity where the format has
infinities (R72). -/
theorem Flt.value_eq_nan_iff (f : Flt) (x : Nat) :
    f.value x = .nan ↔
      f.limit ≤ x % 2 ^ (f.e + f.m) ∧ (f.inf = true → x % 2 ^ (f.e + f.m) ≠ f.limit) := by
  simp only [Flt.value]
  split
  next h => split <;> simp_all
  next h => split <;> simp [h]

/-- Only a format with infinities has an encoding that is one (R72). -/
theorem Flt.value_ne_inf {f : Flt} (hf : f.inf = false) (x : Nat) (neg : Bool) : f.value x ≠ .inf neg := by
  simp only [Flt.value]
  split
  next => simp [hf]
  next => split <;> simp

/-- A byte without sign that holds a finite number, its exact value, and the same number negated in the byte with bit 7 set:
one finite line of the table of R73. -/
theorem Flt.notable_byte {f : Flt} {b : Nat} {q : Rat} (m : Nat) (e : Int) (hf : f.e + f.m = 7) (hb : b < 0x80)
    (hv : f.value b = .fin false m e) (hq : (m : Rat) * 2 ^ e = q) :
    ∃ m e, f.value b = .fin false m e ∧ (m : Rat) * 2 ^ e = q ∧ f.value (b + 0x80) = .fin true m e := by
  have hneg : f.value (b + 0x80) = (f.value b).neg := by
    have h := f.value_add_signBit (x := b) (by rw [hf]; exact hb)
    rwa [hf] at h
  exact ⟨m, e, hv, hq, by rw [hneg, hv]; rfl⟩

/-- E4M3's NaNs are the two encodings with every magnitude bit set (R72, R73). -/
theorem e4m3_nan_iff {b : Nat} (hb : b < 256) : Flt.e4m3.value b = .nan ↔ b = 0x7F ∨ b = 0xFF := by
  have h : Flt.e4m3.value b = .nan ↔ 0x7F ≤ b % 0x80 ∧ (false = true → b % 0x80 ≠ 0x7F) := Flt.value_eq_nan_iff _ b
  simp only [h, Bool.false_eq_true, false_imp_iff, and_true]
  omega

/-- E5M2's NaNs are the encodings beyond its infinities, of either sign (R72, R73). -/
theorem e5m2_nan_iff {b : Nat} (hb : b < 256) :
    Flt.e5m2.value b = .nan ↔ (0x7D ≤ b ∧ b ≤ 0x7F) ∨ (0xFD ≤ b ∧ b ≤ 0xFF) := by
  have h : Flt.e5m2.value b = .nan ↔ 0x7C ≤ b % 0x80 ∧ (true = true → b % 0x80 ≠ 0x7C) := Flt.value_eq_nan_iff _ b
  simp only [h, true_imp_iff]
  omega

/-- Settles O12. The finite bytes are given by magnitude and exponent, in the order of R73's table: the subnormal numbers count
in units of 2^-9 in E4M3 and of 2^-16 in E5M2. The negative forms follow from `Flt.value_add_signBit`, the NaN bytes from
`Flt.value_eq_nan_iff`. -/
theorem notableBytes : Obligations.NotableBytes := by
  refine ⟨?finite, fun _ => e4m3_nan_iff, fun b _ => Flt.value_ne_inf rfl b, fun _ => e5m2_nan_iff,
    by decide, by decide, by decide, by decide⟩
  case finite =>
    simp only [List.forall_mem_cons, List.not_mem_nil, false_imp_iff, implies_true, and_true]
    exact ⟨Flt.notable_byte 0 (-9) rfl (by decide) (by decide) (by norm_num),
      Flt.notable_byte 1 (-9) rfl (by decide) (by decide) (by norm_num),
      Flt.notable_byte 7 (-9) rfl (by decide) (by decide) (by norm_num),
      Flt.notable_byte 8 (-9) rfl (by decide) (by decide) (by norm_num),
      Flt.notable_byte 8 (-3) rfl (by decide) (by decide) (by norm_num),
      Flt.notable_byte 14 5 rfl (by decide) (by decide) (by norm_num),
      Flt.notable_byte 0 (-16) rfl (by decide) (by decide) (by norm_num),
      Flt.notable_byte 1 (-16) rfl (by decide) (by decide) (by norm_num),
      Flt.notable_byte 3 (-16) rfl (by decide) (by decide) (by norm_num),
      Flt.notable_byte 4 (-16) rfl (by decide) (by decide) (by norm_num),
      Flt.notable_byte 4 (-2) rfl (by decide) (by decide) (by norm_num),
      Flt.notable_byte 7 13 rfl (by decide) (by decide) (by norm_num)⟩

end Sys2Proof.Machine
end

section
/-! What taking a trap does to the group that takes it (R47 to R49), and the instruction that raises one (R334). -/

namespace Sys2Proof.Machine

/-! ### The trap registers and the handler's frontier -/

/-- Every code of a cause fits the low byte of `$tcause` (R32, R48). -/
theorem Cause.code_lt (c : Cause) : c.code < 2 ^ 8 := by cases c <;> decide

/-- `$tcause` as a number: none of its fields is cut off at 64 bits (R32). -/
theorem toNat_tcauseOf (pc : DWord) (port : Nat) (c : Cause) :
    (tcauseOf pc port c).toNat = pc.toNat % 2 ^ 48 * 2 ^ 16 + port % 2 * 2 ^ 8 + c.code := by
  have hc := c.code_lt
  rw [tcauseOf, BitVec.toNat_ofNat, Nat.mod_eq_of_lt (by omega)]

/-- The low byte of `$tcause` is the cause's code (R32). -/
theorem toNat_tcauseOf_code (pc : DWord) (port : Nat) (c : Cause) : (tcauseOf pc port c).toNat % 256 = c.code := by
  have hc := c.code_lt
  rw [toNat_tcauseOf]
  omega

/-- Bits 63 to 16 of `$tcause` are the instruction's address (R32). -/
theorem toNat_tcauseOf_pc (pc : DWord) (port : Nat) (c : Cause) :
    (tcauseOf pc port c).toNat / 2 ^ 16 = pc.toNat % 2 ^ 48 := by
  have hc := c.code_lt
  rw [toNat_tcauseOf]
  omega

/-- A handler starts with every live lane at the trap entry, and no other lane in an entry (R47). -/
theorem handlerFront_at (live : LaneMask) (entry : DWord) (l : Nat) :
    (handlerFront live entry).at l = if live.getLsbD l then some (entry, 255) else none := by
  cases h : live.getLsbD l <;> simp [Front.at, handlerFront, Entry.make, h]

/-! ### Taking a trap -/

/-- A trap that nothing holds back, in a group that no latch waits for, is the group's own trap and nothing else (R47). -/
theorem trap_eq_trapGroup {s : State} {i : Issue} (h : Claims.Immediate s i) (c : Cause) (m : LaneMask) (addr : DWord) :
    s.trap i c m addr = s.trapGroup i.gid (i.trapOf c m addr) := by
  obtain ⟨hgroup, halone, hclear⟩ := h
  have hflights : (i.grp.flights.any fun f => f.mask &&& i.slot.mask != 0) = false := by simpa using hclear
  rw [State.trap, State.raise, hflights, if_neg Bool.false_ne_true]
  simp [State.takeTrap, hgroup, halone]

/-- Outside trap mode a group with a trap entry goes to its handler, the trap registers set (R47). -/
theorem trapGroup_enters {s : State} {gid : Nat} {g : Group} {entry : DWord} (t : Trap)
    (hg : s.groups.lookup gid = some g) (ht : g.trap = none) (he : g.trapEntry = some entry) :
    ∃ h, (s.trapGroup gid t).groups.lookup gid = some h ∧ h.front = handlerFront g.live entry ∧
      h.tmask = t.lanes ∧ h.tcause = tcauseOf t.pc t.port t.cause ∧ h.taddr = t.addr := by
  simp [State.trapGroup, hg, ht, he, State.onGroup, Store.lookup_modify, Group.dropped]

/-- In trap mode, or without a trap entry, the group stops and the foreman records the double fault (R49). -/
theorem trapGroup_doubleFaults {s : State} {gid : Nat} {g : Group} (t : Trap)
    (hg : s.groups.lookup gid = some g) (hd : g.trap ≠ none ∨ g.trapEntry = none) :
    (∃ h, (s.trapGroup gid t).groups.lookup gid = some h ∧ h.live = 0) ∧
      (s.trapGroup gid t).outbox = s.outbox ++
        [.doubleFault gid t.cause.code (tcauseOf t.pc t.port t.cause) t.addr g.tcause g.taddr] := by
  simp only [State.trapGroup, hg]
  split
  next entry ht he => simp [ht, he] at hd
  next => simp [State.report, State.onGroup, Store.lookup_modify, hg]

/-! ### `trap #n` (R334) -/

/-- With a lane active, `trap #n` raises `USER_TRAP` for the active lanes with its own address (R334). -/
theorem exec_trap {s : State} {gd : Guard} {i : Issue} (n : BitVec 16) (h : s.issuing gd = some i) (ha : i.active ≠ 0) :
    Traps s i .userTrap i.active i.slot.pc (exec (.trap gd n) s) := by
  show execTrap gd n s = _
  rw [execTrap, withIssue_eq h, if_neg ha]

/-- The word of `trap #n` holds n in bits 30 to 15 (R334). -/
theorem encode_trap_number (gd : Guard) (n : BitVec 16) :
    ∃ w, encode (.trap gd n) = some w ∧ w / 2 ^ 15 % 2 ^ 16 = n.toNat := by
  refine ⟨_, rfl, ?_⟩
  have hn := n.isLt
  simp only [Form.pack, pack, BitVec.toNat_setWidth]
  omega

/-- Settles O22. What a trap does follows from `trap_eq_trapGroup` and the two ways a group takes one. -/
theorem trapInstruction : Obligations.TrapInstruction := by
  intro gd n s i hi ha hb
  have hlanes : (i.trapOf .userTrap i.active i.slot.pc).lanes = i.active := by simp [Issue.trapOf, hb]
  refine ⟨exec_trap n hi ha, rfl, encode_trap_number gd n, ?handler, ?doubleFault⟩
  case handler =>
    intro him ht entry he
    rw [trap_eq_trapGroup him]
    obtain ⟨g, hg, hfront, htmask, htcause, htaddr⟩ :=
      trapGroup_enters (i.trapOf .userTrap i.active i.slot.pc) him.group ht he
    refine ⟨g, hg, htmask.trans hlanes, ?_, ?_, htaddr, fun l _ => ?_⟩
    · rw [htcause]; exact toNat_tcauseOf_code i.slot.pc i.slot.port .userTrap
    · rw [htcause]; exact toNat_tcauseOf_pc i.slot.pc i.slot.port .userTrap
    · rw [hfront, handlerFront_at]
  case doubleFault =>
    intro him ht
    rw [trap_eq_trapGroup him]
    obtain ⟨⟨g, hg, hlive⟩, hout⟩ :=
      trapGroup_doubleFaults (i.trapOf .userTrap i.active i.slot.pc) him.group (.inl ht)
    exact ⟨g, hg, hlive, _, by rw [hout]; exact List.mem_append_right _ (List.mem_singleton_self _), rfl⟩

end Sys2Proof.Machine
end
